-- ==== Sys2Proof/Word.lean ====
section
/-! DEFINITION. The words of the block: bytes, 32-bit and 64-bit values (R7, R12 of 00_scope.md).
Only the types and their plainest readings stand here; everything a test could show wrong stands under Machine/. -/

namespace Sys2Proof

/-- A byte of memory. -/
abbrev Byte := BitVec 8

/-- A 32-bit word: vector lane, 32-bit register. -/
abbrev Word32 := BitVec 32

/-- A 64-bit word: scalar register, 64-bit register, aligned memory word. -/
abbrev Word := BitVec 64

end Sys2Proof
end

