-- ==== Sys2Proof/Syntax.lean ====
section
/-! DEFINITION. The commands of the block: one constructor of `Instr` per row of spec/opcode_table.json, with the
row's operands. Tile instructions name the physical tile `t` whose sequencer executes them (R153 to R187); queue and
admin commands name the task whose checked entry they run (R367, R383); events of the block's units and of its
neighbours carry what the unit or neighbour supplies. -/

namespace Sys2Proof

/-- Scalar register number g0–g31 (R116). -/
abbrev Reg := Fin 32
/-- Vector register number v0–v31 (R116). -/
abbrev VReg := Fin 32
/-- Predicate register number p0–p7 (R116). -/
abbrev PReg := Fin 8
/-- Accumulator file acc0–acc3 (R89). -/
abbrev AccNo := Fin 4
/-- Local completion counter LC0–LC7 (R129). -/
abbrev LcNo := Fin 8

/-- The lane paths of R503: TSV, the four die-to-die ports, result lanes. -/
inductive LinkPath where
  | tsv | xp | xm | y | io | ioIn | result
deriving DecidableEq, Repr

/-- One lane: its quarry (for a link, the transmitting port's quarry), path, DRAM die (result lanes) and number. -/
structure LaneRef where
  quarry : Nat
  path : LinkPath
  die : Nat
  lane : Nat
deriving DecidableEq, Repr

/-- The identity that a register write or a claim carries (R516). A host-port write carries the epoch under which
the host last held ownership; a sideband message carries its epoch. -/
inductive Who where
  | host
  | sideband (eid : BitVec 8) (epoch : BitVec 32)
  | remote (eid : BitVec 8) (epoch : BitVec 32)
deriving DecidableEq, Repr

/-- MODE of a load or store (R167): size 2^size bytes, zero extension, LOCAL, and the acquire or release mark. -/
structure MemMode where
  size : Fin 4
  zx : Bool
  loc : Bool
  mark : Bool
deriving DecidableEq, Repr

/-- FUNC of class 0x8 (R169). -/
structure AmoMode where
  size64 : Bool
  aq : Bool
  rl : Bool
  loc : Bool
deriving DecidableEq, Repr

/-- The control bits of the second word of a vector instruction (R174): PG, PEN, PZ, FTZ, RMODE, SAT. -/
structure VecCtl where
  pg : PReg
  pen : Bool
  pz : Bool
  ftz : Bool
  rmode : BitVec 2
  sat : Bool
deriving DecidableEq, Repr

/-- The second source of a vector instruction: a vector register, or the scalar form of OP bit 7 (R174). -/
inductive VSrc where
  | vec (r : VReg)
  | scal (g : Reg)
deriving DecidableEq, Repr

/-- Second word of `mma` and `mma.sp` (R179). -/
structure MmaCtl where
  acc : AccNo
  fmtA : BitVec 4
  fmtB : BitVec 4
  kb : BitVec 7
  gsa : Reg
  gsb : Reg
  gmd : Reg
deriving DecidableEq, Repr

/-- Second word of `acc.cvt` (R179). -/
structure CvtCtl where
  acc : AccNo
  fmt : BitVec 4
  rmode : BitVec 2
  sat : Bool
  ftz : Bool
  colblk : Bool
  rowFirst : BitVec 6
  rowsM1 : BitVec 6
deriving DecidableEq, Repr

/-- Second word of `tmove` (R182). -/
structure TmoveCtl where
  lc : LcNo
  feset : Bool
  outbound : Bool
  srcFmt : BitVec 4
  dstFmt : BitVec 4
  rmode : BitVec 2
  sat : Bool
  ftz : Bool
deriving DecidableEq, Repr

/-- Second word of SYNC instructions (R184): LOCAL, NW, PD, GDEV, COND. -/
structure SyncCtl where
  loc : Bool
  nw : Bool
  pd : PReg
  gdev : Reg
  cond : BitVec 2
deriving DecidableEq, Repr

/-- What the error codes found at a read (R233, R246, R251, R257). -/
inductive Ecc where
  | clean | corrected | uncorrectable
deriving DecidableEq, Repr

/-- What the checks found while the home served a request: the DRAM outer code with the LOCAL addresses of the affected
words, the quarry-cache SECDED, and that of the directory entry (R246, R251, R257, R317). -/
structure HomeFinding where
  dram : Ecc
  words : List Nat
  qcache : Ecc
  directory : Ecc
deriving DecidableEq, Repr

/-- What the codes found on a read of device memory that is no packet's: the address, the outer code with the addresses of the words that
it lost, and the quarry cache's (R246, R257). -/
structure DramFinding where
  addr : Nat
  dram : Ecc
  words : List Nat
  qcache : Ecc
deriving DecidableEq, Repr

/-- Nothing was found. -/
def noDramFinding : DramFinding := ⟨0, .clean, [], .clean⟩

/-- What was found in a tile's checkpoint half, and at which of its places (R246). -/
structure CkptFinding where
  place : Nat
  ecc : Ecc
deriving DecidableEq, Repr

/-- What the tile's parity found as its data cache read a line: on an access, a write-back or a snoop (R233). -/
inductive CacheParity where
  | good | dataBad | tagBad | stateBad
deriving DecidableEq, Repr

/-- What SECDED found at a read of tile memory (R121): nothing, or the tile-local address of a word that was corrected, or of
one that cannot be. -/
inductive TileEcc where
  | clean
  | corrected (a : Nat)
  | poisoned (a : Nat)
deriving DecidableEq, Repr

/-- Data that a host read brought, or its failure (R275, R411, R422, R425). -/
inductive HostData where
  | data (bytes : List Byte) (poisoned : Bool)
  | refused
  | timedOut
deriving DecidableEq, Repr

/-- What a Translation Completion carries (R275): the translated base, the size in bytes, and R and W, or a failure. -/
inductive XlatReply where
  | success (base size : Nat) (r w untranslatedOnly : Bool)
  | unsupported
  | completerAbort
  | timedOut
deriving DecidableEq, Repr

/-- A Page Request Group Response (R278). -/
inductive PrgReply where
  | success | invalid | failure
deriving DecidableEq, Repr

/-- An agent of the directory: a physical tile, or the host's CXL agent 416 (R306). -/
abbrev AgentNo := Nat

/-- The answers of an agent on RSP (R308). -/
inductive SnoopAnswer where
  | ackI | ackS | data | wbPending
deriving DecidableEq, Repr

/-- The caches of R235, in the order of its table. -/
inductive CacheRef where
  | tileData (t : Nat)
  | tileInstr (t : Nat)
  | copyEngine (quarry engine : Nat)
  | quarryCache (quarry : Nat)
  | quartzInstr (core : Nat)
  | quartzData (core : Nat)
  | sequencer (s : Nat)
deriving DecidableEq, Repr

/-- Units of a tile that gate separately (R152). -/
inductive GateUnit where
  | sequencer | matrix | vector | mover
deriving DecidableEq, Repr

/-- A waiter: the source of a registered wait (R334). -/
inductive WaitRef where
  | tile (t : Nat)
  | task (k : Nat)
deriving DecidableEq, Repr

/-- The boot findings of Quartz (R509, R510): quarries that trained, tiles that failed boot test, whether each Quartz
ROM check passed, the declared reference spread, the key fuse digests and revocation bits. -/
structure BootFinding where
  trained : BitVec 8
  failedTiles : List Nat
  rom0 : Bool
  rom4 : Bool
  refSpread : Nat
  keyDigests : List (Option (BitVec 384))
  revoked : BitVec 4
  keyDigests4 : List (Option (BitVec 384))
  revoked4 : BitVec 4
deriving DecidableEq, Repr

/-- What a host write to a BAR carries beside its data: a poison mark (EP, R422), and a PASID prefix (R421). -/
structure HostMark where
  ep : Bool
  pasid : Bool
deriving DecidableEq, Repr

/-- Address of an inbound packet's queue pair and order (R439, R442): source device, adapter handle, key mark,
sequence number. -/
structure PacketHead where
  device : Nat
  handle : Nat
  keyMark : Nat
  seq : Nat
deriving DecidableEq, Repr

/-- Response codes of R442. -/
inductive FabCode where
  | done | notNow | refused | notReady | orphaned | abandoned
deriving DecidableEq, Repr

/-- The kinds of unit tested by R497. -/
inductive TestUnit where
  | tile (t : Nat)
  | spareBank (stack die bank : Nat)
  | lane (l : LaneRef)
  | copyEngine (quarry : Nat)
  | pll (quarry : Nat)
  | quartz
deriving DecidableEq, Repr

/-- Temperatures of one quarry, °C (R472, R473). -/
structure TempReading where
  compute : Nat
  base : Nat
  dram : Nat
deriving DecidableEq, Repr

/-- An item's demand (R466): what it would have drawn in the last interval in quarries 0 to 7 at their targets, in watts each. `vein = none`:
unattributed. -/
structure DemandItem where
  vein : Option Nat
  cls : Fin 3
  draws : List Nat
deriving DecidableEq, Repr

/-- The fields a host configuration write may set that R403, R408, R278 and R413 to R416 give an effect. -/
inductive CfgField where
  | memorySpaceEnable (v : Bool)
  | busMasterEnable (v : Bool)
  | priEnable (v : Bool)
  | atsEnable (v : Bool)
  | cacheEnable (v : Bool)
  | memEnable (v : Bool)
  | msixEnable (v : Bool)
  | functionMask (v : Bool)
  | msiEnable (v : Bool) (log2Vectors : Nat)
  | msiMask (mask : BitVec 32)
  | pmeEnable (v : Bool)
  | aspmL1Enable (v : Bool)
  | maxPayload (code : BitVec 3)
  | maxReadRequest (code : BitVec 3)
  | completionTimeout (value : BitVec 4) (disable : Bool)
  | priAllocation (n : Nat)
  | barBase (bar : Fin 3) (base : Nat)
  | msiAddress (addr : BitVec 64) (data : BitVec 16)
  | aerSeverity (bits : BitVec 32)
  | aerClear (correctable uncorrectable : BitVec 32)
deriving DecidableEq, Repr

/-- The commands of the block. -/
inductive Instr where
  -- links (R24, R25)
  | laneCrcFail (l : LaneRef)
  | laneSwap (l : LaneRef)
  | linkReplayTimeout (q : Nat) (path : LinkPath)
  | routeDetour (q : Nat) (path : LinkPath)
  -- Strata loads (R64 to R76)
  | loadStrata
  | strataStaged (fetch : HostData) (f : DramFinding)
  | strataLoadDone
  -- launches and the tile's own events (R125 to R152)
  | launch (k : Nat)
  | launchDispatch (k : Nat)
  | stableRegionFilled (t : Nat) (f : DramFinding)
  | mmaStart (t : Nat)
  | mmaComplete (t : Nat) (ecc : TileEcc)
  | tmoveComplete (t : Nat) (slot : Nat) (host : HostData)
  | checkpointDone (t : Nat) (ck : CkptFinding)
  | unitCycleLimit (t : Nat)
  | tileDatapathFault (t : Nat)
  | tileReplayStart (t : Nat) (ck : CkptFinding) (f : DramFinding)
  | tileClockGate (t : Nat) (u : GateUnit)
  | waitWatchdog (w : WaitRef)
  -- scalar classes 0x0 to 0x5 (R164 to R166)
  | add (t : Nat) (rd ra rb : Reg)
  | sub (t : Nat) (rd ra rb : Reg)
  | and (t : Nat) (rd ra rb : Reg)
  | or (t : Nat) (rd ra rb : Reg)
  | xor (t : Nat) (rd ra rb : Reg)
  | sll (t : Nat) (rd ra rb : Reg)
  | srl (t : Nat) (rd ra rb : Reg)
  | sra (t : Nat) (rd ra rb : Reg)
  | slt (t : Nat) (rd ra rb : Reg)
  | sltu (t : Nat) (rd ra rb : Reg)
  | min (t : Nat) (rd ra rb : Reg)
  | max (t : Nat) (rd ra rb : Reg)
  | minu (t : Nat) (rd ra rb : Reg)
  | maxu (t : Nat) (rd ra rb : Reg)
  | mul (t : Nat) (rd ra rb : Reg)
  | mulh (t : Nat) (rd ra rb : Reg)
  | mulhu (t : Nat) (rd ra rb : Reg)
  | div (t : Nat) (rd ra rb : Reg)
  | divu (t : Nat) (rd ra rb : Reg)
  | rem (t : Nat) (rd ra rb : Reg)
  | remu (t : Nat) (rd ra rb : Reg)
  | clz (t : Nat) (rd ra : Reg)
  | ctz (t : Nat) (rd ra : Reg)
  | cpop (t : Nat) (rd ra : Reg)
  | addi (t : Nat) (rd ra : Reg) (imm : BitVec 13)
  | andi (t : Nat) (rd ra : Reg) (imm : BitVec 13)
  | ori (t : Nat) (rd ra : Reg) (imm : BitVec 13)
  | xori (t : Nat) (rd ra : Reg) (imm : BitVec 13)
  | slli (t : Nat) (rd ra : Reg) (imm : BitVec 13)
  | srli (t : Nat) (rd ra : Reg) (imm : BitVec 13)
  | srai (t : Nat) (rd ra : Reg) (imm : BitVec 13)
  | slti (t : Nat) (rd ra : Reg) (imm : BitVec 13)
  | sltiu (t : Nat) (rd ra : Reg) (imm : BitVec 13)
  | shins (t : Nat) (rd ra : Reg) (imm : BitVec 18)
  | beq (t : Nat) (ra rb : Reg) (off : BitVec 13)
  | bne (t : Nat) (ra rb : Reg) (off : BitVec 13)
  | blt (t : Nat) (ra rb : Reg) (off : BitVec 13)
  | bge (t : Nat) (ra rb : Reg) (off : BitVec 13)
  | bltu (t : Nat) (ra rb : Reg) (off : BitVec 13)
  | bgeu (t : Nat) (ra rb : Reg) (off : BitVec 13)
  | jal (t : Nat) (rd : Reg) (off : BitVec 23)
  | jalr (t : Nat) (rd ra : Reg) (off : BitVec 13)
  -- memory (R167 to R170)
  | load (t : Nat) (rd ra : Reg) (m : MemMode) (off : BitVec 13) (parity : CacheParity) (ecc : TileEcc)
  | store (t : Nat) (rb ra : Reg) (m : MemMode) (off : BitVec 13) (parity : CacheParity)
  | lr (t : Nat) (rd ra : Reg) (m : AmoMode) (ecc : TileEcc) (par : CacheParity)
  | sc (t : Nat) (rd ra rb : Reg) (m : AmoMode) (par : CacheParity)
  | amoAdd (t : Nat) (rd ra rb : Reg) (m : AmoMode) (ecc : TileEcc) (par : CacheParity)
  | amoSwap (t : Nat) (rd ra rb : Reg) (m : AmoMode) (ecc : TileEcc) (par : CacheParity)
  | amoCas (t : Nat) (rd ra rb : Reg) (m : AmoMode) (ecc : TileEcc) (par : CacheParity)
  | ldfence (t : Nat)
  | stfence (t : Nat)
  | fullfence (t : Nat) (par : CacheParity)
  | csrr (t : Nat) (rd : Reg) (csr : BitVec 12)
  | csrw (t : Nat) (ra : Reg) (csr : BitVec 12)
  | commit (t : Nat) (files : BitVec 4)
  | yield (t : Nat) (files : BitVec 4)
  | halt (t : Nat) (par : CacheParity)
  | trap (t : Nat) (code : BitVec 9)
  -- vector (R174 to R178)
  | fadd (t : Nat) (vd va : VReg) (vb : VSrc) (c : VecCtl)
  | fsub (t : Nat) (vd va : VReg) (vb : VSrc) (c : VecCtl)
  | fmul (t : Nat) (vd va : VReg) (vb : VSrc) (c : VecCtl)
  | ffma (t : Nat) (vd va : VReg) (vb : VSrc) (vc : VReg) (c : VecCtl)
  | ffms (t : Nat) (vd va : VReg) (vb : VSrc) (vc : VReg) (c : VecCtl)
  | fnfma (t : Nat) (vd va : VReg) (vb : VSrc) (vc : VReg) (c : VecCtl)
  | fmin (t : Nat) (vd va : VReg) (vb : VSrc) (c : VecCtl)
  | fmax (t : Nat) (vd va : VReg) (vb : VSrc) (c : VecCtl)
  | fsqrt (t : Nat) (vd va : VReg) (c : VecCtl)
  | fabs (t : Nat) (vd va : VReg) (c : VecCtl)
  | fneg (t : Nat) (vd va : VReg) (c : VecCtl)
  | fceq (t : Nat) (pd : PReg) (va : VReg) (vb : VSrc) (c : VecCtl)
  | fclt (t : Nat) (pd : PReg) (va : VReg) (vb : VSrc) (c : VecCtl)
  | fcle (t : Nat) (pd : PReg) (va : VReg) (vb : VSrc) (c : VecCtl)
  | fcun (t : Nat) (pd : PReg) (va : VReg) (vb : VSrc) (c : VecCtl)
  | vadd (t : Nat) (vd va : VReg) (vb : VSrc) (c : VecCtl)
  | vsub (t : Nat) (vd va : VReg) (vb : VSrc) (c : VecCtl)
  | vmul (t : Nat) (vd va : VReg) (vb : VSrc) (c : VecCtl)
  | vmulh (t : Nat) (vd va : VReg) (vb : VSrc) (c : VecCtl)
  | vand (t : Nat) (vd va : VReg) (vb : VSrc) (c : VecCtl)
  | vor (t : Nat) (vd va : VReg) (vb : VSrc) (c : VecCtl)
  | vxor (t : Nat) (vd va : VReg) (vb : VSrc) (c : VecCtl)
  | vshl (t : Nat) (vd va : VReg) (vb : VSrc) (c : VecCtl)
  | vshr (t : Nat) (vd va : VReg) (vb : VSrc) (c : VecCtl)
  | vsra (t : Nat) (vd va : VReg) (vb : VSrc) (c : VecCtl)
  | vmin (t : Nat) (vd va : VReg) (vb : VSrc) (c : VecCtl)
  | vmax (t : Nat) (vd va : VReg) (vb : VSrc) (c : VecCtl)
  | vminu (t : Nat) (vd va : VReg) (vb : VSrc) (c : VecCtl)
  | vmaxu (t : Nat) (vd va : VReg) (vb : VSrc) (c : VecCtl)
  | vceq (t : Nat) (pd : PReg) (va : VReg) (vb : VSrc) (c : VecCtl)
  | vclt (t : Nat) (pd : PReg) (va : VReg) (vb : VSrc) (c : VecCtl)
  | vcltu (t : Nat) (pd : PReg) (va : VReg) (vb : VSrc) (c : VecCtl)
  | vsel (t : Nat) (vd va : VReg) (vb : VSrc) (c : VecCtl)
  | vbcast (t : Nat) (vd : VReg) (ga : Reg) (c : VecCtl)
  | vlane (t : Nat) (vd : VReg) (c : VecCtl)
  | vext (t : Nat) (rd rb : Reg) (va : VReg)
  | vcvt (t : Nat) (vd va : VReg) (src dst : BitVec 5) (c : VecCtl)
  | vperm (t : Nat) (vd va vb : VReg) (c : VecCtl)
  | vredFadd (t : Nat) (rd : Reg) (va : VReg) (c : VecCtl)
  | vredFmax (t : Nat) (rd : Reg) (va : VReg) (c : VecCtl)
  | vredAdd (t : Nat) (rd : Reg) (va : VReg) (c : VecCtl)
  | vredMax (t : Nat) (rd : Reg) (va : VReg) (c : VecCtl)
  | pand (t : Nat) (pd pa pb : PReg) (c : VecCtl)
  | por (t : Nat) (pd pa pb : PReg) (c : VecCtl)
  | pxor (t : Nat) (pd pa pb : PReg) (c : VecCtl)
  | pandn (t : Nat) (pd pa pb : PReg) (c : VecCtl)
  | pnot (t : Nat) (pd pa : PReg) (c : VecCtl)
  | pfromg (t : Nat) (pd : PReg) (ga : Reg) (c : VecCtl)
  | ptog (t : Nat) (rd : Reg) (pa : PReg)
  | pcnt (t : Nat) (rd : Reg) (pa : PReg)
  | vld (t : Nat) (vd : VReg) (ga : Reg) (c : VecCtl) (ecc : TileEcc)
  | vst (t : Nat) (va : VReg) (ga : Reg) (c : VecCtl)
  | vlds (t : Nat) (vd : VReg) (ga gb : Reg) (c : VecCtl) (ecc : TileEcc)
  | vsts (t : Nat) (va : VReg) (ga gb : Reg) (c : VecCtl)
  | vgather (t : Nat) (vd va : VReg) (ga : Reg) (c : VecCtl) (ecc : TileEcc)
  | vscatter (t : Nat) (vd va : VReg) (ga : Reg) (c : VecCtl)
  -- matrix, tensor move, Mica issue (R179 to R183)
  | mma (t : Nat) (ga gb : Reg) (m : MmaCtl)
  | mmaSp (t : Nat) (ga gb : Reg) (m : MmaCtl)
  | accAnchor (t : Nat) (acc : AccNo) (fp32 : Bool) (anchor : BitVec 16)
  | accLoad (t : Nat) (ga : Reg) (acc : AccNo) (addTo : Bool) (ecc : TileEcc)
  | accStore (t : Nat) (ga : Reg) (acc : AccNo)
  | accCvt (t : Nat) (ga gb : Reg) (m : CvtCtl)
  | accWait (t : Nat) (files : BitVec 4)
  | tmove (t : Nat) (ga : Reg) (m : TmoveCtl) (ecc : TileEcc) (f : DramFinding) (par : CacheParity)
  | micaGemv (t : Nat) (ga : Reg) (lc : LcNo) (ecc : TileEcc) (par : CacheParity)
  -- synchronisation instructions (R184)
  | feFill (t : Nat) (ga gb : Reg) (m : SyncCtl) (par : CacheParity)
  | feTake (t : Nat) (rd ga : Reg) (m : SyncCtl) (ecc : TileEcc)
  | fePeek (t : Nat) (rd ga : Reg) (m : SyncCtl) (ecc : TileEcc)
  | sigAdd (t : Nat) (ga gb : Reg) (m : SyncCtl) (par : CacheParity)
  | sigSub (t : Nat) (ga gb : Reg) (m : SyncCtl) (par : CacheParity)
  | sigWait (t : Nat) (rd ga gb : Reg) (m : SyncCtl)
  | barArrive (t : Nat) (rd ga : Reg) (m : SyncCtl) (par : CacheParity)
  | barWait (t : Nat) (ga gb : Reg) (m : SyncCtl)
  | lcWait (t : Nat) (lc : LcNo) (gb : Reg)
  -- Mica (R195 to R222)
  | micaStreamStart (stack : Nat) (f : DramFinding)
  | micaBlockSum (id row : Nat) (f : DramFinding)
  | micaCommandComplete (id : Nat) (f : DramFinding)
  | micaResidueFail (stack bank row : Nat)
  | dramRefresh (stack bank : Nat)
  | bankSwitch (stack bank : Nat) (died : Bool) (lost : List Nat)
  | queueMicaGemv (k : Nat)
  -- caches (R223 to R247)
  | cacheEnable (c : CacheRef)
  | cacheDisable (c : CacheRef) (par : CacheParity)
  | cacheInvalidateAll (c : CacheRef) (par : CacheParity)
  | cacheFillData (t : Nat) (host : HostData) (parity : CacheParity)
  | icacheFill (t : Nat) (va : Nat) (parityBad : Bool) (f : DramFinding)
  | cleanOffer (t : Nat) (sector : Nat)
  | waySpareSwap (quarry slice way : Nat) (directory : Bool)
  -- DRAM (R251 to R261)
  | patrolScrub (addr : Nat) (ecc : Ecc) (words : List Nat)
  | rowRepair (stack bank row : Nat)
  | granuleTagChange (g : Nat)
  -- translation (R272 to R286)
  | translationCompletion (req : Nat) (r : XlatReply)
  | prgResponse (slot : Nat) (r : PrgReply)
  | priTimeout (slot : Nat)
  | atsInvalidation (pasid : Option Nat)
  | invalidationCompletion
  | invalidationDrainTimeout
  | prefetchXlat (k : Nat)
  | adviseWillNeed (k : Nat)
  | adviseWillNotNeed (k : Nat)
  | preferDevice (k : Nat) (host : HostData)
  | preferHost (k : Nat) (f : DramFinding)
  -- homes, snoops and responses (R292 to R324)
  | homeRead (id : Nat) (f : HomeFinding)
  | homeReadOwnership (id : Nat) (f : HomeFinding)
  | homeWrite (id : Nat) (f : HomeFinding)
  | homeWriteBack (id : Nat) (f : HomeFinding)
  | homeNonallocRead (id : Nat) (f : HomeFinding)
  | homeLr (id : Nat) (f : HomeFinding)
  | homeSc (id : Nat) (f : HomeFinding)
  | homeAmo (id : Nat) (f : HomeFinding)
  | snpInv (agent : AgentNo) (txn : Nat) (parity : CacheParity)
  | snpShr (agent : AgentNo) (txn : Nat) (parity : CacheParity)
  | snpCur (agent : AgentNo) (txn : Nat) (parity : CacheParity)
  | snoopResponse (txn : Nat) (agent : AgentNo) (a : SnoopAnswer)
  | snoopTimeout (txn : Nat) (agent : AgentNo)
  | stashDelivery (t : Nat) (sector : Nat)
  | stashDropNotice (t : Nat) (sector : Nat)
  | reservationLockTimeout (granule : Nat)
  | hostSnoop (hpa : Nat) (invalidate : Bool)
  | hostGo (id : Nat)
  | hostCxlmemRequest (hpa : Nat) (len : Nat) (wr : Option (List Byte)) (poisoned : Bool) (own : Bool)
  | biResponse (txn : Nat) (wb : Option (List Byte)) (hostKeepsShared : Bool)
  | memoryResponse (id : Nat)
  | taskCompletion (k : Nat)
  | completionInterrupt (k : Nat)
  -- Flint (R326 to R362)
  | flintHomeAdd (id : Nat)
  | flintHomeSub (id : Nat)
  | flintHomeArrival (id : Nat)
  | flintHomeRelease (id : Nat)
  | flintWaitRegister (id : Nat)
  | childListRead (obj : Nat) (f : DramFinding)
  | feHomeFill (id : Nat) (f : HomeFinding)
  | feHomeTake (id : Nat) (f : HomeFinding)
  | feHomePeek (id : Nat) (f : HomeFinding)
  | flintWake (id : Nat)
  | flintWinAdd (obj : Nat) (v : Word32) (m : HostMark)
  | flintWinSub (obj : Nat) (v : Word32) (m : HostMark)
  | flintWinArrive (obj : Nat) (m : HostMark)
  | flintWinClear (obj : Nat) (v : Word32) (m : HostMark)
  | feWinFill (slot : Nat) (v : Word) (m : HostMark)
  | feWinTake (slot : Nat) (pasid : Bool) (f : DramFinding)
  | contextRestore (c : Nat) (f : DramFinding)
  | flintSliceFault (quarry : Nat)
  -- queues (R363 to R395)
  | workDoorbell (off : Nat) (width : Nat) (v : Word) (m : HostMark)
  | admqDoorbell (w : Who) (v : Word)
  | admqBase (w : Who) (v : Word)
  | admqSize (w : Who) (v : Word)
  | entryFetch (q : Option Nat)
  | entryFetched (q : Option Nat) (host : HostData) (f : DramFinding)
  | ownStallRetry (q : Option Nat)
  | entryDispatch (k : Nat)
  | deadlineMiss (k : Nat)
  | nop (k : Nat)
  | copy (k : Nat)
  | copyInline (k : Nat)
  | fill (k : Nat)
  | copyComplete (k : Nat) (host : HostData) (f : DramFinding)
  | signalAdd (k : Nat)
  | signalSub (k : Nat)
  | signalConfigure (k : Nat)
  | signalFree (k : Nat)
  | wait (k : Nat)
  | barrierArrive (k : Nat)
  | flush (k t : Nat) (par : CacheParity)
  | fence (k : Nat)
  | timestamp (k : Nat)
  | createQueue
  | destroyQueue
  | resetQueue
  | abortQueue
  | createContext
  | destroyContext
  | evictContext
  | setSegment
  | setPowerCap
  | selfTest (failed : List TestUnit)
  | dumpSyncState
  | assignDeviceNumber
  | sleep
  | copyChunkCrcFail (k : Nat) (engine : Nat)
  -- host endpoint (R399 to R429, R509)
  | flr
  | hotReset
  | fundamentalReset (b : BootFinding)
  | d3hotWrite
  | d0Write
  | bar4Resize (log2Bytes : Nat)
  | hdmDecoderCommit (base size ways : Nat) (lock : Bool)
  | cacheWritebackInvalidate
  | msixUnmask (vector : Nat)
  | bar4Read (off len : Nat) (pasid : Bool)
  | bar4Write (off : Nat) (bytes : List Byte) (m : HostMark) (steer : BitVec 16)
  | bar4Atomic (off : Nat) (size64 : Bool) (swap : Bool) (cas : Option Word) (v : Word) (pasid : Bool)
  | completionTimeout (id : Nat)
  | cxlioReadCompletion (id : Nat) (d : HostData)
  | aspmL1Entry
  | doeDiscovery (index : Nat)
  | cdatRead (entry : Nat)
  | getVersion
  | getCapabilities
  | negotiateAlgorithms
  | getDigests
  | getCertificate (slot off len : Nat)
  | challenge (nonce : BitVec 256)
  | getMeasurements (index : Nat)
  -- fabric port (R430 to R454)
  | devtabInvalidateOne (w : Who) (device : Nat)
  | devtabInvalidateAll (w : Who)
  | fabDevtabBase (w : Who) (v : Word)
  | devtabFill (device : Nat) (f : DramFinding)
  | inboundPut (h : PacketHead) (addr : Nat) (bytes : List Byte) (poison : List Bool) (stash : Option Nat)
  | inboundGet (h : PacketHead) (addr len : Nat)
  | inboundAtomic (h : PacketHead) (addr : Nat) (cas : Option Word) (v : Word)
  | inboundSignal (h : PacketHead) (obj : Nat) (subtract : Bool) (amount : Word32)
  | inboundArrival (h : PacketHead) (obj : Nat)
  | inboundRelease (h : PacketHead) (obj : Nat)
  | inboundFill (h : PacketHead) (addr : Nat) (v : Word)
  | packetCommit (channel id : Nat)
  | fabricResponse (id : Nat) (code : FabCode) (bytes : List Byte) (poison : List Bool)
  | creditGrant (channel requests responses : Nat)
  | qpTimeout (device : Nat)
  | qpAuthFailed (device : Nat)
  | wakePacket
  -- power, clocks, thermal (R455 to R483)
  | pwrFset (w : Who) (v : Word)
  | pwrCapOwner (w : Who) (v : Word32)
  | rackCapSet (watts : Nat)
  | freqChangeDone (quarry : Nat)
  | boostStep (quarry : Nat) (nextStepWatts : Nat)
  | voltageTrim (quarry marginMv : Nat)
  | droopDetect (quarry : Nat)
  | stretchEnd (quarry : Nat)
  | currentLimitStep (quarry : Nat) (averageMilliAmps : Nat)
  | vralertAssert
  | vralertDeassert
  | alertFloorRelease
  | powerGrantInterval (fixed : Nat) (items : List DemandItem)
  | powerModelCalibrate (measuredWatts : Nat)
  | energyUpdate (counts : List (Option Nat × Fin 24 × Nat)) (measuredMicroJ : Nat)
  | thermalSample (readings : List (Nat × TempReading))
  | thermalLimitStep (quarry : Nat)
  | sleepEntry
  | wake
  | wakeNAssert
  | pldmWake
  | wakeComplete
  | heartbeat
  -- faults and spares (R484 to R508)
  | quartzTakeover
  | pllFault (quarry : Nat) (kiloHertz : Nat)
  | memorySideCrcFail (t : Nat) (second : Bool)
  | tileRetire (t : Nat) (deficitMv : Nat)
  | rotationStep (quarry : Nat)
  | spareTest (u : TestUnit)
  | unitTestDone (u : TestUnit) (passed : Bool) (ticks : Nat)
  | calibrationCheck (l : LaneRef) (temp : Nat) (milliAmps : Nat)
  | laneRetrain (l : LaneRef) (temp : Nat) (milliAmps : Nat)
  | faultNotify
  -- ownership and the sideband (R516 to R525)
  | ownClaim (epoch : BitVec 32)
  | claim (w : Who)
  | ownRenew (w : Who) (epoch : BitVec 32)
  | leaseLapse
  | ownHandover (w : Who) (v : Word)
  | handoverLapse
  | regRead (off width : Nat)
  | regWrite (w : Who) (off width : Nat) (v : Word)
  | memRead (addr len : Nat)
  | memWrite (w : Who) (addr : Nat) (bytes : List Byte)
  -- read-clear registers (R18) and every other register write (R12)
  | ownDeniedCount (pasid : Bool)
  | queueDbIgnored (pasid : Bool)
  | flintFaults (pasid : Bool)
  | flintWinIgnored (pasid : Bool)
  | xlatDrainMax (pasid : Bool)
  | fabEvents (pasid : Bool)
  | registerWrite (off width : Nat) (v : Word) (m : HostMark)
  | perstAsserted
  | hostLinkUp
  | configurationWrite (f : CfgField)
  | currentLimitReport (quarry : Nat) (milliAmps : Nat)
  | referenceClockEdge
  | accOpComplete (t : Nat) (slot : Nat)
deriving DecidableEq, Repr

end Sys2Proof
end

