-- ==== Sys2Proof/Decode.lean ====
section
/-! DEFINITION. Decoding. The commands of the block have no words of their own: spec/opcode_table.json gives no row any bits, so
`decodeTableWord` refuses every word. The tile instructions, which some of the commands issue, have words in memory:
`decodeInsn` reads them by the encodings of chapter 05 (R160 to R184). It refuses every word that R161 makes illegal: a reserved
class, group or operation, and a set bit in a reserved or unused field. A reserved value that an operand of the command can
carry (a mode, a format code) is left to the instruction's meaning, which traps with the cause of R188. -/

namespace Sys2Proof

/-- The command that a word of `nbits` bits spells by the table's bits: none, because no row gives bits. -/
def decodeTableWord (_nbits _w : Nat) : Option Instr := none

/-! ## Fields of an instruction, numbered from bit 0 of its first word -/

/-- The field of `n` bits from bit `lo`. -/
def field (w lo n : Nat) : Nat := w / 2 ^ lo % 2 ^ n

/-- A field is 0, as an unused or reserved one must be (R161). -/
def clear (w lo n : Nat) : Bool := field w lo n == 0

/-- One bit. -/
def flagAt (w i : Nat) : Bool := field w i 1 == 1

/-- A register number of five bits. -/
def regAt (w lo : Nat) : Reg := Fin.ofNat 32 (field w lo 5)

/-- A predicate register or a local counter, of three bits. -/
def smallAt (w lo : Nat) : Fin 8 := Fin.ofNat 8 (field w lo 3)

/-- The instruction, where a condition on its fields holds. -/
def given (ok : Bool) (i : Instr) : Option Instr := if ok then some i else none

/-! ## Scalar classes (R163 to R172) -/

/-- Class 0x0 (R164). -/
def decodeAlu (t w : Nat) : Option Instr :=
  let d := regAt w 4
  let a := regAt w 9
  let b := regAt w 14
  if !clear w 25 7 then none
  else match field w 19 6 with
    | 0x00 => some (.add t d a b)
    | 0x01 => some (.sub t d a b)
    | 0x02 => some (.and t d a b)
    | 0x03 => some (.or t d a b)
    | 0x04 => some (.xor t d a b)
    | 0x05 => some (.sll t d a b)
    | 0x06 => some (.srl t d a b)
    | 0x07 => some (.sra t d a b)
    | 0x08 => some (.slt t d a b)
    | 0x09 => some (.sltu t d a b)
    | 0x0A => some (.min t d a b)
    | 0x0B => some (.max t d a b)
    | 0x0C => some (.minu t d a b)
    | 0x0D => some (.maxu t d a b)
    | 0x10 => some (.mul t d a b)
    | 0x11 => some (.mulh t d a b)
    | 0x12 => some (.mulhu t d a b)
    | 0x14 => some (.div t d a b)
    | 0x15 => some (.divu t d a b)
    | 0x16 => some (.rem t d a b)
    | 0x17 => some (.remu t d a b)
    | 0x18 => given (b == 0) (.clz t d a)
    | 0x19 => given (b == 0) (.ctz t d a)
    | 0x1A => given (b == 0) (.cpop t d a)
    | _ => none

/-- Class 0x1 (R164): SUB has the register form's numbers. -/
def decodeAluImm (t w : Nat) : Option Instr :=
  let d := regAt w 4
  let a := regAt w 9
  let i := BitVec.ofNat 13 (field w 19 13)
  match field w 14 5 with
  | 0x00 => some (.addi t d a i)
  | 0x02 => some (.andi t d a i)
  | 0x03 => some (.ori t d a i)
  | 0x04 => some (.xori t d a i)
  | 0x05 => some (.slli t d a i)
  | 0x06 => some (.srli t d a i)
  | 0x07 => some (.srai t d a i)
  | 0x08 => some (.slti t d a i)
  | 0x09 => some (.sltiu t d a i)
  | _ => none

/-- Class 0x3 (R166): COND is the RD slot. -/
def decodeBranch (t w : Nat) : Option Instr :=
  let a := regAt w 9
  let b := regAt w 14
  let i := BitVec.ofNat 13 (field w 19 13)
  match field w 4 5 with
  | 0 => some (.beq t a b i)
  | 1 => some (.bne t a b i)
  | 2 => some (.blt t a b i)
  | 3 => some (.bge t a b i)
  | 4 => some (.bltu t a b i)
  | 5 => some (.bgeu t a b i)
  | _ => none

/-- MODE of a load or store, in the slot from bit `lo` (R167). -/
def modeAt (w lo : Nat) : MemMode :=
  ⟨Fin.ofNat 4 (field w lo 2), flagAt w (lo + 2), flagAt w (lo + 3), flagAt w (lo + 4)⟩

/-- Class 0x8 (R169). -/
def decodeAmo (t w : Nat) : Option Instr :=
  let d := regAt w 4
  let a := regAt w 9
  let b := regAt w 14
  let m : AmoMode := ⟨flagAt w 23, flagAt w 24, flagAt w 25, flagAt w 26⟩
  if !clear w 27 5 then none
  else match field w 19 4 with
    | 0 => given (b == 0) (.lr t d a m .clean .good)
    | 1 => some (.sc t d a b m .good)
    | 2 => some (.amoAdd t d a b m .clean .good)
    | 3 => some (.amoSwap t d a b m .clean .good)
    | 4 => some (.amoCas t d a b m .clean .good)
    | _ => none

/-- Class 0x9 (R170). -/
def decodeFence (t w : Nat) : Option Instr :=
  if !clear w 4 15 || !clear w 21 11 then none
  else match field w 19 2 with
    | 1 => some (.ldfence t)
    | 2 => some (.stfence t)
    | 3 => some (.fullfence t .good)
    | _ => none

/-- Class 0xA (R171). -/
def decodeCsr (t w : Nat) : Option Instr :=
  let n := BitVec.ofNat 12 (field w 19 12)
  if !clear w 14 5 then none
  else if flagAt w 31 then given (clear w 4 5) (.csrw t (regAt w 9) n)
  else given (clear w 9 5) (.csrr t (regAt w 4) n)

/-- Class 0xB (R172). -/
def decodeUnit (t w : Nat) : Option Instr :=
  if !clear w 4 15 then none
  else match field w 19 4 with
    | 0 => given (clear w 27 5) (.commit t (BitVec.ofNat 4 (field w 23 4)))
    | 1 => given (clear w 27 5) (.yield t (BitVec.ofNat 4 (field w 23 4)))
    | 2 => given (clear w 23 9) (.halt t .good)
    | 3 => some (.trap t (BitVec.ofNat 9 (field w 23 9)))
    | _ => none

/-! ## Wide groups (R173 to R184) -/

/-- The control bits of a vector instruction (R174). -/
def vecCtlAt (w : Nat) : VecCtl :=
  ⟨smallAt w 52, flagAt w 55, flagAt w 56, flagAt w 57, BitVec.ofNat 2 (field w 58 2), flagAt w 60⟩

/-- The second source: VB, or in the scalar form of OP bit 7 the register of RA, where VB must be 0 (R174). -/
def vsrcAt (w : Nat) : Option VSrc :=
  if flagAt w 31 then (if clear w 42 5 then some (.scal (regAt w 9)) else none)
  else if clear w 9 5 then some (.vec (regAt w 42)) else none

/-- A vector instruction with a second source and no third; the g slots but that of the scalar form are unused. -/
def vec2 (w : Nat) (f : VReg → VReg → VSrc → VecCtl → Instr) : Option Instr :=
  if !clear w 4 5 || !clear w 14 5 || !clear w 47 5 || !clear w 61 3 then none
  else (vsrcAt w).map (fun b => f (regAt w 32) (regAt w 37) b (vecCtlAt w))

/-- A compare: VD names a predicate register. -/
def vecCmp (w : Nat) (f : PReg → VReg → VSrc → VecCtl → Instr) : Option Instr :=
  if !clear w 35 2 then none else vec2 w (fun _ a b c => f (smallAt w 32) a b c)

/-- A fused form, with a third source. -/
def vec3 (w : Nat) (f : VReg → VReg → VSrc → VReg → VecCtl → Instr) : Option Instr :=
  if !clear w 4 5 || !clear w 14 5 || !clear w 61 3 then none
  else (vsrcAt w).map (fun b => f (regAt w 32) (regAt w 37) b (regAt w 47) (vecCtlAt w))

/-- A form of one source: no scalar form, no g register. -/
def vec1 (w : Nat) (f : VReg → VReg → VecCtl → Instr) : Option Instr :=
  given (clear w 4 15 && clear w 31 1 && clear w 42 10 && clear w 61 3) (f (regAt w 32) (regAt w 37) (vecCtlAt w))

/-- Group VFP (R175): OP without its bit 7. -/
def decodeVfp (t w : Nat) : Option Instr :=
  match field w 24 7 with
  | 0x00 => vec2 w (.fadd t)
  | 0x01 => vec2 w (.fsub t)
  | 0x02 => vec2 w (.fmul t)
  | 0x03 => vec3 w (.ffma t)
  | 0x04 => vec3 w (.ffms t)
  | 0x05 => vec3 w (.fnfma t)
  | 0x06 => vec2 w (.fmin t)
  | 0x07 => vec2 w (.fmax t)
  | 0x09 => vec1 w (.fsqrt t)
  | 0x0A => vec1 w (.fabs t)
  | 0x0B => vec1 w (.fneg t)
  | 0x10 => vecCmp w (.fceq t)
  | 0x11 => vecCmp w (.fclt t)
  | 0x12 => vecCmp w (.fcle t)
  | 0x13 => vecCmp w (.fcun t)
  | _ => none

/-- Group VINT (R175). -/
def decodeVint (t w : Nat) : Option Instr :=
  match field w 24 7 with
  | 0x00 => vec2 w (.vadd t)
  | 0x01 => vec2 w (.vsub t)
  | 0x02 => vec2 w (.vmul t)
  | 0x03 => vec2 w (.vmulh t)
  | 0x04 => vec2 w (.vand t)
  | 0x05 => vec2 w (.vor t)
  | 0x06 => vec2 w (.vxor t)
  | 0x07 => vec2 w (.vshl t)
  | 0x08 => vec2 w (.vshr t)
  | 0x09 => vec2 w (.vsra t)
  | 0x0A => vec2 w (.vmin t)
  | 0x0B => vec2 w (.vmax t)
  | 0x0C => vec2 w (.vminu t)
  | 0x0D => vec2 w (.vmaxu t)
  | 0x10 => vecCmp w (.vceq t)
  | 0x11 => vecCmp w (.vclt t)
  | 0x12 => vecCmp w (.vcltu t)
  | 0x20 => vec2 w (.vsel t)
  | 0x21 =>
    given (clear w 4 5 && clear w 14 5 && clear w 31 1 && clear w 37 15 && clear w 61 3) (.vbcast t (regAt w 32) (regAt w 9) (vecCtlAt w))
  | 0x22 => given (clear w 4 15 && clear w 31 1 && clear w 37 15 && clear w 61 3) (.vlane t (regAt w 32) (vecCtlAt w))
  | 0x23 => given (clear w 9 5 && clear w 31 1 && clear w 32 5 && clear w 42 22) (.vext t (regAt w 4) (regAt w 14) (regAt w 37))
  | _ => none

/-- Group VMEM (R178): a store's data register is in VD, since VA holds the offsets of a scatter (assumption 5). -/
def decodeVmem (t w : Nat) : Option Instr :=
  let d := regAt w 32
  let a := regAt w 37
  let ga := regAt w 9
  let gb := regAt w 14
  let c := vecCtlAt w
  if !clear w 4 5 || !clear w 42 10 || !clear w 57 7 then none
  else match field w 24 8 with
    | 0x00 => given (gb == 0 && a == 0) (.vld t d ga c .clean)
    | 0x01 => given (gb == 0 && a == 0) (.vst t d ga c)
    | 0x02 => given (a == 0) (.vlds t d ga gb c .clean)
    | 0x03 => given (a == 0) (.vsts t d ga gb c)
    | 0x04 => given (gb == 0) (.vgather t d a ga c .clean)
    | 0x05 => given (gb == 0) (.vscatter t d a ga c)
    | _ => none

/-- A reduction: a g destination, no vector destination (R177). -/
def vecRed (w : Nat) (f : Reg → VReg → VecCtl → Instr) : Option Instr :=
  given (clear w 9 10 && clear w 32 5 && clear w 42 10 && clear w 61 3) (f (regAt w 4) (regAt w 37) (vecCtlAt w))

/-- Group VXF (R175 to R177). -/
def decodeVxf (t w : Nat) : Option Instr :=
  match field w 24 8 with
  | 0x00 => given (clear w 9 5 && clear w 42 10 && clear w 61 3)
      (.vcvt t (regAt w 32) (regAt w 37) (BitVec.ofNat 5 (field w 4 5)) (BitVec.ofNat 5 (field w 14 5)) (vecCtlAt w))
  | 0x01 => given (clear w 4 15 && clear w 47 5 && clear w 61 3) (.vperm t (regAt w 32) (regAt w 37) (regAt w 42) (vecCtlAt w))
  | 0x02 => vecRed w (.vredFadd t)
  | 0x03 => vecRed w (.vredFmax t)
  | 0x04 => vecRed w (.vredAdd t)
  | 0x05 => vecRed w (.vredMax t)
  | _ => none

/-- Group PRED (R174, R175): three predicate numbers; the forms with a predicate destination have the control bits. -/
def decodePred (t w : Nat) : Option Instr :=
  let d := smallAt w 32
  let a := smallAt w 37
  let b := smallAt w 42
  let c := vecCtlAt w
  let noG := clear w 4 15
  let toG := clear w 9 10 && d == 0 && b == 0 && clear w 52 9
  if !clear w 35 2 || !clear w 40 2 || !clear w 45 7 || !clear w 61 3 then none
  else match field w 24 8 with
    | 0x00 => given noG (.pand t d a b c)
    | 0x01 => given noG (.por t d a b c)
    | 0x02 => given noG (.pxor t d a b c)
    | 0x03 => given noG (.pandn t d a b c)
    | 0x04 => given (noG && b == 0) (.pnot t d a c)
    | 0x05 => given (clear w 4 5 && clear w 14 5 && a == 0 && b == 0) (.pfromg t d (regAt w 9) c)
    | 0x06 => given toG (.ptog t (regAt w 4) a)
    | 0x07 => given toG (.pcnt t (regAt w 4) a)
    | _ => none

/-- The second word of `mma` (R179). -/
def mmaCtlAt (w : Nat) : MmaCtl :=
  ⟨Fin.ofNat 4 (field w 32 2), BitVec.ofNat 4 (field w 34 4), BitVec.ofNat 4 (field w 38 4), BitVec.ofNat 7 (field w 42 7),
    regAt w 49, regAt w 54, regAt w 59⟩

/-- The second word of `acc.cvt` (R179). -/
def cvtCtlAt (w : Nat) : CvtCtl :=
  ⟨Fin.ofNat 4 (field w 32 2), BitVec.ofNat 4 (field w 34 4), BitVec.ofNat 2 (field w 38 2), flagAt w 40, flagAt w 41, flagAt w 42,
    BitVec.ofNat 6 (field w 43 6), BitVec.ofNat 6 (field w 49 6)⟩

/-- Group MAT (R179). -/
def decodeMat (t w : Nat) : Option Instr :=
  let a := regAt w 9
  let b := regAt w 14
  let acc : AccNo := Fin.ofNat 4 (field w 32 2)
  if !clear w 4 5 then none
  else match field w 24 8 with
    | 0x00 => some (.mma t a b (mmaCtlAt w))
    | 0x01 => some (.mmaSp t a b (mmaCtlAt w))
    | 0x02 => given (a == 0 && b == 0 && clear w 35 5 && clear w 56 8) (.accAnchor t acc (flagAt w 34) (BitVec.ofNat 16 (field w 40 16)))
    | 0x03 => given (b == 0 && clear w 35 29) (.accLoad t a acc (flagAt w 34) .clean)
    | 0x04 => given (b == 0 && clear w 34 30) (.accStore t a acc)
    | 0x05 => given (clear w 55 9) (.accCvt t a b (cvtCtlAt w))
    | 0x06 => given (a == 0 && b == 0 && clear w 36 28) (.accWait t (BitVec.ofNat 4 (field w 32 4)))
    | _ => none

/-- Group TMOVE, with its one operation (R182). -/
def decodeTmove (t w : Nat) : Option Instr :=
  given (clear w 4 5 && clear w 14 5 && clear w 24 8 && clear w 49 15)
    (.tmove t (regAt w 9) ⟨smallAt w 32, flagAt w 35, flagAt w 36, BitVec.ofNat 4 (field w 37 4), BitVec.ofNat 4 (field w 41 4),
      BitVec.ofNat 2 (field w 45 2), flagAt w 47, flagAt w 48⟩ .clean noDramFinding .good)

/-- Group MICA, with its one operation (R183). -/
def decodeMica (t w : Nat) : Option Instr :=
  given (clear w 4 5 && clear w 14 5 && clear w 24 8 && clear w 35 29) (.micaGemv t (regAt w 9) (smallAt w 32) .clean .good)

/-- Group SYNC (R184). -/
def decodeSync (t w : Nat) : Option Instr :=
  let d := regAt w 4
  let a := regAt w 9
  let b := regAt w 14
  let m : SyncCtl := ⟨flagAt w 32, flagAt w 33, smallAt w 34, regAt w 37, BitVec.ofNat 2 (field w 42 2)⟩
  if !clear w 44 20 then none
  else match field w 24 8 with
    | 0x00 => given (d == 0) (.feFill t a b m .good)
    | 0x01 => given (b == 0) (.feTake t d a m .clean)
    | 0x02 => given (b == 0) (.fePeek t d a m .clean)
    | 0x08 => given (d == 0) (.sigAdd t a b m .good)
    | 0x09 => given (d == 0) (.sigSub t a b m .good)
    | 0x0A => some (.sigWait t d a b m)
    | 0x0C => given (b == 0) (.barArrive t d a m .good)
    | 0x0D => given (d == 0) (.barWait t a b m)
    | 0x10 => given (d == 0 && clear w 12 2 && clear w 32 12) (.lcWait t (smallAt w 9) b)
    | _ => none

/-- A wide instruction, by its group (R173). -/
def decodeWide (t w : Nat) : Option Instr :=
  match field w 19 5 with
  | 0x00 => decodeVfp t w
  | 0x01 => decodeVint t w
  | 0x02 => decodeVmem t w
  | 0x03 => decodeVxf t w
  | 0x04 => decodePred t w
  | 0x08 => decodeMat t w
  | 0x0C => decodeTmove t w
  | 0x0D => decodeMica t w
  | 0x10 => decodeSync t w
  | _ => none

/-! ## Instructions (R154, R160, R161) -/

/-- The first word is that of a 64-bit instruction (R160). -/
def wideWord (w0 : Nat) : Bool := field w0 0 4 == 0xF

/-- The instruction of a tile whose first word is `w0` and whose second, where it has one, is `w1`; `none` where the words are
illegal. What its execution meets beside the words (the error codes' findings) stands at its fault-free value. -/
def decodeInsn (t w0 w1 : Nat) : Option Instr :=
  let w := w0 % 2 ^ 32
  match field w 0 4 with
  | 0x0 => decodeAlu t w
  | 0x1 => decodeAluImm t w
  | 0x2 => some (.shins t (regAt w 4) (regAt w 9) (BitVec.ofNat 18 (field w 14 18)))
  | 0x3 => decodeBranch t w
  | 0x4 => some (.jal t (regAt w 4) (BitVec.ofNat 23 (field w 9 23)))
  | 0x5 => given (clear w 14 5) (.jalr t (regAt w 4) (regAt w 9) (BitVec.ofNat 13 (field w 19 13)))
  | 0x6 => some (.load t (regAt w 4) (regAt w 9) (modeAt w 14) (BitVec.ofNat 13 (field w 19 13)) .good .clean)
  | 0x7 => some (.store t (regAt w 14) (regAt w 9) (modeAt w 4) (BitVec.ofNat 13 (field w 19 13)) .good)
  | 0x8 => decodeAmo t w
  | 0x9 => decodeFence t w
  | 0xA => decodeCsr t w
  | 0xB => decodeUnit t w
  | 0xF => decodeWide t (w + 2 ^ 32 * (w1 % 2 ^ 32))
  | _ => none

/-- The instruction as its words spell it: what its execution meets beside them at the fault-free value. -/
def Instr.plain : Instr → Instr
  | .load t rd ra m off _ _ => .load t rd ra m off .good .clean
  | .store t rb ra m off _ => .store t rb ra m off .good
  | .vld t vd ga c _ => .vld t vd ga c .clean
  | .vlds t vd ga gb c _ => .vlds t vd ga gb c .clean
  | .vgather t vd va ga c _ => .vgather t vd va ga c .clean
  | .accLoad t ga acc addTo _ => .accLoad t ga acc addTo .clean
  | .lr t rd ra m _ _ => .lr t rd ra m .clean .good
  | .sc t rd ra rb m _ => .sc t rd ra rb m .good
  | .amoAdd t rd ra rb m _ _ => .amoAdd t rd ra rb m .clean .good
  | .amoSwap t rd ra rb m _ _ => .amoSwap t rd ra rb m .clean .good
  | .amoCas t rd ra rb m _ _ => .amoCas t rd ra rb m .clean .good
  | .fullfence t _ => .fullfence t .good
  | .halt t _ => .halt t .good
  | .micaGemv t ga lc _ _ => .micaGemv t ga lc .clean .good
  | .feFill t ga gb m _ => .feFill t ga gb m .good
  | .sigAdd t ga gb m _ => .sigAdd t ga gb m .good
  | .sigSub t ga gb m _ => .sigSub t ga gb m .good
  | .barArrive t rd ga m _ => .barArrive t rd ga m .good
  | .feTake t rd ga m _ => .feTake t rd ga m .clean
  | .fePeek t rd ga m _ => .fePeek t rd ga m .clean
  | .tmove t ga m _ _ _ => .tmove t ga m .clean noDramFinding .good
  | i => i

end Sys2Proof
end

