-- ==== Sys2Proof/Config.lean ====
section
/-! DEFINITION. What an implementation fixes, and the free values: values the spec leaves open are opaque constants
with no body, so that no proof can see them. Each is named in the assumption log. -/

namespace Sys2Proof.Config

/-- Value number `n` of the stream of open values (assumption 2): applied to the state's counter `free`,
which every use advances. -/
opaque freeWord : Nat → BitVec 64

/-- A free choice among alternatives the spec leaves to the block (a pseudo-LRU tie, a duplicate service order). -/
opaque freeNat : Nat → Nat

/-- BLK_REV.STEPPING, from fuses (R514). -/
opaque stepping : BitVec 8

/-- BLK_REV.ROM, from fuses (R514). -/
opaque romVersion : BitVec 8

/-- Subsystem Vendor ID and Subsystem ID, from fuses (R400). -/
opaque subsystem : BitVec 32

/-- Device Serial Number, from fuses (R401). -/
opaque serialNumber : BitVec 64

/-- Whether underflow is detected after rounding: IEEE 754-2019 leaves the choice to the implementation (R114, R115). -/
opaque tinyAfterRounding : Bool

/-- Whether the lane offsets of `vgather` and `vscatter` are read as signed: R178 adds `va[i]` and states no extension. -/
opaque gatherSigned : Bool

/-- How the increment 1 / (1 − s/2) of the reference accumulator is rounded to 32 fraction bits when it is not exact
(R481): the argument is the declared down-spread in 0.05 % units. -/
opaque refRoundsUp : Nat → Bool

/-- The voltage of the ROM table, in millivolts, at a frequency step (100 MHz units) that the table of R459 does not list. -/
opaque romMilliVolts : Nat → Nat

/-- Whether a weight word that was written while a Mica command runs is read with its old value (R212): by the counter of open values and
the word's number. -/
opaque oldWeight : Nat → Nat → Bool

/-- The static power model of R465, in microwatts, by quarry voltage in millivolts and temperature. -/
opaque staticPower : Nat → Nat → Nat

/-- The function of a source's identity and the number of queue pairs that picks the source's queue pair (R433). -/
opaque queuePairOf : Nat → Nat → Nat

/-- The hash that places an ATC entry in its slice's sets (R273). -/
opaque atcHash : Nat → Nat → Nat

/-- The SPDM responder's capabilities (R405). -/
opaque spdmCapabilities : List Byte

/-- The digests of the SPDM responder's certificate chains (R405). -/
opaque spdmDigests : List Byte

/-- The SPDM responder's certificate chain in a slot (R405). -/
opaque certificateChain : Nat → List Byte

/-- The SPDM responder's signed answer to a challenge's nonce (R405). -/
opaque challengeAnswer : BitVec 256 → List Byte

end Sys2Proof.Config
end

