-- ==== Sys2Proof/Machine/Table.lean ====
section
/-! DEFINITION. Sparse data by key, in one canonical form: tables of records, sets of numbers, and byte memory.
Keys rise strictly; byte memory lists no byte equal to what an unlisted address reads as, which is 0 (R509 step 5:
all of device memory is zero-filled at start-up; R135, R143: scratch is zeroed). -/

namespace Sys2Proof.Machine

/-- A table of records by number, keys strictly rising. -/
abbrev Tbl (α : Type) := List (Nat × α)

/-- The record at a key, or `d` where none is listed. -/
def tblGet {α : Type} (d : α) : Tbl α → Nat → α
  | [], _ => d
  | (k, v) :: m, a => if k = a then v else tblGet d m a

/-- The record at a key, if one is listed. -/
def tblFind {α : Type} : Tbl α → Nat → Option α
  | [], _ => none
  | (k, v) :: m, a => if k = a then some v else tblFind m a

/-- The table without a key. -/
def tblDel {α : Type} (m : Tbl α) (a : Nat) : Tbl α := m.filter (fun e => e.1 != a)

/-- Insertion before the first greater key. -/
def tblIns {α : Type} : Tbl α → Nat → α → Tbl α
  | [], a, v => [(a, v)]
  | (k, w) :: m, a, v => if a < k then (a, v) :: (k, w) :: m else (k, w) :: tblIns m a v

/-- The table with a record written. -/
def tblPut {α : Type} (m : Tbl α) (a : Nat) (v : α) : Tbl α := tblIns (tblDel m a) a v

/-- Keys strictly rising. -/
def tblSorted {α : Type} : Tbl α → Bool
  | [] => true
  | (k, _) :: m => m.all (fun e => decide (k < e.1)) && tblSorted m

/-- A set of numbers, strictly rising. -/
abbrev NSet := List Nat

/-- Insertion into a set. -/
def setIns : NSet → Nat → NSet
  | [], a => [a]
  | k :: m, a => if a < k then a :: k :: m else if a = k then k :: m else k :: setIns m a

/-- Removal from a set. -/
def setDel (m : NSet) (a : Nat) : NSet := m.filter (fun k => k != a)

/-- Membership. -/
def setHas (m : NSet) (a : Nat) : Bool := m.contains a

/-- Insertion or removal by a flag. -/
def setPut (m : NSet) (a : Nat) (b : Bool) : NSet := if b then setIns m a else setDel m a

/-- Byte memory: address and byte, canonical. -/
abbrev Mem := List Host.Cell

/-- What an unlisted address reads as. -/
def unlistedByte : Byte := 0

/-- One byte of a memory. -/
def memGet (m : Mem) (a : Nat) : Byte := tblGet unlistedByte m a

/-- One byte written; the canonical form is kept by listing no byte equal to what an unlisted address reads as. -/
def memPut (m : Mem) (a : Nat) (b : Byte) : Mem :=
  if b = unlistedByte then tblDel m a else tblPut m a b

/-- The bytes at `a`, `a + 1`, … -/
def memRead (m : Mem) (a : Nat) : Nat → List Byte
  | 0 => []
  | n + 1 => memGet m a :: memRead m (a + 1) n

/-- Bytes written at `a`, `a + 1`, … -/
def memWrite (m : Mem) (a : Nat) : List Byte → Mem
  | [] => m
  | b :: bs => memWrite (memPut m a b) (a + 1) bs

/-- Zero bytes written over `n` addresses from `a`. -/
def memZero (m : Mem) (a n : Nat) : Mem := m.filter (fun e => e.1 < a || a + n ≤ e.1)

/-- The canonical form of a memory. -/
def Memory.wf (m : Mem) : Bool := tblSorted m && m.all (fun e => e.2 != unlistedByte)

/-- The little-endian value of bytes (R7). -/
def leNat : List Byte → Nat
  | [] => 0
  | b :: bs => b.toNat + 256 * leNat bs

/-- The `n` little-endian bytes of a value (R7). -/
def leBytes : Nat → Nat → List Byte
  | 0, _ => []
  | n + 1, v => BitVec.ofNat 8 v :: leBytes n (v / 256)

/-- Element `i` of a list, or `d`. -/
def nth {α : Type} (d : α) : List α → Nat → α
  | [], _ => d
  | x :: _, 0 => x
  | _ :: xs, i + 1 => nth d xs i

/-- A list with element `i` replaced, where it has one. -/
def setNth {α : Type} : List α → Nat → α → List α
  | [], _, _ => []
  | _ :: xs, 0, v => v :: xs
  | x :: xs, i + 1, v => x :: setNth xs i v

/-- Bits `[lo + w - 1 : lo]` of a number. -/
def bits (v lo w : Nat) : Nat := v / 2 ^ lo % 2 ^ w

/-- Bit `i` of a number. -/
def bit (v i : Nat) : Bool := v / 2 ^ i % 2 = 1

/-- 1 or 0. -/
def b2n (b : Bool) : Nat := if b then 1 else 0

/-- Saturating increment of a count of `w` bits. -/
def satAdd (w v n : Nat) : Nat := if v + n < 2 ^ w then v + n else 2 ^ w - 1

/-- A value clamped to a range. -/
def clampTo (lo hi v : Nat) : Nat := if v < lo then lo else if hi < v then hi else v

/-- The bits of a pseudo-LRU tree over `2 ^ k` ways, node 1 at the root: a use of the way whose leaf is `leaf` makes every node above
it point to its other half (R224). -/
def plruPoint (tree : Nat) : Nat → Nat → Nat
  | 0, _ => tree
  | k + 1, leaf =>
    let n := leaf / 2
    let t := if leaf % 2 = 0 then (if bit tree n then tree else tree + 2 ^ n) else (if bit tree n then tree - 2 ^ n else tree)
    plruPoint t k n

/-- The leaf that the bits of a tree lead to, from node `n`. -/
def plruLeaf (tree : Nat) : Nat → Nat → Nat
  | 0, n => n
  | k + 1, n => plruLeaf tree k (2 * n + b2n (bit tree n))

/-- log2 of a number of ways, at most 16. -/
def waysLog (ways : Nat) : Nat := if ways ≤ 1 then 0 else if ways ≤ 2 then 1 else if ways ≤ 4 then 2 else if ways ≤ 8 then 3 else 4

/-- A tree after a use of a way, and the way that it names as the victim (R224). -/
def plruTouch (ways tree way : Nat) : Nat := plruPoint tree (waysLog ways) (2 ^ waysLog ways + way)
def plruVictim (ways tree : Nat) : Nat := plruLeaf tree (waysLog ways) 1 - 2 ^ waysLog ways

/-- Round up to a multiple of `m`. -/
def roundUp (v m : Nat) : Nat := (v + m - 1) / m * m

end Sys2Proof.Machine
end

