-- ==== Sys2Proof/Machine/State.lean ====
section
/-! DEFINITION. The state of the block as plain data, and its value at reset. Each field's comment gives its width,
the rule that names it and its reset value. Fields of software-visible registers are held by meaning; the register
words are formed from them in Machine/Registers.lean. Large families (tiles, queues, objects, granules) are tables
that list only what differs from the stated default. -/

namespace Sys2Proof.Machine

/-! ## Names of fixed sets -/

/-- Block states (R20, R514). -/
inductive BlkSt where
  | unstructured | structured | halted | sleep | orphaned
deriving DecidableEq, Repr

/-- Ownership states (R527). -/
inductive OwnSt where
  | vacant | held | handover | lapsed
deriving DecidableEq, Repr

/-- Kinds of owner (R516, R527). -/
inductive OwnKind where
  | none | host | sideband | remote
deriving DecidableEq, Repr

/-- Status codes (R386). -/
inductive Status where
  | ok | late | poisonedOutput | overflow | underflow | abandoned | peerLost | authFailed | xlatFault | accessDenied
  | watchdog | unitTooLong | domainDown | hostLinkLost | refusedP2p | busy | malformed | aborted
deriving DecidableEq, Repr

/-- Trap causes (R188). -/
inductive Trap where
  | illegalInsn | illegalFormat | misaligned | tileMemAccess | stableWrite | segFault | rights | fetchHost | xlat
  | object | notTagged | csrAccess | tmoveCount | commitBufferFull | unitTooLong | carryTooLarge | watchdog
  | abandoned | peerLost | trapInsn | hostAtomic
deriving DecidableEq, Repr

/-- Fault-log classes (R504). -/
inductive LogClass where
  | dramCe | dramUe | rowRepair | bankReplace | micaResidue | laneSwap | laneRetrain | linkDown | tileFault | tileRetire
  | tileSelftest | tileMemError | memorySide | cacheParity | qcEcc | waySpare | ckptLost | flintTakeover | flintFault
  | quartzTakeover | copyRetry | pllSwap | domainDown | granuleRefused | notInvalidated | registerIgnored | xlatFailure
  | taskStopped | deadline | peer | capInfeasible | spareExhausted | adminHalt | staleNoSpare | feOverrun
  | flintSliceLost | tileTrap | queueHalted
deriving DecidableEq, Repr

/-- Fault-log outcomes (R503). -/
inductive Outc where
  | notice | masked | detected | fatal
deriving DecidableEq, Repr

/-- The role of a physical tile (R535, R56, R493). -/
inductive Role where
  | absent | spare | mapped | retired | testing
deriving DecidableEq, Repr

/-- What a waiting tile waits on (R152, R535). -/
inductive WaitKind where
  | sigWait | barWait | feTake | fePeek | lcWait
deriving DecidableEq, Repr

/-- What a tile of a launch is doing (R134 to R144, R276). -/
inductive Run where
  | none | filling | running | waiting (k : WaitKind) | committing | replaying | halted | stopped
deriving DecidableEq, Repr

/-- A source of requests (R29): tile, copy engine task, Mica tree of a command, sequencer task, host port (BAR4), host
CXL.mem, fabric port, Flint home slice of an object, Quartz. -/
inductive Src where
  | tile (t : Nat)
  | copy (k : Nat)
  | mica (id : Nat)
  | sequencer (k : Nat)
  | veinSeq (v : Nat)
  | hostPort
  | hostMem
  | fabric (id : Nat)
  | flintHome (obj : Nat)
  | quartz
deriving DecidableEq, Repr

/-- A counter condition or a phase wait (R184, R330, R367). -/
inductive Cond where
  | ge (v : Nat) | eq (v : Nat) | ne (v : Nat) | phaseNot (p : Bool)
deriving DecidableEq, Repr

/-- Where a data access goes after translation (R248, R263, R265, R268, R271, R275). A device access that a segment or a
placement made is checked against owner tags; one routed by R271 is not. `io`: made untranslated or to a peer window, on
CXL.io. -/
inductive Dest where
  | device (addr : Nat) (checked : Bool)
  | host (pa : Nat) (io : Bool)
  | remote (dev addr : Nat)
deriving DecidableEq, Repr

/-- A segment descriptor (R264). -/
structure Segment where
  vbase : Nat
  device : Nat
  plocal : Nat
  gran : Nat
  r : Bool
  w : Bool
  x : Bool
  isDevice : Bool
  policy : Nat
  tagged : Bool
  mica : Bool
  shared : Bool
  step8 : Bool
deriving DecidableEq, Repr

/-! ## Accumulators and tiles -/

/-- One accumulator entry (R89): N, OVF, T. In FP32 mode N is the binary32 value's bits (R102). -/
structure AccEntry where
  n : Int := 0
  ovf : Bool := false
  tag : BitVec 2 := 0
deriving DecidableEq, Repr

/-- One accumulator file (R89): 4,096 entries by 64m + n, the anchor, the mode; its poison flag (R121). -/
structure AccFile where
  entries : Tbl AccEntry := []
  anchor : BitVec 16 := 0
  fp32 : Bool := false
  poisoned : Bool := false
deriving DecidableEq, Repr

/-- A range of bytes: base and length. -/
structure Range where
  base : Nat
  len : Nat
deriving DecidableEq, Repr

/-- What a tile's outstanding request from outside is (R191, R230, R292). -/
inductive PendKind where
  | load | reserve | cond | atomic | ack | take | peek | sample | arrive | wait
deriving DecidableEq, Repr

/-- An effect that a tile sends out (R138): a write with its poison flag, a counter operation, a barrier arrival, a
fill, a Mica command with a memory destination. `dev` names another device. -/
inductive Effect where
  | write (dst : Dest) (bytes : List Byte) (poisoned : Bool)
  /-- a tensor move's put to another device, whose bytes carry their own poison (R434). -/
  | put (dev addr : Nat) (bytes : List (Byte × Bool))
  | sig (dev : Option Nat) (obj : Nat) (subtract : Bool) (amount : Nat)
  | arrive (dev : Option Nat) (obj : Nat) (rd : Option Reg)
  | fill (dst : Dest) (value : Nat) (poisoned : Bool)
  | mica (id : Nat)
  | ask (kind : PendKind) (dst : Dest) (size op cmp v : Nat) (rd : Reg) (pd : PReg) (zx acquire poisoned : Bool)
deriving DecidableEq, Repr

/-- A held or released effect (R138, R141, R281, R297, R298): the effect, its device-virtual address for retranslation,
the release mark, whether an `stfence` or `fullfence` stands before it, whether it is to be retranslated, whether it goes through
a Device segment, the instruction's address (R188), the bytes of the commit buffer it counts (R141), and its move (R129). -/
structure Held where
  eff : Effect
  va : Nat
  release : Bool
  fenced : Bool
  retranslate : Bool
  device : Bool
  pc : Nat
  cost : Nat
  move : Option Nat
deriving DecidableEq, Repr

/-- One piece of an access with what it reaches (R266): offset, device-virtual address, length, destination, its segment. -/
structure Piece where
  off : Nat
  va : Nat
  len : Nat
  dst : Dest
  seg : Option Segment
deriving DecidableEq, Repr

/-- What a tile awaits from outside: the destination register, the bytes gathered, the requests not yet answered with the
place of their bytes, the tile's own later-visible bytes (R140) by offset, whether it acquires, whether it goes through a Device
segment (R298), and what a trap of the instruction reports: its address, and the device-virtual address or object it acts on
(R188, R189). -/
structure PendOp where
  id : Nat
  kind : PendKind
  rd : Reg
  pd : PReg
  size : Nat
  zx : Bool
  buf : List Byte
  poisoned : Bool
  waits : List (Nat × Nat × Nat)
  overlay : List (Nat × Byte × Bool)
  acquire : Bool
  device : Bool
  pc : Nat
  va : Nat
deriving DecidableEq, Repr

/-- The outstanding data-cache miss (R231): its first request, the number of requests, the device-virtual address that missed, the
lines it fetches with their prefetch (2 × line + space bit), and the load that waits for it, with its pieces, or the store that it is
fetched for. -/
structure Miss where
  id : Nat
  count : Nat
  va : Nat
  lines : List Nat
  load : Option (Nat × List Piece)
  /-- R231: the write-back store that waits for the lines, by line, with its bytes and their poison. -/
  store : Option (List Piece × List Byte × Bool)
deriving DecidableEq, Repr

/-- A queued or running matrix product (R123, R125): operands as issued. -/
structure MmaOp where
  m : MmaCtl
  sparse : Bool
  aBase : Nat
  bBase : Nat
  aScale : Nat
  bScale : Nat
  meta' : Nat
  pc : Nat
deriving DecidableEq, Repr

/-- What another MAT instruction does once it starts (R179): `acc.anchor`, `acc.load`, `acc.store`, `acc.cvt`. -/
inductive AccWork where
  | anchor (fp32 : Bool) (anchor : BitVec 16)
  | load (addTo : Bool)
  | store
  | cvt (m : CvtCtl)
deriving DecidableEq, Repr

/-- Another MAT instruction, queued or under way (R125, R126): its file, its work, the ranges of tile memory that it reads and
writes, and the state of the stochastic source at its first draw (R110). -/
structure AccOp where
  slot : Nat
  acc : AccNo
  work : AccWork
  reads : List Range
  writes : List Range
  seed : Word
deriving DecidableEq, Repr

/-- An instruction of the matrix queue (R125). -/
inductive MatOp where
  | mma (o : MmaOp)
  | acc (o : AccOp)
deriving DecidableEq, Repr

/-- An outstanding tensor move (R128, R129, R182): what its tile-local side is, the outer bytes read at issue with the
places of those that come from the host and from other devices, the tile's own later-visible bytes (R140), and the state of
the stochastic source at its first draw. -/
structure Move where
  slot : Nat
  ctl : TmoveCtl
  local' : Nat
  size : List Nat
  localStride : List Nat
  pc : Nat
  seed : Word
  buf : List (Byte × Bool)
  hosts : List (Nat × Nat × Nat × Dest)
  gets : List (Nat × Nat × Nat)
  overlay : List (Nat × Byte × Bool)
  /-- R298: reads that it has asked for outside go through a Device segment. -/
  device : Bool
deriving DecidableEq, Repr

/-- The checkpointed register state (R155) with the carry set's contents (R143, R144). -/
structure Checkpoint where
  g : Tbl Word := []
  v : Tbl (BitVec 2048) := []
  p : Tbl Word := []
  gPoison : NSet := []
  vPoison : NSet := []
  pPoison : NSet := []
  pc : Nat := 0
  cycle : Nat := 0
  astat : BitVec 7 := 0
  lfsr : Word := 0
  carry : Tbl Word := []
  lc : Tbl Nat := []
  files : BitVec 4 := 0
  mem : Mem := []
  poison : NSet := []
  full : NSet := []
  accs : Tbl AccFile := []
deriving DecidableEq, Repr

/-- One line of a tile cache: the space bit, the line number, its dirty flag, its bytes by offset, its poisoned words, and the way
of its set (R224, R225, R239). -/
structure CacheLine where
  host : Bool
  line : Nat
  dirty : Bool
  bytes : Mem
  poison : NSet
  way : Nat
  /-- R284: the PASID and host-space address that brought a host line. -/
  origin : Option (Nat × Nat) := none
deriving DecidableEq, Repr

/-- An ordinary or privileged cache's controls (R235, R236). -/
structure CacheCtl where
  enabled : Bool := true
  invalidated : Bool := true
deriving DecidableEq, Repr

/-- One physical tile (R116, R153, R535). -/
structure Tile where
  /-- 3 bits; R535 (17), R56 (02): absent, spare, mapped, retired or under test; reset absent (STATE 0). -/
  role : Role := .absent
  /-- R535 (17), R136 (04): what the tile does in its launch; reset none. -/
  run : Run := .none
  /-- R136 (04): the LAUNCH task the tile runs; reset none. -/
  task : Option Nat := none
  /-- 9 bits; R133 (04): block-wide logical id served, while mapped; reset 0. -/
  logical : Nat := 0
  /-- 1 bit; R156 LAUNCH_MODE (05), R132 (04); reset 0. -/
  isProtected : Bool := false
  /-- 64 bits each; R116, R153 (04, 05): g1–g31, g0 reads 0; launch sets 0 (R135); reset 0. -/
  g : Tbl Word := []
  /-- 2,048 bits each; R116 (04): v0–v31; reset 0 (R135). -/
  v : Tbl (BitVec 2048) := []
  /-- 64 bits each; R116 (04): p0–p7; reset 0 (R135). -/
  p : Tbl Word := []
  /-- 1 bit each; R121 (04): poison flags of scalar registers; reset clear. -/
  gPoison : NSet := []
  /-- 1 bit each; R121 (04): poison flags of vector registers; reset clear. -/
  vPoison : NSet := []
  /-- 1 bit each; R121 (04): poison flags of predicate registers; reset clear. -/
  pPoison : NSet := []
  /-- R89, R116 (03, 04): acc0–acc3, 4,096 entries of 128 bits with OVF and T, anchor, mode, poison; reset cleared, anchor 0 (R135). -/
  accs : Tbl AccFile := []
  /-- 64 bits; R153 (05): device-virtual address of the next instruction; reset 0 (R535). -/
  pc : Nat := 0
  /-- 64 bits; R156 GRID_INDEX is formed from GRID_FIRST (05); reset 0. -/
  gridFirst : Nat := 0
  /-- 64 bits; R156 GRID_COUNT (05); set at launch; reset 0. -/
  gridCount : Nat := 0
  /-- 5 bits; R156 VEIN_ID, R535 VEIN (05, 17); reset 0. -/
  vein : Nat := 0
  /-- 12 bits; R156 CONTEXT_ID, R535 (05, 17): context of the current or last launch; reset none (reads 0). -/
  context : Option Nat := none
  /-- 8 × 64 bits; R156 LAUNCH_ARG0–7 (05); set at launch; reset 0. -/
  args : List Word := []
  /-- 64 bits; R156 SR_SEED (05); set at launch; reset 0. -/
  seed : Word := 0
  /-- 64 bits; R156 CYCLE (05): cycles under this logical id since the launch began; reset 0. -/
  cycle : Nat := 0
  /-- 64 bits; R156 UNIT_CYCLES, R142 (05, 04); reset 0. -/
  unitCycles : Nat := 0
  /-- 7 bits of 64; R157 ASTAT (05); reset 0. -/
  astat : BitVec 7 := 0
  /-- 64 bits; R109, R156 LFSR (03, 05); launch sets it; reset 0. -/
  lfsr : Word := 0
  /-- 8 × 64 bits; R158 CARRY0–7 (05); reset 0. -/
  carry : Tbl Word := []
  /-- 8 × 32 bits; R129, R156 LC0–7 (04, 05); reset 0. -/
  lc : Tbl Nat := []
  /-- 4 MiB; R119 (04): scratch bytes; reset 0 (R135, R418). -/
  scratch : Mem := []
  /-- 1 bit per 64-bit word; R116, R121 (04): poison bits of tile memory, by word address / 8; reset clear. -/
  poison : NSet := []
  /-- 1 bit per 64-bit word; R116, R122 (04): full/empty bits of tile memory; reset empty. -/
  full : NSet := []
  /-- R134 (04): the stable region of the launch; reset none. -/
  stable : Option Range := none
  /-- 64 bits; R134 (04): device-virtual source of the stable region; reset 0. -/
  stableSrc : Nat := 0
  /-- R169, R302 (05, 09): the reservation, by its first byte: `some (true, a)` tile-local, `some (false, a)` outside; reset none. -/
  reservation : Option (Bool × Nat) := none
  /-- R303 (09): failed `sc` in a row on one granule; reset 0. -/
  scFails : Nat := 0
  /-- R303 (09): the granule they were on; reset 0. -/
  scGranule : Nat := 0
  /-- R138, R141 (04): held effects of the current unit, oldest first; at most 256 KiB; reset empty. -/
  held : List Held := []
  /-- R138, R144 (04): released effects not yet drained, oldest first; reset empty. -/
  released : List Held := []
  /-- R294, R297 (09): an `stfence` or `fullfence` of the unit awaits the next effect; reset clear. -/
  fencePending : Bool := false
  /-- R296 (09): a `fullfence` of the unit follows a held effect; reset clear. -/
  fullFence : Bool := false
  /-- R294, R304 (09): a `fullfence` of a protected launch orders later loads behind the global observation of earlier writes;
  reset clear. -/
  observe : Bool := false
  /-- R139 (04): FILES of the last explicit `commit` or `yield`; reset no file. -/
  lastFiles : BitVec 4 := 0
  /-- R144, R244 (04, 07): the two checkpoint halves; reset empty. -/
  ckpt0 : Option Checkpoint := none
  /-- R144, R244 (04, 07): the second checkpoint half; reset empty. -/
  ckpt1 : Option Checkpoint := none
  /-- 1 bit; R535 VALID_HALF (17); reset 0. -/
  validHalf : Bool := false
  /-- 1 bit; R246, R535 CKPT_LOST (07, 17); reset 0. -/
  ckptLost : Bool := false
  /-- R144 (04): what the committing tile does when the checkpoint is acknowledged: 0 next unit, 1 halt, 2 stop for a scheduled change; reset 0. -/
  afterCommit : Nat := 0
  /-- R125 (04): the matrix queue, at most 4 MAT instructions not yet started, oldest first; reset empty. -/
  matQueue : List MatOp := []
  /-- R125 (04): the `mma` on the grid; reset none. -/
  mmaRunning : Option MmaOp := none
  /-- R126 (04): `acc.cvt`, `acc.store`, `acc.load` on the conversion path or the matrix port; reset none. -/
  accOps : List AccOp := []
  /-- R129 (04): outstanding `tmove`, at most 16; reset none. -/
  moves : List Move := []
  /-- R183 (05): outstanding `mica.gemv`, at most 4: command id, LC, and whether its results land in this tile; reset none. -/
  micas : List (Nat × Nat × Bool) := []
  /-- R191, R231 (05, 07): answers awaited from outside the tile; reset none. -/
  pend : List PendOp := []
  /-- R223, R231 (07): data-cache lines (128 B sectors, or 64 B lines in the compatibility layout); reset empty. -/
  dcache : List CacheLine := []
  /-- R231 (07): the outstanding data-cache miss; reset none. -/
  miss : Option Miss := none
  /-- R239 (07): instruction-cache lines of 128 B by device-virtual line; reset empty. -/
  icache : List CacheLine := []
  /-- R224 (07): tree pseudo-LRU bits of the data cache's sets, by set; reset 0. -/
  plru : Tbl Nat := []
  /-- R224, R239 (07): tree pseudo-LRU bits of the instruction cache's sets, by set; reset 0. -/
  iplru : Tbl Nat := []
  /-- R268, R434 (08, 13): the fetch of a line of code from another device: its request, and the line; reset none. -/
  ifetch : List (Nat × Nat) := []
  /-- R235 (07): data-cache enable control; reset enabled and invalidated (R238). -/
  dctl : CacheCtl := {}
  /-- R235 (07): instruction-cache enable control; reset enabled and invalidated. -/
  ictl : CacheCtl := {}
  /-- R152, R461 (04, 14): gated units, 0 sequencer, 1 matrix, 2 vector, 3 mover; reset gated (no launch). -/
  gated : NSet := [0, 1, 2, 3]
  /-- R334, R358 (10): the wait the tile holds: sequence number and tick of registration; reset none. -/
  waitSeq : Option (Nat × Nat) := none
  /-- R152, R188 (04, 05): the tile-local word that the tile waits on; reset none. -/
  waitAddr : Option Nat := none
  /-- R330 (10): Flint objects the context owned at dispatch; reset none. -/
  owned : NSet := []
  /-- R267 (08): the segment set the launch was dispatched with is the context's at dispatch: slots by number; reset none. -/
  segs : Tbl Segment := []
  /-- R493, R497 (15): timing-margin retirement asked for at the next boundary; reset no. -/
  retireAsked : Bool := false
  /-- R493, R504 (15): the margin deficit, mV, of that retirement; reset 0. -/
  deficit : Nat := 0
  /-- R496 (15): rotation swap asked for at the next boundary; reset no. -/
  rotateAsked : Bool := false
  /-- R491, R496 (15): the tile passed its most recent test; reset no (boot test sets it). -/
  healthy : Bool := false
  /-- R496 (15): tick of the last test; reset 0. -/
  lastTest : Nat := 0
deriving DecidableEq, Repr

/-- A tile at reset. -/
def Tile.blank : Tile := {}

/-! ## Contexts, veins, queues, tasks -/

/-- Where a context's evicted objects lie (R352): IMAGE_VA, and the object that its first record stands for, FLINT_FIRST of the vein at the
eviction. -/
structure Evicted where
  image : Nat
  first : Nat
deriving DecidableEq, Repr

/-- A context (R263, R383): vein, PASID, segment slots, and its image while its objects are evicted (R352). -/
structure Context where
  vein : Nat
  pasid : Nat
  segs : Tbl Segment
  evicted : Option Evicted
deriving DecidableEq, Repr

/-- One piece of a granule-table entry (R58, R59): first granule, count, striped, table slot. -/
structure GranRange where
  first : Nat
  count : Nat
  striped : Bool
  slot : Nat
deriving DecidableEq, Repr

/-- A vein of the structure in force (R58). -/
structure Vein where
  tileFirst : Nat
  tileCount : Nat
  flintFirst : Nat
  flintCount : Nat
  queueQuota : Nat
  contextQuota : Nat
  dcache : Nat
  qcWays : Nat
  ckptUnits : Nat
  protect : Bool
  prio : Nat
  classOrder : Nat
  watchdog : Nat
  deadline : Nat
  ranges : List GranRange
deriving DecidableEq, Repr

/-- An accepted doorbell (R136, R392): the entries that it covers and that are not fetched yet, its tick, and its place in the order of
arrival. -/
structure Bell where
  left : Nat
  tick : Nat
  serial : Nat
deriving DecidableEq, Repr

/-- A work queue (R363, R365, R398). -/
structure WorkQueue where
  context : Nat
  vein : Nat
  prio : Nat
  log2 : Nat
  ring : Nat
  vector : Nat
  intr : Bool
  budget : Nat
  head : Nat
  tail : Nat
  halted : Bool
  ownStall : Bool
  /-- accepted doorbells whose entries are not all fetched, oldest first (R392). -/
  bells : List Bell
  /-- tasks of the queue in ring order, oldest first, until their completion is written. -/
  order : List Nat
  /-- R478: the last doorbell rung in SLEEP. -/
  recorded : Option Nat
  /-- R384: the queue is being aborted; the tail up to which entries are completed with ABORTED. -/
  abort : Option Nat
deriving DecidableEq, Repr

/-- A fault detail (R370). -/
structure Detail where
  cause : Nat
  logical : Option Nat
  pc : Option Nat
  address : Option Nat
  count : Nat
  logSeq : Nat
deriving DecidableEq, Repr

/-- LAUNCH parameters (R132, R375). -/
structure LaunchBody where
  entry : Nat
  gridFirst : Nat
  gridCount : Nat
  prot : Nat
  seed : Word
  stableLocal : Nat
  stableLen : Nat
  stableSrc : Nat
  args : List Word
deriving DecidableEq, Repr

/-- A Mica command block (R203). -/
structure MicaBlock where
  weightVa : Nat
  scaleVa : Nat
  actVa : Nat
  actScale : Nat
  outVa : Nat
  m : Nat
  weightPitch : Nat
  scalePitch : Nat
  k : Nat
  anchor : BitVec 16
  stackMask : BitVec 8
  wfmt : Nat
  afmt : Nat
  out : BitVec 8
  flags : BitVec 8
  reservedOk : Bool
deriving DecidableEq, Repr

/-- CONFIGURE fields of SIGNAL (R378). -/
structure ConfigBody where
  barrier : Bool
  unbounded : Bool
  notify : Bool
  vector : Nat
  value : Nat
  limit : Nat
  parentDevice : Nat
  parentObject : Nat
  hasParent : Bool
  childCount : Nat
  childList : Nat
deriving DecidableEq, Repr

/-- A work command's checked body (R374 to R381). -/
inductive WorkBody where
  | nop
  | launch (b : LaunchBody)
  | copy (src dst len : Nat) (stash : Option Nat)
  | copyInline (dst : Nat) (payload : List Byte) (stash : Option Nat)
  | fill (dst len : Nat) (pattern : List Byte)
  | mica (b : MicaBlock)
  | signalAdd (dev : Option Nat) (obj amount : Nat)
  | signalSub (dev : Option Nat) (obj amount : Nat)
  | signalConfigure (obj : Nat) (b : ConfigBody)
  | signalFree (obj : Nat)
  | waitObject (obj : Nat) (c : Cond)
  | waitWord (va : Nat)
  | barrierArrive (dev : Option Nat) (obj : Nat)
  | flush (tiles quarry invalidate : Bool) (range len : Nat)
  | fence (vein : Bool)
  | prefetchXlat (addr pages : Nat) (write faultIn : Bool)
  | adviseWillNeed (addr len : Nat)
  | adviseWillNotNeed (addr len : Nat)
  | preferDevice (addr len dva : Nat)
  | preferHost (addr len : Nat)
  | timestamp
deriving DecidableEq, Repr

/-- An admin command's checked body (R383). -/
inductive AdminBody where
  | nop
  | timestamp
  | createQueue (q ctx log2 prio vector : Nat) (intr : Bool) (ring budget : Nat)
  | destroyQueue (q : Nat)
  | resetQueue (q index : Nat)
  | abortQueue (q : Nat)
  | createContext (c vein pasid : Nat)
  | destroyContext (c : Nat)
  | evictContext (c image : Nat)
  | setSegment (c slot : Nat) (d : Segment)
  | loadStrata (space kind vein addr len : Nat)
  | setPowerCap (watts : Nat)
  | selfTest (scope : Nat)
  | dumpSyncState (space addr : Nat)
  | assignDeviceNumber (d : Nat)
  | sleep
deriving DecidableEq, Repr

/-- Where a task stands (R38, R366, R373). -/
inductive Phase where
  | fetching      -- its first line is being read
  | waiting       -- checked; its wait-before or WAIT is registered
  | ready         -- checked; awaits its place in dispatch order
  | dispatched    -- handed to its engines
  | running       -- its command has started
  | ended         -- its parts have ended; writes are not yet globally observed
  | due           -- ended; its completion may be written
  | written       -- completion written; its interrupt and signal are due
deriving DecidableEq, Repr

/-- A task: one fetched entry of a work queue, or of the admin queue (`queue = none`), until its completion is finished. -/
structure Task where
  queue : Option Nat
  index : Nat
  context : Nat
  vein : Nat
  opcode : Nat
  tag : Nat
  flags : Nat
  body : WorkBody
  admin : Option AdminBody
  budget : Option Nat
  start : Nat
  /-- R136: the place of its doorbell in the order of arrival. -/
  rung : Nat
  sigObj : Option Nat
  waitBefore : Option (Nat × Cond)
  phase : Phase
  faults : List (Status × Detail)
  late : Bool
  bytes : Nat
  result : Nat
  /-- R267: the segment set the task was dispatched with. -/
  segs : Tbl Segment
  /-- writes of the task not yet globally observed, by request id (R323). -/
  unseen : NSet
  /-- copy engine: quarry and engine (R35). -/
  engine : Option (Nat × Nat)
  /-- launch: the logical ids of its grid (R133, R136); FENCE: the tasks it covers (R380); PREFETCH_XLAT:
  pages left (R283); PREFER_HOST: [0] once the copy-back is sent (R286). -/
  tiles : NSet
  /-- launch: some tile stopped its grid (R190). -/
  stopping : Bool
  trapped : Nat
  waitSeq : Option (Nat × Nat)
  ticks : Nat
  /-- R371: bytes 0x08–0x3F of the completion have been sent. -/
  bodySent : Bool
  /-- R310, R311: the parts of a running copy's source in this block's memory. -/
  source : List (Nat × Nat)
  /-- R311: lines of the source that the engine read before another agent wrote them, with what it read. -/
  srcLines : Tbl (List (Byte × Bool))
deriving DecidableEq, Repr

/-- The admin queue (R363, R397). -/
structure AdminQueue where
  /-- 1 bit; R397 SPACE (11); reset 0. -/
  space : Bool := false
  /-- 52 bits; R397 ADDR (11); reset 0. -/
  addr : Nat := 0
  /-- R397 (11): ADMQ_BASE written since the last disable; reset no. -/
  baseWritten : Bool := false
  /-- 5 bits; R397 LOG2 (11); reset 0. -/
  log2 : Nat := 0
  /-- 11 bits; R397 VECTOR (11); reset 0. -/
  vector : Nat := 0
  /-- 1 bit; R397 INTR (11); reset 0. -/
  intr : Bool := false
  /-- 20 bits; R397 PASID (11); reset 0. -/
  pasid : Nat := 0
  /-- 1 bit; R397 PASID_VALID (11); reset 0. -/
  pasidValid : Bool := false
  /-- 16 bits; R396, R397 ADMQ_DOORBELL.TAIL, HEAD: H (11); reset 0. -/
  head : Nat := 0
  /-- 16 bits; R397 TAIL (11); reset 0. -/
  tail : Nat := 0
  /-- accepted doorbells whose entries are not all fetched, as in a work queue (R369, R392); reset none. -/
  bells : List Bell := []
  /-- 1 bit; R397 ENABLED (11); reset 0. -/
  enabled : Bool := false
  /-- 1 bit; R397 OWN_STALL (11); reset 0. -/
  ownStall : Bool := false
  /-- 1 bit; R397 CFG_IGNORED, W1C (11); reset 0. -/
  cfgIgnored : Bool := false
  /-- 1 bit; R397 HALT_CAUSE (11); reset 0. -/
  haltCause : Bool := false
  /-- 1 bit; R397 RING_FAILED (11); reset 0. -/
  ringFailed : Bool := false
  /-- R397 RUNNING (11): the task of the running command; reset none. -/
  running : Option Nat := none
  /-- R395, R523 (11, 16): the queue is disabled once the running command completes; reset no. -/
  disableAfter : Bool := false
  /-- R478 (14): the last doorbell rung in SLEEP; reset none. -/
  recorded : Option Nat := none
deriving DecidableEq, Repr

/-! ## Memory, directory, packets -/

/-- Device memory (R248 to R253, R258). -/
structure DevMem where
  /-- 2^40 bytes; R248 (08): data; reset zero (R509 step 5). -/
  bytes : Mem := []
  /-- 1 bit per 64-bit word; R252 (08): P bits, by LOCAL / 8; reset clear. -/
  poison : NSet := []
  /-- 1 bit per 64-bit word; R253 (08): F bits; reset empty. -/
  full : NSet := []
  /-- 16 bits per granule; R258 (08): owner tags; reset 0x0000. -/
  tags : Tbl (BitVec 16) := []
  /-- R261 (08): tag changes asked for and not yet in effect, by granule; reset none. -/
  changes : Tbl (BitVec 16) := []
deriving DecidableEq, Repr

/-- The state of one 128 B sector in the directory (R306): I, S, or M with its owner. -/
inductive SectSt where
  | i | s | m (owner : Nat)
deriving DecidableEq, Repr

/-- A directory entry for a 512 B block (R306): presence by agent, and its four sectors. -/
structure DirEntry where
  presence : NSet := []
  sectors : List SectSt := [.i, .i, .i, .i]
deriving DecidableEq, Repr

/-- A request to a home (R308, R331 to R337). Addresses are LOCAL. -/
inductive Req where
  | read (addr len : Nat) (alloc : Bool)
  | readOwn (addr len : Nat)
  | write (addr : Nat) (bytes : List Byte) (poisoned : Bool) (stash : Option Nat)
  | writeBack (sector : Nat) (bytes : Mem) (poison : NSet)
  | lr (addr : Nat) (size64 : Bool)
  | sc (addr : Nat) (size64 : Bool) (v : Nat) (poisoned : Bool)
  | amo (addr : Nat) (size64 : Bool) (op : Nat) (cmp v : Nat) (poisoned : Bool)
  | flintAdd (obj amount : Nat)
  | flintSub (obj amount : Nat)
  | flintArrive (obj : Nat)
  | flintRelease (obj : Nat)
  | flintWait (obj : Nat) (c : Cond)
  | feFill (addr v : Nat) (poisoned : Bool)
  | feTake (addr : Nat)
  | fePeek (addr : Nat) (noWait : Bool)
  | stash (sector : Nat) (tile : Nat) (whole : Bool)
  | drop (sector : Nat)
  | offer (sector : Nat)
deriving DecidableEq, Repr

/-- A packet in flight to a home (R28, R29): its source, the context it is checked under, the request, its task, and
whether its transaction has begun. -/
structure Packet where
  src : Src
  context : Option Nat
  req : Req
  task : Option Nat
  begun : Bool
  /-- R227: a tensor move's, for which the home snoops the tile's own cache like any other. -/
  mover : Bool
  /-- 16 bits; R358: the number that the source of a Flint operation gives it at its slice. -/
  seq : Nat
deriving DecidableEq, Repr

/-- The status a response carries. -/
inductive RspSt where
  | ok | refused | refusedObject | peerLost | authFailed | abandoned | refusedP2p | xlatFault
deriving DecidableEq, Repr

/-- A response or acknowledgement in flight on RSP (R28, R299). Of a failed one, `value` is the refused device-physical
address, the object, or the device number (`remote`), and `log` the sequence number of the matching fault-log entry. -/
structure Rsp where
  dst : Src
  task : Option Nat
  st : RspSt
  data : List Byte := []
  poisoned : Bool := false
  value : Nat := 0
  flag : Bool := false
  remote : Bool := false
  log : Nat := 0
  /-- P of each 8-byte word of `data`, and the place of its first byte in its word (R434). -/
  marks : List Bool := []
  skew : Nat := 0
  /-- R25: the next number when the response entered RSP, and the quarry of the home that sent it. -/
  born : Nat := 0
  home : Option Nat := none
  /-- R188, R443: a lost peer makes the tile that asked trap. -/
  traps : Bool := false
deriving DecidableEq, Repr

/-- The snoop kinds (R308). -/
inductive Snoop where
  | inv | shr | cur
deriving DecidableEq, Repr

/-- A home transaction waiting for its snoops (R308, R312): the packet's id (0: an engine's bulk access), the agents still to
answer, the answers on their way, and the agents whose write-back crosses the snoop. -/
structure Txn where
  pkt : Nat
  sector : Nat
  snoop : Snoop
  waiting : NSet
  answers : Tbl SnoopAnswer
  crossing : NSet
  since : Nat
deriving DecidableEq, Repr

/-- A reservation entry of a home (R302): the tile, its 64 B granule, its age. -/
structure Resv where
  tile : Nat
  granule : Nat
  stamp : Nat
deriving DecidableEq, Repr

/-- The homes' state (R305 to R308, R302, R303). -/
structure Homes where
  /-- R306 (09): directory entries by 512 B block; reset none. -/
  dir : Tbl DirEntry := []
  /-- R302 (09): reservation tables, 64 entries per slice, oldest first; reset empty. -/
  resv : List Resv := []
  /-- R303 (09): progress locks: granule, tile, tick; reset none. -/
  locks : List (Nat × Nat × Nat) := []
  /-- R308 (09): transactions waiting for snoops, by their own number; reset none. -/
  txns : Tbl Txn := []
  /-- R310, R314 (09): sectors owned by the host whose latest data a BISnpCur has just brought for a bulk read; reset none. -/
  fresh : NSet := []
  /-- R308 (09): the request queue of a slice, 48 packets in arrival order, by quarry × 64 + slice; reset empty. -/
  queue : Tbl (List Nat) := []
  /-- R314 (09): transactions whose back-invalidate snoop waits for a place among the 256 outstanding, oldest first; reset none. -/
  biWait : List Nat := []
  /-- R246, R490 (07, 15): directory ways spared or lost, by quarry × 64 + slice; reset none. -/
  dirSpared : NSet := []
  /-- R490 (15): directory ways disabled; reset none. -/
  dirLost : NSet := []
  /-- R246, R490 (07, 15): ticks of corrected directory errors by slice and way, key (quarry × 64 + slice) × 32 + way; reset none. -/
  dirErrors : Tbl (List Nat) := []
  /-- R490 (15): directory ways due for replacement, by the same key; reset none. -/
  dirWorn : NSet := []
deriving DecidableEq, Repr

/-- A quarry-cache line (R241 to R243): its dirty flag, its use stamp (the least is the least recently used) and its way. -/
structure QcLine where
  dirty : Bool
  stamp : Int
  way : Nat
deriving DecidableEq, Repr

/-- A 128 B line of a sequencer's entry cache (R237): its bytes, and for a line that the cache kept while it was disabled what memory
held when it was enabled again. -/
structure EntryLine where
  line : Nat
  bytes : List Byte
  seen : Option (List Byte)
deriving DecidableEq, Repr

/-- The quarry caches (R241 to R247). Their data is the homes' data (R308), so a line keeps no bytes of its own. -/
structure QCache where
  /-- R241, R242 (07): lines held, by LOCAL / 128; reset none. -/
  lines : Tbl QcLine := []
  /-- R235 (07): enable controls by quarry; reset enabled and invalidated. -/
  ctl : Tbl CacheCtl := []
  /-- R246 (07): slices whose spare way is in use, by quarry × 64 + slice; reset none. -/
  spared : NSet := []
  /-- R490 (15): disabled ways, key (quarry × 64 + slice) × 32 + way; reset none. -/
  lost : NSet := []
  /-- R243, R247 (07): the vein whose QC_WAYS reserve a way, by quarry × 16 + way; reset none. -/
  resv : Tbl Nat := []
  /-- R243, R244, R247 (07): the places of a logical tile's checkpoint storage in its quarry, as first place and count. Place p is way
  15 - p / 49152, set p % 49152 / 64, slice p % 64; reset none. -/
  pins : Tbl (List (Nat × Nat)) := []
  /-- R245 (07): the insertion queue of a slice, by quarry × 64 + slice: sectors with the vein they are inserted for; reset none. -/
  queue : Tbl (List (Nat × Nat)) := []
  /-- R246, R490 (07, 15): ticks of corrected errors by slice and way, key (quarry × 64 + slice) × 32 + way; reset none. -/
  errors : Tbl (List Nat) := []
  /-- R490 (15): ways due for replacement, by the same key; reset none. -/
  worn : NSet := []
deriving DecidableEq, Repr

/-! ## Flint -/

/-- A Flint object (R326). -/
structure Obj where
  /-- 32 bits. -/
  value : Nat := 0
  /-- 32 bits. -/
  limit : Nat := 0
  barrier : Bool := false
  unbounded : Bool := false
  phase : Bool := false
  pendingUp : Bool := false
  /-- 0 FREE, 1 ACTIVE, 2 EVICTED. -/
  state : Nat := 0
  ovf : Bool := false
  unf : Bool := false
  abandoned : Bool := false
  above : Bool := false
  owner : Nat := 0
  vector : Nat := 0
  notify : Bool := false
  parentDevice : Nat := 0
  parentObject : Nat := 0
  hasParent : Bool := false
  childCount : Nat := 0
  childList : Nat := 0
  /-- REFCNT at the last operation applied (R356). -/
  when' : Nat := 0
deriving DecidableEq, Repr

/-- A wait registered at a home (R334, R337): on an object, or on a word of device memory. -/
structure Waiter where
  who : WaitRef
  seq : Nat
  obj : Option Nat
  word : Option Nat
  take : Bool
  cond : Cond
  since : Nat
deriving DecidableEq, Repr

/-- A wake in flight (R334, R358): its waiter, sequence number, value, and whether it carries ABANDONED or poison. -/
structure Wake where
  who : WaitRef
  seq : Nat
  value : Nat
  abandoned : Bool
  poisoned : Bool
deriving DecidableEq, Repr

/-- Flint (R326 to R362). -/
structure Flint where
  /-- R326 (10): objects by number; reset FREE, every field 0. -/
  objs : Tbl Obj := []
  /-- R334 (10): registered waits in registration order; reset none. -/
  waiters : List Waiter := []
  /-- R334, R358 (10): wakes in flight, by id; reset none. -/
  wakes : Tbl Wake := []
  /-- R349 (10): nodes whose child-list read is under way; reset none. -/
  childReads : NSet := []
  /-- 8 bits; R362 FLINT_STATUS.MOVED (10); reset 0. -/
  moved : NSet := []
  /-- 8 bits; R362 FLINT_STATUS.UNMIRRORED (10); reset 0. -/
  unmirrored : NSet := []
  /-- R326, R358 (10): the mirrors' copies of the objects; reset FREE. -/
  mirror : Tbl Obj := []
  /-- R358 (10): the mirrors' copies of the registered waits; reset none. -/
  mirrorWaiters : List Waiter := []
  /-- 16 bits each; R358 (10): Flint operations that a sender has sent to a slice, by sender and slice; reset 0. -/
  opCounts : List (((Nat × Nat) × Nat) × Nat) := []
  /-- 16 bits; R362 FLINT_FAULTS.OVF, RC (10); reset 0. -/
  ovfs : Nat := 0
  /-- 16 bits; R362 FLINT_FAULTS.UNF, RC (10); reset 0. -/
  unfs : Nat := 0
  /-- 16 bits; R362 FLINT_FAULTS.OVERRUN, RC (10); reset 0. -/
  overruns : Nat := 0
  /-- 16 bits; R362 FLINT_FAULTS.ABANDONED, RC (10); reset 0. -/
  abandons : Nat := 0
  /-- 32 bits; R362 FLINT_WIN_IGNORED, RC (10); reset 0. -/
  winIgnored : Nat := 0
  /-- 21 bits [39:19]; R362 FE_VS_BASE (10); reset 0. -/
  vsBase : Nat := 0
  /-- 21 bits [39:19]; R362 FE_TAKE_BASE (10); reset 0. -/
  takeBase : Nat := 0
deriving DecidableEq, Repr

/-! ## Mica -/

/-- One Mica command in the stacks (R203, R215). -/
structure MicaCmd where
  block : MicaBlock
  context : Nat
  segs : Tbl Segment
  tile : Option Nat
  /-- R213: the tile that issued it, whose released effects come before it: how many of them have not left, and the number that the
  requests of those that have left are below. -/
  issuer : Option Nat
  ahead : Nat
  limit : Nat
  task : Option Nat
  lc : Nat
  acts : List (Byte × Bool)
  /-- R212: the weights as memory held them when the first stack started, with their P bits. -/
  before : Mem
  beforePoison : NSet
  started : NSet
  refused : Bool
  acc : Tbl AccEntry
  nextTerm : Tbl Nat
  poisonRows : NSet
  done : NSet
deriving DecidableEq, Repr

/-- Mica units and reduction trees (R195, R215). -/
structure Mica where
  /-- R215 (06): commands by id; reset none. -/
  cmds : Tbl MicaCmd := []
  /-- R215 (06): waiting commands of each stack, at most 16, in arrival order; reset none. -/
  queue : Tbl (List Nat) := []
  /-- R215 (06): the command each stack runs; reset none. -/
  running : Tbl Nat := []
  /-- R256, R490 (08, 15): ticks of a unit's residue failures, by stack × 1024 + bank; reset none. -/
  residue : Tbl (List Nat) := []
deriving DecidableEq, Repr

/-! ## Translation -/

/-- An ATC entry (R273). -/
structure AtcEntry where
  pasid : Nat
  va : Nat
  size : Nat
  pa : Nat
  r : Bool
  w : Bool
  stamp : Nat
deriving DecidableEq, Repr

/-- A translation request under way (R274): its stream, PASID, page, whether it needs W, whether it may ask for the page. -/
structure XReq where
  stream : Src
  pasid : Nat
  page : Nat
  write : Bool
  faultIn : Bool
  /-- R278: the front end's request after a Success, for the page request in this slot. -/
  slot : Option Nat := none
deriving DecidableEq, Repr

/-- A translation that an engine has been given for an access it is about to make (R275, R276, R280): where the page lies, or none where
the access is to be made untranslated on CXL.io (U = 1). -/
structure XGrant where
  stream : Src
  pasid : Nat
  page : Nat
  pa : Option Nat
  w : Bool
deriving DecidableEq, Repr

/-- A page request slot (R276 to R278). -/
structure PageSlot where
  pasid : Nat
  page : Nat
  write : Bool
  waiters : List Src
  tries : Nat
  since : Nat
  dead : Bool
  /-- R408: its Page Request waits until the block may send upstream. -/
  unsent : Bool
deriving DecidableEq, Repr

/-- A placement entry (R285). -/
structure Placement where
  context : Nat
  host : Nat
  len : Nat
  dva : Nat
  ending : Bool
deriving DecidableEq, Repr

/-- Translation (R272 to R291). -/
structure Xlat where
  /-- R273 (08): ATC entries; at most 32,768; reset none. -/
  atc : List AtcEntry := []
  /-- R274 (08): translation requests outstanding, by id; reset none. -/
  reqs : Tbl XReq := []
  /-- R274, R408 (08, 12): misses whose Translation Request waits for a requester or may not leave yet, in order; reset none. -/
  waiting : List XReq := []
  /-- R275, R276, R280 (08): translations that engines hold for accesses not yet made; reset none. -/
  grants : List XGrant := []
  /-- R276 (08): page-request slots, 512; reset none. -/
  slots : Tbl PageSlot := []
  /-- R276 (08): faults waiting for a free slot; reset none. -/
  slotWait : List XReq := []
  /-- R279, R280 (08): invalidations accepted, oldest first: PASID (none: all), tick of arrival, and the accesses sent before it
  that are still waited for, each with its page where known; reset none. -/
  invals : List (Option Nat × Nat × Tbl Nat) := []
  /-- R285 (08): placement entries, 64; reset none. -/
  placed : List Placement := []
  /-- 1 bit; R290 PRI_STOPPED (08); reset 0. -/
  priStopped : Bool := false
  /-- 40 bits; R291 XLAT_PRI_TIMEOUT (08); reset 0x0800_0000. -/
  priTimeout : Nat := 0x08000000
  /-- 4 bits; R291 XLAT_BAR4_WINDOW.WINDOW (08); reset 0. -/
  bar4Window : Nat := 0
  /-- 19 bits; R291 XLAT_TAG_INDEX (08); reset 0. -/
  tagIndex : Nat := 0
  /-- 64 bits; R288 XLAT_ATC_MISSES (08); reset 0. -/
  misses : Nat := 0
  /-- 64 bits; R288 XLAT_PAGE_REQUESTS (08); reset 0. -/
  pageRequests : Nat := 0
  /-- 64 bits; R288 XLAT_PAGE_FAILS (08); reset 0. -/
  pageFails : Nat := 0
  /-- 64 bits; R288 XLAT_INVALIDATIONS (08); reset 0. -/
  invalidations : Nat := 0
  /-- 64 bits; R288 XLAT_DRAIN_MAX, RC (08); reset 0. -/
  drainMax : Nat := 0
deriving DecidableEq, Repr

/-! ## Host endpoint -/

/-- An MSI-X table entry (R413): address, data, mask. -/
structure MsixEntry where
  addr : Nat := 0
  data : Nat := 0
  masked : Bool := true
deriving DecidableEq, Repr

/-- What an upstream request is for (R280, R292, R411, R422). -/
inductive UpKind where
  | rdShared | rdCurr | ioRead | itoMWr | wrCur | ioWrite
deriving DecidableEq, Repr

/-- An outstanding upstream request (R280, R408, R410). -/
structure UpReq where
  src : Src
  task : Option Nat
  kind : UpKind
  pasid : Nat
  addr : Nat
  len : Nat
  bytes : List Byte
  poisoned : Bool
  peer : Bool
  sent : Bool
  /-- R280: not yet sent when its translation was withdrawn; its untranslated address, to be translated again. -/
  va : Option Nat
  /-- R280: the host-space page that the request was made for; none before it is known. -/
  page : Option Nat
deriving DecidableEq, Repr

/-- A request of the host to a BAR, or by CXL.mem, that its port may hold (R409, R417). -/
inductive PortReq where
  | bar4Read (off len : Nat) (pasid : Bool)
  | bar4Write (off : Nat) (bytes : List Byte) (m : HostMark) (steer : BitVec 16)
  | bar4Atomic (off : Nat) (size64 : Bool) (swap : Bool) (cas : Option Word) (v : Word) (pasid : Bool)
  | hostCxlmemRequest (hpa : Nat) (len : Nat) (wr : Option (List Byte)) (poisoned : Bool) (own : Bool)
  | hdmDecoderCommit (base size ways : Nat) (lock : Bool)
  | flintWinAdd (obj : Nat) (v : Word32) (m : HostMark)
  | flintWinSub (obj : Nat) (v : Word32) (m : HostMark)
  | flintWinArrive (obj : Nat) (m : HostMark)
  | flintWinClear (obj : Nat) (v : Word32) (m : HostMark)
  | feWinFill (slot : Nat) (v : Word) (m : HostMark)
  | feWinTake (slot : Nat) (pasid : Bool) (f : DramFinding)
  | workDoorbell (off : Nat) (width : Nat) (v : Word) (m : HostMark)
  | admqDoorbell (w : Who) (v : Word)
  | admqBase (w : Who) (v : Word)
  | admqSize (w : Who) (v : Word)
  | ownClaim (epoch : BitVec 32)
  | ownRenew (w : Who) (epoch : BitVec 32)
  | ownHandover (w : Who) (v : Word)
  | pwrFset (w : Who) (v : Word)
  | pwrCapOwner (w : Who) (v : Word32)
  | devtabInvalidateOne (w : Who) (device : Nat)
  | devtabInvalidateAll (w : Who)
  | fabDevtabBase (w : Who) (v : Word)
  | msixUnmask (vector : Nat)
  | registerWrite (off width : Nat) (v : Word) (m : HostMark)
  | ownDeniedCount (pasid : Bool)
  | queueDbIgnored (pasid : Bool)
  | flintFaults (pasid : Bool)
  | flintWinIgnored (pasid : Bool)
  | xlatDrainMax (pasid : Bool)
  | fabEvents (pasid : Bool)
deriving DecidableEq, Repr

/-- A Header Log entry (R421): the status bit of the error that it belongs to, and its words: the LOG_SEQ of an internal error; of a TLP's
error the TLP's header, whose fields the commands do not carry, as open words. -/
structure HeaderLog where
  bit : Nat
  words : Nat
deriving DecidableEq, Repr

/-- The host endpoint (R399 to R429). -/
structure HostEndpoint where
  /-- R408, R428 (12): the link is up; reset down. -/
  linkUp : Bool := false
  /-- 1 bit; R400 Memory Space Enable (12); reset 0. -/
  mse : Bool := false
  /-- 1 bit; R400 Bus Master Enable (12); reset 0. -/
  bme : Bool := false
  /-- 1 bit; R290 ATS Enable (08); reset 0. -/
  atsEn : Bool := false
  /-- 1 bit; R290 PRI Enable (08); reset 0. -/
  priEn : Bool := false
  /-- R276 (08): Outstanding Page Request Allocation granted by the host; reset 0, PRESUMED of PCI Express (log 78). -/
  priAlloc : Nat := 0
  /-- 1 bit; R403 Cache_Enable (12); reset 0, PRESUMED of CXL 3.1 (log 78). -/
  cacheEn : Bool := false
  /-- 1 bit; R403 Mem_Enable (12); reset 0, PRESUMED of CXL 3.1 (log 78). -/
  memEn : Bool := false
  /-- 1 bit; R403 Cache Invalid (12); reset 0, PRESUMED of CXL 3.1 (log 78). -/
  cacheInvalid : Bool := false
  /-- 1 bit; R412, R413 MSI-X Enable (12); reset 0, PRESUMED of PCI Express (log 78). -/
  msixEn : Bool := false
  /-- 1 bit; R413 Function Mask (12); reset 0, PRESUMED of PCI Express (log 78). -/
  functionMask : Bool := false
  /-- R413 (12): MSI-X table, 2,048 entries; reset address and data 0, Mask 1. -/
  msix : Tbl MsixEntry := []
  /-- 2,048 bits; R413 PBA (12); reset 0, PRESUMED of PCI Express (log 78). -/
  pba : NSet := []
  /-- 1 bit; R414 MSI Enable (12); reset 0, PRESUMED of PCI Express (log 78). -/
  msiEn : Bool := false
  /-- R414 (12): log2 of the vectors allotted by MSI; reset 0, PRESUMED of PCI Express (log 78). -/
  msiLog2 : Nat := 0
  /-- 32 bits; R414 MSI mask bits (12); reset 0, PRESUMED of PCI Express (log 78). -/
  msiMask : BitVec 32 := 0
  /-- 32 bits; R414 MSI pending bits (12); reset 0, PRESUMED of PCI Express (log 78). -/
  msiPending : NSet := []
  /-- 64 bits; R414 MSI address (12); reset 0, PRESUMED of PCI Express (log 78). -/
  msiAddr : BitVec 64 := 0
  /-- 16 bits; R414 Message Data (12); reset 0, PRESUMED of PCI Express (log 78). -/
  msiData : BitVec 16 := 0
  /-- 64 bits each; R400 BAR0, BAR2, BAR4 bases (12); reset 0, PRESUMED of PCI Express (log 78). -/
  bars : List Nat := [0, 0, 0]
  /-- R407 (12): log2 of the BAR4 size; reset 36 (64 GiB). -/
  bar4Log2 : Nat := 36
  /-- 2 bits; R416 PowerState: D3hot (12); reset D0. -/
  d3hot : Bool := false
  /-- 1 bit; R416 PME_En (12); reset 0, PRESUMED of PCI Express (log 78). -/
  pmeEn : Bool := false
  /-- R417 (12): a write of D0 began the wake; memory requests are held until it ends; reset no. -/
  d3wake : Bool := false
  /-- R415 (12): ASPM L1 enabled in Link Control; reset 0, PRESUMED of PCI Express (log 78). -/
  aspmL1 : Bool := false
  /-- R415 (12): the link is in L1; reset no. -/
  inL1 : Bool := false
  /-- R404 (12): the HDM decoder's base once committed; reset not committed. -/
  hdm : Option Nat := none
  /-- 1 bit; R404 Error Not Committed (12); reset 0, PRESUMED of CXL 3.1 (log 78). -/
  hdmError : Bool := false
  /-- 1 bit; R404 Lock On Commit of the committed decoder (12); reset 0, PRESUMED of CXL 3.1 (log 78). -/
  hdmLock : Bool := false
  /-- R313 (09): host-line filter: 512 B block of host memory to the tiles that hold it; reset empty. -/
  filter : Tbl NSet := []
  /-- R280, R410 (12): upstream requests outstanding, by id; reset none. -/
  up : Tbl UpReq := []
  /-- R419 (12): requests abandoned by FLR, whose completions are discarded on arrival; reset none. -/
  abandoned : NSet := []
  /-- R419 (12): FLR in progress, configuration answered with Request Retry Status; reset no. -/
  retry : Bool := false
  /-- R421 (12): AER correctable error status; sticky; reset 0, PRESUMED of PCI Express (log 78). -/
  aerCorrectable : NSet := []
  /-- R421 (12): AER uncorrectable error status; sticky; reset 0, PRESUMED of PCI Express (log 78). -/
  aerUncorrectable : NSet := []
  /-- 32 bits; R421 (12): AER uncorrectable error severity, set for a fatal class; reset only Malformed TLP (bit 18). -/
  aerSevere : NSet := [18]
  /-- 128 bits; R421, R506 (12, 15): the Header Log; sticky; reset empty. -/
  aerHeader : Option HeaderLog := none
  /-- 3 bits; R399 (12): Max_Payload_Size in Device Control; reset 0, 128 B, PRESUMED of PCI Express (log 78). -/
  maxPayload : BitVec 3 := 0
  /-- 3 bits; R399 (12): Max_Read_Request_Size in Device Control; reset 2, 512 B, PRESUMED of PCI Express (log 78). -/
  maxReadRequest : BitVec 3 := 2
  /-- 4 bits; R411 (12): Completion Timeout Value in Device Control 2; reset 0. -/
  timeoutValue : BitVec 4 := 0
  /-- 1 bit; R402, R411 (12): Completion Timeout Disable in Device Control 2; reset 0, PRESUMED of PCI Express (log 78). -/
  timeoutOff : Bool := false
  /-- R409, R417 (12): requests of the host that its port holds, oldest first; reset none. -/
  waiting : List PortReq := []
  /-- R313, R408 (09, 12): host lines whose CleanEvictNoData waits until the block may send upstream, oldest first; reset none. -/
  evicts : List Nat := []
  /-- R426 (12): peer windows 0–15: enable, BASE and LIMIT pages; reset 0. -/
  peers : Tbl (Bool × Nat × Nat) := []
deriving DecidableEq, Repr

/-! ## Fabric port -/

/-- A device-table entry (R431) as cached. -/
structure DevEntry where
  qpBase : Nat
  qpCount : Nat
  channel : Nat
  keySlot : Nat
  valid : Bool
  inbound : Bool
  context : Nat
deriving DecidableEq, Repr

/-- Peer states (R454). -/
inductive Peer where
  | normal | lost | authFailed
deriving DecidableEq, Repr

/-- An outbound operation without a response (R434, R443). -/
structure FabOp where
  device : Nat
  handle : Nat
  channel : Nat
  src : Src
  context : Nat
  task : Option Nat
  /-- 0 put, 1 get, 2 atomic add, 3 atomic compare-and-swap, 4 signal add, 5 signal subtract, 6 arrival, 7 release, 8 fill (R434). -/
  kind : Nat
  addr : Nat
  bytes : List Byte
  poisoned : Bool
  value : Nat
  value2 : Nat
  seq : Nat
  sent : Bool
  /-- the stash hint of a copy's put: a vein-relative logical tile (R434). -/
  stash : Option Nat
  /-- a put's poison bits, one for each 8-byte word, where they differ (R434). -/
  marks : List Bool
  /-- R433: the identity of its source, by which its queue pair is chosen. -/
  ident : Nat := 0
  /-- R444: the key slot of its device's entry, with which the adapter seals it. -/
  keySlot : Nat := 0
deriving DecidableEq, Repr

/-- An inbound packet that has arrived and is not yet answered (R440). -/
structure InPkt where
  head : PacketHead
  context : Nat
  req : Req
  get : Bool
  poison : List Bool
  /-- the channel of its queue pair; 16 where no entry has said it yet. -/
  channel : Nat
  /-- the device table has passed it. -/
  checked : Bool
  /-- its request has gone to the home. -/
  sent : Bool
  /-- the answer that waits for a RESPONSE credit. -/
  reply : Option (FabCode × List Byte × List Bool)
deriving DecidableEq, Repr

/-- The fabric port (R430 to R454). -/
structure Fabric where
  /-- 16 bits; R454 FAB_SELF.DEVICE, ST (13); reset 0. -/
  self : Nat := 0
  /-- 1 bit; R454 FAB_SELF.ASSIGNED, ST (13); reset 0. -/
  assigned : Bool := false
  /-- 1 bit; R454 FAB_DEVTAB_BASE.VALID, ST (13); reset 0. -/
  tabValid : Bool := false
  /-- 20 bits [39:20]; R454 FAB_DEVTAB_BASE.BASE, ST (13); reset 0. -/
  tabBase : Nat := 0
  /-- 16 bits; R454 FAB_DEVTAB_INVAL.DEVICE (13); reset 0. -/
  invalDevice : Nat := 0
  /-- 1 bit; R454 FAB_DEVTAB_INVAL.ALL (13); reset 0. -/
  invalAll : Bool := false
  /-- 1 bit; R454 FAB_DEVTAB_INVAL.PENDING, R432 (13): devices whose new entry is still to be read; reset none. -/
  rereads : NSet := []
  /-- 16 bits; R454 FAB_PEER_INDEX (13); reset 0. -/
  peerIndex : Nat := 0
  /-- R432 (13): cached device-table entries, at most 4,096; reset none. -/
  cache : Tbl DevEntry := []
  /-- 2 bits per device; R454 peer states (13); reset NORMAL. -/
  peers : Tbl Peer := []
  /-- 16 bits; R454 FAB_CHANNELS.UP (13); reset 0. -/
  channelsUp : NSet := []
  /-- R437 (13): request and response credits by channel; reset 0. -/
  credits : Tbl (Nat × Nat) := []
  /-- R443 (13): operations without a response, by id; reset none. -/
  ops : Tbl FabOp := []
  /-- 32 bits per queue pair; R439 next sequence number, by handle (13); reset 0 DESIGN CHOICE (log 4). -/
  seqs : Tbl Nat := []
  /-- R440, R441 (13): inbound packets not yet answered, by id; reset none. -/
  inbound : Tbl InPkt := []
  /-- R440 (13): by queue-pair handle, the lowest sequence number not yet committed and the committed ones above it; reset 0
  DESIGN CHOICE (log 4). -/
  committed : Tbl (Nat × NSet) := []
  /-- 16 bits; R454 FAB_EVENTS.PEER_LOSSES, RC (13); reset 0. -/
  peerLosses : Nat := 0
  /-- 16 bits; R454 FAB_EVENTS.AUTH_FAILURES, RC (13); reset 0. -/
  authFailures : Nat := 0
  /-- 16 bits; R454 FAB_EVENTS.REFUSED, RC (13); reset 0. -/
  refused : Nat := 0
  /-- 16 bits; R454 FAB_EVENTS.NOT_READY, RC (13); reset 0. -/
  notReady : Nat := 0
deriving DecidableEq, Repr

/-! ## Power -/

/-- Power state of one quarry (R455 to R474). Frequencies are in 100 MHz units. -/
structure QPower where
  /-- 5 bits; R483 FSET[q] (14); reset 4. -/
  fset : Nat := 4
  /-- 5 bits; R44, R455 TILE_FREQ (01, 14): the frequency of the quarry's PLL; reset 4. -/
  freq : Nat := 4
  /-- 14 bits; R456 (14): the rail's set point in tenths of a millivolt; reset 6,250, ROM's 0.60 V with its guard band (R459). -/
  rail : Nat := 6250
  /-- R467 (14): CAP or RACK frequency limit; reset 28. -/
  capLimit : Nat := 28
  /-- R472 (14): THERMAL limit; reset 28. -/
  thermLimit : Nat := 28
  /-- R463 (14): CURRENT limit; reset 28. -/
  currLimit : Nat := 28
  /-- R457 (14): boost frequency while boosting, 0 otherwise; reset 0. -/
  boost : Nat := 0
  /-- 5 bits; R483 GATE (14): sixteenths; reset 16. -/
  gate : Nat := 16
  /-- R472 (14): thermal pulse gate 4/16 in force; reset no. -/
  thermGate : Bool := false
  /-- R473 (14): admission to the stack in eighths; reset 8. -/
  stackAdmit : Nat := 8
  /-- R467 (14): CAP or RACK memory admission in eighths; reset 8. -/
  memAdmit : Nat := 8
  /-- R467 (14): links admission in eighths; reset 8. -/
  linkAdmit : Nat := 8
  /-- R219, R464, R467 (06, 14): the Mica issue rate that grant and alert allow, in eighths; reset 8. -/
  micaRate : Nat := 8
  /-- R464, R467 (14): the links rate that grant and alert allow, in eighths; reset 8. -/
  linkRate : Nat := 8
  /-- R462 (14): the tile clock is stretched; reset no. -/
  stretched : Bool := false
  /-- R462 (14): the current tick contains a stretch; reset no. -/
  stretchedTick : Bool := false
  /-- 8 bits; R483 COMPUTE_C (14); reset 0. -/
  computeC : Nat := 0
  /-- 8 bits; R483 BASE_C (14); reset 0. -/
  baseC : Nat := 0
  /-- 8 bits; R483 DRAM_C (14); reset 0. -/
  dramC : Nat := 0
  /-- 8 bits; R483 COMPUTE_MAX_C (14); reset 0. -/
  computeMaxC : Nat := 0
  /-- R463 (14): the rail's current limit reported by the package controller, mA; reset 0 (none reported) DESIGN CHOICE (log 4). -/
  railLimit : Nat := 0
  /-- R463 (14): the rail's current averaged over 100 µs as last seen, mA; reset 0 DESIGN CHOICE (log 4). -/
  railAverage : Nat := 0
  /-- R466 (14): power granted to the quarry's compute in the last interval, mW; reset 0 DESIGN CHOICE (log 4). -/
  grant : Nat := 0
  /-- R464 (14): the alert floor is released and the quarry has not yet left it; reset no. -/
  leaving : Bool := false
  /-- R459 (14): trimmed table entries by step, offset in 5 mV from ROM + 25 mV; reset 0. -/
  trim : Tbl Int := []
  /-- R459 (14): the tick since which the smallest margin has stayed above 40 mV; reset none. -/
  marginHigh : Option Nat := none
  /-- R459 (14): the tick of the last rise of an entry; reset none. -/
  trimmedAt : Option Nat := none
  /-- R460 (14): steps above this are removed from the ceiling by age; reset 28. -/
  ageCeiling : Nat := 28
  /-- R467, R469 (14): CAP or RACK holds an item of the quarry; reset no. -/
  capped : Bool := false
  /-- R461, R485 (15): the clock runs from the spare PLL; reset no. -/
  pllSpare : Bool := false
  /-- R490 (15): the clock runs from the fabric PLL; reset no. -/
  pllFallback : Bool := false
  /-- R473, R214 (14, 06): refresh runs twice as often; reset no. -/
  hotRefresh : Bool := false
deriving DecidableEq, Repr

/-- Power, clocks, thermal (R455 to R483). -/
structure Power where
  /-- by quarry 0–7. -/
  q : Tbl QPower := []
  /-- 16 bits; R483 PWR_CAP_OWNER, ST (14); reset 2,800. -/
  capOwner : Nat := 2800
  /-- 16 bits; R483 PWR_CAP_RACK, ST (14); reset 3,000. -/
  capRack : Nat := 3000
  /-- R464, R478 (14): cap or FSET changes recorded during an alert or sleep; reset none. -/
  deferredOwner : Option Nat := none
  /-- R464, R478 (14): rack cap change recorded; reset none. -/
  deferredRack : Option Nat := none
  /-- R464 (14): PWR_FSET write recorded; reset none. -/
  deferredFset : Option Nat := none
  /-- R464 (14): VRALERT_N asserted; reset no. -/
  alert : Bool := false
  /-- R464 (14): the floor holds; reset no. -/
  alertFloor : Bool := false
  /-- R464 (14): tick of the last deassertion; reset 0. -/
  alertEnd : Nat := 0
  /-- R465 (14): model scale in 1/65,536; reset 65,536 DESIGN CHOICE (log 4). -/
  scale : Nat := 65536
  /-- 7 bits; R483 THR_SEEN, W1C (14); reset 0. -/
  seen : BitVec 7 := 0
  /-- 64 bits each; R483 THR_DURATION, ST (14); reset 0. -/
  durations : List Nat := [0, 0, 0, 0, 0, 0, 0]
  /-- 64 bits each; R471 ENERGY_CLASS in fJ, ST (14); reset 0. -/
  energyClass : List Nat := [0, 0, 0]
  /-- R465, R483 PWR_NOW (14): the estimates of the last ten intervals, µW: static, links, memory, compute; reset none. -/
  window : List (List Nat) := []
  /-- 64 bits; R471 ENERGY_STATIC in 1/10,000 µJ, ST (14); reset 0. -/
  energyStatic : Nat := 0
  /-- 64 bits; R471 ENERGY_MEASURED, µJ, ST (14); reset 0. -/
  energyMeasured : Nat := 0
  /-- 64 bits each; R471 ENERGY_VEIN in fJ by 4v + c, ST (14); reset 0. -/
  energyVein : Tbl Nat := []
  /-- R468 (14): the cap is infeasible; reset no. -/
  infeasible : Bool := false
deriving DecidableEq, Repr

/-! ## Quarries, spares, faults -/

/-- One port of a quarry (R45, R25). -/
structure Port where
  /-- 0 absent, 1 up, 2 half width in a direction, 3 down. -/
  state : Nat := 0
  spares : Nat := 32
  swaps : Nat := 0
  detour : Bool := false
  /-- R24, R25 (01): the port's transmitting direction runs on half its lanes; reset no. -/
  half : Bool := false
deriving DecidableEq, Repr

/-- Hardware health of one quarry (R44, R45, R508). -/
structure Quarry where
  /-- 1 bit; R44 PRESENT (01); reset 0. -/
  present : Bool := false
  /-- R45 (01): ports XP, XM, Y, IO; reset absent. -/
  ports : Tbl Port := []
  /-- 5 bits; R35, R44 COPY_ACTIVE (01): the copy engines in service, by number; reset none, boot 0 to 3. -/
  engines : NSet := []
  /-- 3 bits; R35, R490 (01, 15): the engine that is the spare, or waits for its test to be; reset 4. -/
  engineOut : Nat := 4
  /-- 1 bit; R44 COPY_SPARE (01); reset 0. -/
  copySpare : Bool := false
  /-- 1 bit; R44 PLL_SPARE_IN_USE is in QPower (01); whether a spare PLL remains; reset no. -/
  pllSpareLeft : Bool := false
  /-- 8 bits; R508 TSV_SPARES (15); reset 0. -/
  tsvSpares : Nat := 0
  /-- 1 bit; R508 TSV_HALF (15); reset 0. -/
  tsvHalf : Bool := false
  /-- R508, R218 (15, 06): spare result lanes left by die; reset 0, boot 16. -/
  resultSpares : Tbl Nat := []
  /-- R218 (06): dies at half result width; reset none. -/
  resultHalf : NSet := []
  /-- R256 (08): spare banks left by die; reset 0, boot 4. -/
  bankSpares : Tbl Nat := []
  /-- R255 (08): spare rows left by bank; reset 0, boot 32. -/
  rowSpares : Tbl Nat := []
  /-- R255 (08): corrected errors by row, with ticks, key bank × 65,536 + row; reset none. -/
  rowErrors : Tbl (List Nat) := []
  /-- R256 (08): uncorrectable rows by bank; reset none. -/
  bankErrors : Tbl (List Nat) := []
  /-- R256 (08): banks whose copy to a spare is under way; reset none. -/
  bankCopies : NSet := []
  /-- R255 (08): rows whose copy to a spare is under way; reset none. -/
  rowCopies : NSet := []
  /-- R495, R508 BANK_NONE (15): failed banks in service; reset none. -/
  bankNone : NSet := []
  /-- 8 bits; R508 RETIRED (15); reset 0. -/
  retired : Nat := 0
  /-- 16 bits; R508 ROTATION_STEPS (15); reset 0. -/
  rotationSteps : Nat := 0
  /-- 6 bits; R508 NEXT_TILE (15); reset 0. -/
  nextTile : Nat := 0
  /-- 1 bit; R508 OVERDUE (15); reset 0. -/
  overdue : Bool := false
  /-- R24, R490 (01, 15): consecutive CRC failures by lane, key path × 8,192 + die × 512 + lane; reset 0. -/
  crcFails : Tbl Nat := []
  /-- R499 (15): training temperature and current by lane, once a check or a retraining has shown them; reset none. -/
  trained : Tbl (Nat × Nat) := []
  /-- R499 (15): lanes with a stale result; reset none. -/
  stale : NSet := []
  /-- R214 (06): per-bank refreshes made; reset 0. -/
  refreshes : Nat := 0
deriving DecidableEq, Repr

/-- A fault-log entry (R503). -/
structure LogEntry where
  seq : Nat
  time : Nat
  cls : LogClass
  outcome : Outc
  quarry : Nat
  vein : Nat
  unit : Nat
  context : Nat
  interrupt : Nat
  count : Nat
  detail0 : Nat
  detail1 : Nat
deriving DecidableEq, Repr

/-- The fault log and its registers (R501 to R506). -/
structure Faults where
  /-- R332 (10): of a FLINT_FAULT entry, by its sequence number, the operation (0 add, 1 subtract, 2 arrival, 3 release) and its amount, for
  which R504's layout has no bytes; reset none. -/
  flintOps : Tbl (Nat × Nat) := []
  /-- R501 (15): entries held, at most 4,096, oldest first; reset none. -/
  log : List LogEntry := []
  /-- 64 bits; R502 FLT_NEWEST, ST (15); reset 0. -/
  newest : Nat := 0
  /-- 16 bits each; R502 FLT_COUNTS: notice, masked, detected, overwritten, ST (15); reset 0. -/
  notices : Nat := 0
  /-- 16 bits; R502 MASKED, ST (15); reset 0. -/
  maskeds : Nat := 0
  /-- 16 bits; R502 DETECTED, ST (15); reset 0. -/
  detecteds : Nat := 0
  /-- 16 bits; R502 OVERWRITTEN, ST (15); reset 0. -/
  overwritten : Nat := 0
  /-- R502 (15): sequence read by a reader of the window, for "unread"; reset 0. -/
  readUpTo : Nat := 0
  /-- 11 bits; R502 FLT_NOTIFY.VECTOR, ST (15); reset 0. -/
  vector : Nat := 0
  /-- 1 bit; R502 FLT_NOTIFY.ENABLE, ST (15); reset 0. -/
  enable : Bool := false
  /-- 2 bits; R502 FLT_NOTIFY.LEVEL, ST (15); reset 2. -/
  level : Nat := 2
  /-- R506 (15): entries due and not yet notified; reset none. -/
  due : List Nat := []
  /-- R506 (15): tick of the last message; reset none. -/
  lastMsg : Option Nat := none
  /-- 9 bits; R502 UNSERVED: the unserved block-wide logical ids, ST (15); reset none. -/
  unserved : NSet := []
  /-- R502 FLT_CAPACITY bits [16:9], ST (15); reset 0. -/
  capacity : NSet := []
  /-- 16 bits; R502 STEPS (15); reset 0. -/
  steps : Nat := 0
  /-- 8 bits; R502 FOUND (15); reset 0. -/
  found : Nat := 0
  /-- 1 bit; R502 RUNNING (15); reset 0. -/
  selfTest : Bool := false
  /-- R497 (15): units under test; tiles under test have their own role; reset none. -/
  testing : List TestUnit := []
deriving DecidableEq, Repr

/-! ## Structure, ownership, block -/

/-- A clamp report entry (R76). -/
structure Clamp where
  type : Nat
  inst : Nat
  reason : Nat
  field : Nat
  element : Nat
  given' : Nat
  applied : Nat
deriving DecidableEq, Repr

/-- The structure in force (R54 to R63). -/
structure Structure where
  /-- R58 (02): veins defined, by id; reset none. -/
  veins : Tbl Vein := []
  /-- 9 bits each; R55, R56 (02): logical id to physical tile; reset empty. -/
  tileMap : Tbl Nat := []
  /-- 8 bits; R54 ENABLE (02); reset 0. -/
  quarries : Nat := 0
  /-- R54 SCRUB_MIN (02); reset 60. -/
  scrubMin : Nat := 60
  /-- R57 SCOPE (02); reset 1. -/
  scope : Nat := 1
  /-- R57 RETIRE_MV (02); reset 15. -/
  retireMv : Nat := 15
  /-- R57 SELFTEST_H (02); reset 24. -/
  selftestH : Nat := 24
  /-- R62 SPREAD, R483 (02, 14); reset 1. -/
  spread : Bool := true
  /-- R62 BOOST, R483 (02, 14); reset 0. -/
  boost : Bool := false
  /-- R62 FIXED, R483 (02, 14); reset 0. -/
  fixed : Bool := false
  /-- R62 FMAX[q] (02); reset 28 (FCEIL, R483). -/
  fmax : Tbl Nat := []
  /-- R62 CLASS_ORDER (02); reset 0. -/
  classOrder : Nat := 0
  /-- R62, R470 COEFF (02, 14); reset the ROM column of R470. -/
  coeff : Tbl Nat := []
  /-- R62 LANE_RETRIES (02); reset 3. -/
  laneRetries : Nat := 3
  /-- 32 bits; R514 BLK_REV.MICROCODE (16); reset 0. -/
  microcode : Nat := 0
  /-- R405 (12): SHA-384 digest of the accepted image's signed bytes; reset 0. -/
  digest : BitVec 384 := 0
deriving DecidableEq, Repr

/-- A load under way (R64, R72, R73). -/
structure Load where
  task : Nat
  isPartial : Bool
  vein : Nat
  switched : Bool
  microcode : Nat
  /-- the structure before the switch, whose granules, tiles and objects are cleared where they change hands (R70). -/
  old : Structure
  /-- the quarries that were there before the switch. -/
  oldUp : Nat
  /-- R64: the image in the staging buffer, once it is fetched whole. -/
  staged : Option (List Byte) := none
deriving DecidableEq, Repr

/-- Strata status (R74 to R76). -/
structure Strata where
  /-- 1 bit; R514 STRUCTURE (16): a structure is in force; reset 0. -/
  inForce : Bool := false
  /-- R54 to R63 (02): the structure; reset the defaults of R52. -/
  str : Structure := {}
  /-- R75 STATE (02): the load in progress; reset none. -/
  load : Option Load := none
  /-- 4 bits; R75 LAST_RESULT, ST (02); reset 0. -/
  lastResult : Nat := 0
  /-- 5 bits; R75 LAST_VEIN, ST (02); reset 0. -/
  lastVein : Nat := 0
  /-- 1 bit; R75 LAST_PARTIAL, ST (02); reset 0. -/
  lastPartial : Bool := false
  /-- 16 bits; R75 LOADS, ST (02); reset 0. -/
  loads : Nat := 0
  /-- R76 (02): clamp report entries, ST; reset none. -/
  clamps : List Clamp := []
  /-- 64 bits; R76 header SERIAL, ST (02); reset 0. -/
  serial : Nat := 0
  /-- 8 bits; R76 header KIND, ST (02); reset 0. -/
  kind : Nat := 0
  /-- 8 bits; R76 header VEIN, ST (02); reset 0. -/
  vein : Nat := 0
  /-- 64 bits; R76 header WHEN, ST (02); reset 0. -/
  when' : Nat := 0
deriving DecidableEq, Repr

/-- Ownership (R516 to R527). Ticks are REFCNT ticks of 10 ns. -/
structure Ownership where
  /-- 2 bits; R527 OWN_STATE.STATE, ST (16); reset VACANT. -/
  st : OwnSt := .vacant
  /-- 2 bits; R527 KIND, ST (16); reset 0. -/
  kind : OwnKind := .none
  /-- 8 bits; R527 EID, ST (16); reset 0. -/
  eid : BitVec 8 := 0
  /-- 2 bits; R527 SUCC_KIND, ST (16); reset 0. -/
  succKind : OwnKind := .none
  /-- 8 bits; R527 SUCC_EID, ST (16); reset 0. -/
  succEid : BitVec 8 := 0
  /-- 32 bits; R527 OWN_EPOCH, ST (16); reset 0. -/
  epoch : BitVec 32 := 0
  /-- 16 bits; R527 OWN_LEASE.MS, ST (16); reset 2,000. -/
  leaseMs : Nat := 2000
  /-- R519 (16): the tick at which the lease ends; reset 0. -/
  leaseEnd : Nat := 0
  /-- R519 (16): the lease is suspended in D3hot; reset no. -/
  suspended : Bool := false
  /-- R519, R527 (16): ticks left when the lease was suspended; reset 0. -/
  frozen : Nat := 0
  /-- 32 bits; R527 OWN_RENEW.EPOCH (16); reset 0. -/
  renewed : BitVec 32 := 0
  /-- 2 bits; R527 OWN_HANDOVER.KIND, ST (16); reset 0. -/
  hoKind : OwnKind := .none
  /-- 8 bits; R527 OWN_HANDOVER.EID, ST (16); reset 0. -/
  hoEid : BitVec 8 := 0
  /-- R521 (16): the tick at which the handover lapses; reset 0. -/
  hoEnd : Nat := 0
  /-- 32 bits; R527 OWN_DENIED_COUNT, RC (16); reset 0. -/
  denied : Nat := 0
  /-- 32 bits; R516 (16): the epoch under which the host last held ownership; reset 0. -/
  hostEpoch : BitVec 32 := 0
deriving DecidableEq, Repr

/-- Block-wide state (R20, R32, R481, R514). -/
structure Block where
  /-- R509 (16): boot has ended and configuration space is presented; reset no. -/
  booted : Bool := false
  /-- R509, R416 (16, 12): PERST# asserted or rails off; reset asserted. -/
  perst : Bool := true
  /-- 3 bits; R514 BLK_STATE.STATE (16); reset UNSTRUCTURED. -/
  state : BlkSt := .unstructured
  /-- 1 bit; R514 RESUME_ORPHANED (16); reset 0. -/
  resumeOrphaned : Bool := false
  /-- R476 (14): sleep entry asked for; reset no. -/
  sleepAsked : Bool := false
  /-- R477, R479 (14): a wake source arrived; reset no. -/
  wakeAsked : Bool := false
  /-- 64 + 32 bits; R481 (14): the REFCNT accumulator with 32 fraction bits; reset 0. -/
  ref : Nat := 0
  /-- 4 bits; R483 REF_SPREAD (14): declared spread in 0.05 % units; reset 0. -/
  refSpread : Nat := 0
  /-- R32, R44 (01): the quarry of the active Quartz pair, none when both are lost; reset none. -/
  quartz : Option Nat := none
  /-- R44 QUARTZ_SPARE (01): the spare pair is available; reset no. -/
  quartzSpare : Bool := false
  /-- R25 (01): while routes change, the number from which packets are held at their sources; reset none. -/
  heldFrom : Option Nat := none
  /-- R480 (14): HBEAT level; reset low DESIGN CHOICE (log 4). -/
  hbeat : Bool := false
  /-- R480, R510 (14, 16): FAULT_N driven low by the block; reset no. -/
  faultN : Bool := false
  /-- R474 (14): THERM_TRIP_N asserted; reset no. -/
  thermTrip : Bool := false
  /-- R50 (02): digests of the key fuse slots 0–3; reset none programmed (boot reads the fuses). -/
  keys : List (Option (BitVec 384)) := []
  /-- 4 bits; R50 (02): revocation bits; reset 0. -/
  revoked : BitVec 4 := 0
  /-- R50 (02): the key fuses and revocation bits of base die 4; read-only in service; reset none. -/
  keys4 : List (Option (BitVec 384)) := []
  /-- R50 (02): as above; reset 0. -/
  revoked4 : BitVec 4 := 0
  /-- 32 bits; R320 VEIN_DOWN (09): veins in DOMAIN_DOWN; reset none. -/
  veinDown : NSet := []
  /-- 32 bits; R396 QUEUE_DB_IGNORED, RC (11); reset 0. -/
  dbIgnored : Nat := 0
  /-- 64 bits; R396 QUEUE_LATE_COUNT (11); reset 0. -/
  lateCount : Nat := 0
  /-- R237 (07): privileged caches disabled: 2c the instruction cache and 2c + 1 the data cache of Quartz core c, 1024 + s the entry cache
  of sequencer s; reset none. -/
  privOff : NSet := []
  /-- R237 (07): privileged caches not invalidated since they were disabled; reset none. -/
  privStale : NSet := []
  /-- R235, R237 (07): the lines of device memory in a sequencer's 8 KiB entry cache, by sequencer, oldest first; reset none. -/
  entryCache : Tbl (List EntryLine) := []
  /-- R235 (07): copy-engine caches, by quarry × 8 + engine; reset enabled and invalidated. -/
  engineCtl : Tbl CacheCtl := []
  /-- R390 (11): a malformed admin entry has been completed, and the block halts once every task that this aborts has its completion; reset no. -/
  halting : Bool := false
  /-- R65 (02): veins whose queues a partial load holds; reset none. -/
  fetchHold : NSet := []
  /-- R372 (11): the work queue of each priority that the front end served last; reset none. -/
  lastServed : Tbl Nat := []
deriving DecidableEq, Repr

/-- The protocols of the DOE mailbox (R405). -/
inductive DoeProtocol where
  | discovery | cdat | spdm
deriving DecidableEq, Repr

/-- Answers of the DOE mailbox (R405): the protocol at a Discovery index, the memory affinity structure, the SPDM answers. -/
inductive DoeAnswer where
  | protocol (p : Option DoeProtocol)
  | affinity (bytes readNs gigaBytesPerSecond : Nat)
  | noEntry
  | version (major minor : Nat)
  | capabilities (data : List Byte)
  | algorithms (ecdsaP384 sha384 : Bool)
  | digests (data : List Byte)
  | certificate (data : List Byte)
  | challenge (data : List Byte)
  | measurements (rom microcode : Nat) (digest : BitVec 384)
deriving DecidableEq, Repr

/-- What leaves the block at its boundary (R2, R38, R405, R442, R517), oldest first. -/
inductive Sent where
  | readData (value : Nat)
  | bytes (data : List Byte) (poisoned : Bool)
  | unsupportedRequest
  | completerAbort
  | retryStatus
  | msix (vector addr data : Nat)
  | msi (addr data : Nat)
  | pme
  | claimResult (won : Bool)
  | event (kind : Nat) (seq : Nat)
  | spareNotice (kind quarry : Nat)
  | rackCap (watts : Nat)
  | capInfeasible (on : Bool)
  | upstream (id : Nat)
  | zeroRead (id : Nat)
  | translation (id pasid page : Nat) (write : Bool)
  | pageRequest (slot pasid page : Nat) (write : Bool)
  | invalidationDone (pasid : Option Nat)
  | snoopHost (txn : Nat) (s : Snoop)
  | hostSnoopAnswer (hpa : Nat)
  | cleanEvict (hpa : Nat)
  /-- R444: a packet leaves with its key slot and its payload length. -/
  | packet (id keySlot length : Nat)
  | response (handle : Nat) (seq : Nat) (code : FabCode) (data : List Byte) (poison : List Bool)
  | aspmL1
  | doe (a : DoeAnswer)
  | cxlMemError
  | sidebandData (value : Nat)
  | sidebandBytes (data : List Byte) (poisoned : Bool)
  | railsOff
deriving DecidableEq, Repr

/-- The block. -/
structure State where
  /-- Commands waiting, first in first out; the model's own; reset empty. -/
  pending : List Instr := []
  /-- R20, R514 (00, 16): block-wide state. -/
  blk : Block := {}
  /-- R526 (16): ownership. -/
  own : Ownership := {}
  /-- R74 (02): Strata status and the structure in force. -/
  strata : Strata := {}
  /-- R363 (11): the admin queue. -/
  adm : AdminQueue := {}
  /-- R263 (08): contexts by id, 4,096; reset none. -/
  ctxs : Tbl Context := []
  /-- R363 (11): work queues by number, 4,096; reset none. -/
  queues : Tbl WorkQueue := []
  /-- R38 (01): tasks by number; reset none. -/
  tasks : Tbl Task := []
  /-- R116 (04): physical tiles 0–415; reset absent. -/
  tiles : Tbl Tile := []
  /-- R248 (08): device memory with tags. -/
  mem : DevMem := {}
  /-- R305 (09): homes and directory. -/
  homes : Homes := {}
  /-- R241 (07): quarry caches. -/
  qc : QCache := {}
  /-- R28 (01): packets in flight to homes, by id. -/
  pkts : Tbl Packet := []
  /-- R28, R299 (01, 09): responses in flight, by request id. -/
  rsps : Tbl Rsp := []
  /-- R326 (10): Flint. -/
  flint : Flint := {}
  /-- R195 (06): Mica. -/
  mica : Mica := {}
  /-- R272 (08): translation. -/
  xlat : Xlat := {}
  /-- R399 (12): the host endpoint. -/
  host : HostEndpoint := {}
  /-- R430 (13): the fabric port. -/
  fab : Fabric := {}
  /-- R455 (14): power, clocks, thermal. -/
  pwr : Power := {}
  /-- R21, R43 (01): quarries 0–7. -/
  qry : Tbl Quarry := []
  /-- R501 (15): the fault log. -/
  flt : Faults := {}
  /-- What has left the block, oldest first; the model's own record of its boundary; reset empty. -/
  sent : List Sent := []
  /-- The next request, task or packet number; the model's own; reset 1 DESIGN CHOICE (log 2). -/
  nextId : Nat := 1
  /-- The number of open values used; the model's own; reset 0 DESIGN CHOICE (log 2). -/
  free : Nat := 0
deriving DecidableEq, Repr

/-- Why a step stops with a fault. No path of the model raises one: every behaviour the spec describes answers a next
state, and an event that the state does not enable leaves it unchanged (assumption 3). The type keeps one name for an
address the spec says does not exist; BAR and LOCAL addresses outside every range are answered as R14, R42 and R421 say. -/
inductive Fault where
  /-- Safe: raised by nothing; a LOCAL address at or above 2^40 cannot be formed (R248, R264, R269). -/
  | noSuchAddress
deriving DecidableEq, Repr

/-- Why a step is refused. -/
inductive Refusal where
  /-- Safe: raised by an arm of Dispatch.lean whose command has no meaning yet. -/
  | notModelled (mnemonic : String)
  /-- Safe: raised by an access to a CXL component register other than the HDM decoder, whose contents CXL 3.1 defines
  and the spec does not state (R404, R530). -/
  | cxlComponentRegister
deriving DecidableEq, Repr

/-- The block right after reset: PERST# asserted, every register at the reset value of its table, nothing in flight. -/
def State.reset : State := {}

end Sys2Proof.Machine
end

