-- ==== Sys2Proof/Machine/Ops.lean ====
section
/-! DEFINITION. The named operations over the state: time, open values, records of tables, interrupts, the fault log,
the status of tasks, codes. -/

namespace Sys2Proof.Machine

/-! ## Time, numbers, open values -/

/-- REFCNT: the 64-bit count of ticks of 10 ns (R481, R9). -/
def State.now (s : State) : Nat := s.blk.ref / 2 ^ 32 % 2 ^ 64

/-- Ticks in a millisecond (R9). -/
def msTicks : Nat := 100000

/-- Ticks in a microsecond (R9). -/
def usTicks : Nat := 100

/-- The next open value as a 64-bit word. -/
def State.openWord (s : State) : Word := Config.freeWord s.free

/-- The next open choice. -/
def State.openNat (s : State) : Nat := Config.freeNat s.free

/-- The open value has been used. -/
def State.used (s : State) : State := { s with free := s.free + 1 }

/-- A fresh number has been taken. -/
def State.bump (s : State) : State := { s with nextId := s.nextId + 1 }

/-- Something leaves the block. -/
def State.emit (s : State) (x : Sent) : State := { s with sent := s.sent ++ [x] }

/-! ## Errors of the transaction layer (R421) -/

/-- An AER uncorrectable error of a TLP is reported, with its header where no earlier error holds the Header Log (R421). Bits of the PCIe
status word: 12 Poisoned TLP, 14 Completion Timeout, 16 Unexpected Completion, 18 Malformed TLP, 20 Unsupported Request, 25 TLP Prefix
Blocked (PRESUMED, assumption 7). -/
def State.aer (s : State) (b : Nat) : State :=
  let words := (Config.freeWord s.free).toNat + 2 ^ 64 * (Config.freeWord (s.free + 1)).toNat
  { s with
    free := if s.host.aerHeader.isNone then s.free + 2 else s.free
    host := { s.host with
      aerUncorrectable := setIns s.host.aerUncorrectable b
      aerHeader := if s.host.aerHeader.isNone then some ⟨b, words⟩ else s.host.aerHeader } }

/-- An error that is advisory: with non-fatal severity it is reported as correctable too, bit 13 (R421; PRESUMED, assumption 7). -/
def State.aerAdvisory (s : State) (b : Nat) : State :=
  let s := s.aer b
  if setHas s.host.aerSevere b then s else { s with host := { s.host with aerCorrectable := setIns s.host.aerCorrectable 13 } }

/-- Anything that the block sends upstream, or the host asks, brings the link back to L0 (R415). -/
def State.awake (s : State) : State := { s with host := { s.host with inL1 := false } }

/-! ## Records of tables -/

/-- The quarry of a physical tile (R21). -/
def quarryOf (t : Nat) : Nat := t / 52

def State.tile (s : State) (t : Nat) : Tile := tblGet Tile.blank s.tiles t
def State.setTile (s : State) (t : Nat) (x : Tile) : State := { s with tiles := tblPut s.tiles t x }
def State.modTile (s : State) (t : Nat) (f : Tile → Tile) : State := s.setTile t (f (s.tile t))

def State.quarry (s : State) (q : Nat) : Quarry := tblGet {} s.qry q
def State.modQuarry (s : State) (q : Nat) (f : Quarry → Quarry) : State :=
  { s with qry := tblPut s.qry q (f (s.quarry q)) }

def State.qpower (s : State) (q : Nat) : QPower := tblGet {} s.pwr.q q
def State.modQPower (s : State) (q : Nat) (f : QPower → QPower) : State :=
  { s with pwr := { s.pwr with q := tblPut s.pwr.q q (f (s.qpower q)) } }

def State.queue? (s : State) (q : Nat) : Option WorkQueue := tblFind s.queues q
def State.setQueue (s : State) (q : Nat) (x : WorkQueue) : State := { s with queues := tblPut s.queues q x }
def State.modQueue (s : State) (q : Nat) (f : WorkQueue → WorkQueue) : State :=
  match s.queue? q with
  | some x => s.setQueue q (f x)
  | none => s

def State.task? (s : State) (k : Nat) : Option Task := tblFind s.tasks k
def State.setTask (s : State) (k : Nat) (x : Task) : State := { s with tasks := tblPut s.tasks k x }
def State.modTask (s : State) (k : Nat) (f : Task → Task) : State :=
  match s.task? k with
  | some x => s.setTask k (f x)
  | none => s

def State.ctx? (s : State) (c : Nat) : Option Context := tblFind s.ctxs c
def State.setCtx (s : State) (c : Nat) (x : Context) : State := { s with ctxs := tblPut s.ctxs c x }

def State.obj (s : State) (n : Nat) : Obj := tblGet {} s.flint.objs n

/-- A home's change of an object, and the mirror's copy of it where the object has a mirror (R326, R358). -/
def State.setObj (s : State) (n : Nat) (o : Obj) : State :=
  { s with flint := { s.flint with
      objs := tblPut s.flint.objs n o
      mirror := if setHas s.flint.unmirrored (n / 2048) then s.flint.mirror else tblPut s.flint.mirror n o } }

def State.vein? (s : State) (v : Nat) : Option Vein := tblFind s.strata.str.veins v

/-- A structure is in force (R20, R514). -/
def State.structured (s : State) : Bool := s.strata.inForce

/-- The block is UNSTRUCTURED, with R511's interfaces alone open. HALTED may be without a structure too, but is not UNSTRUCTURED
(R511, R514; DEDUCED, assumption 11). -/
def State.unstructured (s : State) : Bool := decide (s.blk.state = .unstructured)

/-! ## Codes of the fixed sets -/

/-- R514. -/
def BlkSt.code : BlkSt → Nat
  | .unstructured => 0 | .structured => 1 | .halted => 2 | .sleep => 3 | .orphaned => 4

/-- R527. -/
def OwnSt.code : OwnSt → Nat
  | .vacant => 0 | .held => 1 | .handover => 2 | .lapsed => 3

/-- R527. -/
def OwnKind.code : OwnKind → Nat
  | .none => 0 | .host => 1 | .sideband => 2 | .remote => 3

/-- The kind a register value names (R527). -/
def OwnKind.ofCode (n : Nat) : OwnKind :=
  if n = 1 then .host else if n = 2 then .sideband else if n = 3 then .remote else .none

/-- R386. -/
def Status.code : Status → Nat
  | .ok => 0x00 | .late => 0x01 | .poisonedOutput => 0x02 | .overflow => 0x03 | .underflow => 0x04 | .abandoned => 0x05
  | .peerLost => 0x06 | .authFailed => 0x07 | .xlatFault => 0x08 | .accessDenied => 0x09 | .watchdog => 0x0A
  | .unitTooLong => 0x0B | .domainDown => 0x0C | .hostLinkLost => 0x0D | .refusedP2p => 0x0E | .busy => 0x0F
  | .malformed => 0x10 | .aborted => 0x11

/-- The place of a status in the order of R387, 1 first. -/
def Status.rank : Status → Nat
  | .hostLinkLost => 1 | .domainDown => 2 | .malformed => 3 | .aborted => 4 | .authFailed => 5 | .peerLost => 6
  | .refusedP2p => 7 | .accessDenied => 8 | .xlatFault => 9 | .unitTooLong => 10 | .watchdog => 11 | .abandoned => 12
  | .poisonedOutput => 13 | .overflow => 14 | .underflow => 15 | .busy => 16 | .late => 17 | .ok => 18

/-- R188. -/
def Trap.code : Trap → Nat
  | .illegalInsn => 0x01 | .illegalFormat => 0x02 | .misaligned => 0x03 | .tileMemAccess => 0x04 | .stableWrite => 0x05
  | .segFault => 0x06 | .rights => 0x07 | .fetchHost => 0x08 | .xlat => 0x09 | .object => 0x0A | .notTagged => 0x0B
  | .csrAccess => 0x0C | .tmoveCount => 0x0D | .commitBufferFull => 0x0E | .unitTooLong => 0x0F | .carryTooLarge => 0x10
  | .watchdog => 0x11 | .abandoned => 0x12 | .peerLost => 0x13 | .trapInsn => 0x14 | .hostAtomic => 0x15

/-- The completion status of each trap cause (R188). -/
def Trap.status : Trap → Status
  | .illegalInsn | .illegalFormat | .misaligned | .csrAccess | .tmoveCount | .trapInsn => .malformed
  | .tileMemAccess | .stableWrite | .segFault | .rights | .fetchHost | .object | .notTagged | .hostAtomic => .accessDenied
  | .xlat => .xlatFault
  | .commitBufferFull | .unitTooLong | .carryTooLarge => .unitTooLong
  | .watchdog => .watchdog
  | .abandoned => .abandoned
  | .peerLost => .peerLost

/-- R504. -/
def LogClass.code : LogClass → Nat
  | .dramCe => 0x01 | .dramUe => 0x02 | .rowRepair => 0x03 | .bankReplace => 0x04 | .micaResidue => 0x05
  | .laneSwap => 0x08 | .laneRetrain => 0x09 | .linkDown => 0x0A | .tileFault => 0x10 | .tileRetire => 0x11
  | .tileSelftest => 0x12 | .tileMemError => 0x13 | .memorySide => 0x14 | .cacheParity => 0x18 | .qcEcc => 0x19
  | .waySpare => 0x1A | .ckptLost => 0x1B | .flintTakeover => 0x20 | .flintFault => 0x21 | .quartzTakeover => 0x22
  | .copyRetry => 0x23 | .pllSwap => 0x24 | .domainDown => 0x28 | .granuleRefused => 0x29 | .notInvalidated => 0x2A
  | .registerIgnored => 0x2B | .xlatFailure => 0x30 | .taskStopped => 0x31 | .deadline => 0x32 | .peer => 0x33
  | .capInfeasible => 0x34 | .spareExhausted => 0x35 | .adminHalt => 0x36 | .staleNoSpare => 0x37 | .feOverrun => 0x38
  | .flintSliceLost => 0x39 | .tileTrap => 0x3A | .queueHalted => 0x3B

/-- R503. -/
def Outc.code : Outc → Nat
  | .notice => 0 | .masked => 1 | .detected => 2 | .fatal => 3

/-- R503: the path number of a lane. -/
def linkCode : LinkPath → Nat
  | .tsv => 0 | .xp => 1 | .xm => 2 | .y => 3 | .io | .ioIn => 4 | .result => 5

/-- R503: UNIT of a lane entry. -/
def laneUnit (l : LaneRef) : Nat :=
  match l.path with
  | .result => 5 * 8192 + l.die % 16 * 512 + l.lane % 512
  | p => linkCode p * 8192 + l.lane % 8192

/-- The key of a lane in the block's tables: the two directions of an IO link have one UNIT and two keys. -/
def laneKey (l : LaneRef) : Nat :=
  match l.path with
  | .ioIn => 6 * 8192 + l.lane % 8192
  | _ => laneUnit l

/-- The source word of a log entry: the requester as a number. The spec gives no layout for a requester (R504), so the
model numbers tiles 0–415, and other sources from 512 (assumption 6). -/
def Src.code : Src → Nat
  | .tile t => t
  | .copy _ => 512
  | .mica _ => 513
  | .sequencer _ | .veinSeq _ => 514
  | .hostPort => 515
  | .hostMem => 416
  | .fabric _ => 516
  | .flintHome _ => 517
  | .quartz => 518

/-! ## Interrupt messages (R408, R412 to R414) -/

/-- A message on a block vector. -/
def State.sendVector (s : State) (v : Nat) : State :=
  if s.host.msixEn then
    let e := tblGet {} s.host.msix v
    if s.host.functionMask || e.masked || !s.host.bme || !s.host.linkUp then
      { s with host := { s.host with pba := setIns s.host.pba v } }
    else s.awake.emit (.msix v e.addr e.data)
  else if s.host.msiEn then
    let n := v % 2 ^ s.host.msiLog2
    if s.host.msiMask.getLsbD n || !s.host.bme || !s.host.linkUp then
      { s with host := { s.host with msiPending := setIns s.host.msiPending n } }
    else s.awake.emit (.msi s.host.msiAddr.toNat (s.host.msiData.toNat / 2 ^ s.host.msiLog2 * 2 ^ s.host.msiLog2 + n))
  else s

/-! ## The fault log (R501 to R506) -/

/-- The newest entry that an event folds into (R505): same class, quarry and unit. -/
def foldTarget (log : List LogEntry) (cls : LogClass) (quarry unit : Nat) : Option LogEntry :=
  log.reverse.find? (fun e => decide (e.cls = cls) && e.quarry == quarry && e.unit == unit)

/-- Whether an event folds into an entry (R505). -/
def folds (e : LogEntry) (cls : LogClass) (out : Outc) (now : Nat) : Bool :=
  (decide (out = .notice) || decide (out = .masked)) && decide (e.outcome = out) && decide (now < e.time + msTicks)
    && !(decide (cls = .tileTrap) || decide (cls = .feOverrun))

/-- The counts of R502 after a new entry. -/
def countOutcome (f : Faults) : Outc → Faults
  | .notice => { f with notices := satAdd 16 f.notices 1 }
  | .masked => { f with maskeds := satAdd 16 f.maskeds 1 }
  | .detected | .fatal => { f with detecteds := satAdd 16 f.detecteds 1 }

/-- A new entry in the ring of 4,096; the oldest is overwritten when it is full (R501, R505). -/
def ringAdd (f : Faults) (e : LogEntry) : Faults :=
  if f.log.length < 4096 then { f with log := f.log ++ [e], newest := e.seq }
  else
    let lost := match f.log with
      | o :: _ => if f.readUpTo < o.seq then satAdd 16 f.overwritten 1 else f.overwritten
      | [] => f.overwritten
    { f with log := f.log.drop 1 ++ [e], newest := e.seq, overwritten := lost }

/-- AER reporting of a log entry (R421, R506): Corrected Internal Error is bit 14, Uncorrectable Internal Error bit 22
of the PCIe AER status words (PRESUMED, assumption 7). -/
def aerReport (h : HostEndpoint) (out : Outc) (seq : Nat) : HostEndpoint :=
  match out with
  | .notice => h
  | .masked => { h with aerCorrectable := setIns h.aerCorrectable 14 }
  | .detected | .fatal =>
    { h with
      aerUncorrectable := setIns h.aerUncorrectable 22, aerHeader := if h.aerHeader.isNone then some ⟨22, seq⟩ else h.aerHeader
      aerSevere := if decide (out = .fatal) then setIns h.aerSevere 22 else h.aerSevere }

/-- The vein that an entry names (R503): the one given, else that of its context (DEDUCED, assumption 10). -/
def State.entryVein (s : State) (vein context : Nat) : Nat :=
  if vein = 0xFF then match s.ctx? context with
    | some x => x.vein
    | none => 0xFF
  else vein

/-- One event is written to the fault log, or folded into the newest matching entry (R503 to R506). -/
def State.log (s : State) (cls : LogClass) (out : Outc) (quarry vein unit context intr d0 d1 : Nat) : State :=
  match (foldTarget s.flt.log cls quarry unit).filter (fun e => folds e cls out s.now) with
  | some e =>
    { s with flt := { s.flt with
        log := s.flt.log.map (fun x => if x.seq = e.seq then { x with count := satAdd 32 x.count 1 } else x) } }
  | none =>
    let seq := s.flt.newest + 1
    let e : LogEntry := ⟨seq, s.now, cls, out, quarry, s.entryVein vein context, unit, context, intr, 1, d0 % 2 ^ 64, d1 % 2 ^ 64⟩
    let f := countOutcome (ringAdd s.flt e) out
    let isSpare := decide (cls = .spareExhausted)
    let due := decide (f.level ≤ out.code)
    let f := if due && !isSpare then { f with due := f.due ++ [seq] } else f
    let s := { s with flt := f, host := aerReport s.host out seq }
    if isSpare && f.enable then ({ s with flt := { s.flt with lastMsg := some s.now } }).sendVector f.vector else s

/-- The number of the entry that an event just logged stands in, its own or the one that it was folded into; 0 where there is none
(R370, R505). -/
def State.entrySeq (s : State) (cls : LogClass) (quarry unit : Nat) : Nat := ((foldTarget s.flt.log cls quarry unit).map (·.seq)).getD 0

/-- A block-wide quarry or a vein or context that an entry does not name (R503). -/
def noQuarry : Nat := 0xFF
def noVein : Nat := 0xFF
def noCtx : Nat := 0xFFFF

/-- The context number of an entry. -/
def ctxNo : Option Nat → Nat
  | some c => c
  | none => noCtx

/-- A log entry that names only a class, outcome, unit and details. -/
def State.logBlock (s : State) (cls : LogClass) (out : Outc) (unit d0 d1 : Nat) : State :=
  s.log cls out noQuarry noVein unit noCtx 0 d0 d1

/-- The last of a kind of spare has been taken: entry, sideband notice (R495). `kind` is the row of R490 from 0. -/
def State.spareExhausted (s : State) (kind quarry left : Nat) : State :=
  (s.log .spareExhausted .notice quarry noVein kind noCtx 0 left 0).emit (.spareNotice kind quarry)

/-- A bit of FLT_CAPACITY [16:9] set (R502). -/
def State.capacityBit (s : State) (b : Nat) : State :=
  { s with flt := { s.flt with capacity := setIns s.flt.capacity b } }

/-- A state change of the block, with its sideband EVENT (R515, R517): kind 2 of `Sent.event`. -/
def State.setBlk (s : State) (b : BlkSt) : State :=
  if s.blk.state = b then s
  else ({ s with blk := { s.blk with state := b } }).emit (.event 2 b.code)

/-! ## Tasks and their faults (R38, R39, R370, R387) -/

/-- A fault detail without a tile. -/
def mkDetail (cause : Nat) (address : Option Nat) (count logSeq : Nat) : Detail :=
  ⟨cause, none, none, address, count, logSeq⟩

/-- A fault joins a task (R39, R387). -/
def State.taskFault (s : State) (k : Nat) (st : Status) (d : Detail) : State :=
  s.modTask k (fun x => { x with faults := x.faults ++ [(st, d)] })

/-- A fault joins a task where there is one. -/
def State.taskFault? (s : State) (k : Option Nat) (st : Status) (d : Detail) : State :=
  match k with
  | some k => s.taskFault k st d
  | none => s

/-- The queue number of a TASK_STOPPED entry (R504). -/
def queueNo : Option Nat → Nat
  | some q => q
  | none => 0xFFFF

/-- Whether one fault of a task comes before another (R387): first by status, then, among traps of one status, the lowest
vein-relative logical id. -/
def faultBefore (a b : Status × Detail) : Bool :=
  if a.1.rank = b.1.rank then
    match a.2.logical, b.2.logical with
    | some i, some j => decide (i < j)
    | _, _ => false
  else decide (a.1.rank < b.1.rank)

/-- The fault that gives STATUS, if any (R387). -/
def firstFault : List (Status × Detail) → Option (Status × Detail)
  | [] => none
  | f :: fs =>
    match firstFault fs with
    | none => some f
    | some g => if faultBefore g f then some g else some f

/-- The status of a task: its first fault, or LATE or OK (R386, R387). -/
def Task.status (x : Task) : Status :=
  match firstFault x.faults with
  | some (st, _) => if decide (st = .ok) && x.late then .late else st
  | none => if x.late then .late else .ok

/-- A fault that carries no detail (R382): cause 0 names none. -/
def noDetail : Detail := mkDetail 0 none 0 0

/-- The detail that goes into the completion (R370): that of the fault that gave STATUS. -/
def Task.detail (x : Task) : Option Detail := ((firstFault x.faults).map (·.2)).filter (fun d => d.cause != 0)

/-- The task becomes due for completion (R38, R323): the ticks are taken here (R369). A task ends only once every write of
it is globally observed, which `State.settle` checks. -/
def Task.toDue (x : Task) (now : Nat) : Task := { x with phase := .due, ticks := now - x.start }

/-- An entry, detected, for a task that stopped (R504). -/
def State.logStopped (s : State) (x : Task) (st : Status) : State :=
  s.log .taskStopped .detected noQuarry x.vein (queueNo x.queue) x.context 0 x.index st.code

/-- The bytes of a response with poison: all of it, or word by word (R121, R434). -/
def Rsp.flagged (r : Rsp) : List (Byte × Bool) :=
  r.data.zipIdx.map (fun b => (b.1, if r.marks.isEmpty then r.poisoned else nth false r.marks ((r.skew + b.2) / 8)))

/-! ## Times -/

/-- Whether `n` ticks have passed since tick `since`. -/
def State.passed (s : State) (since n : Nat) : Bool := decide (since + n ≤ s.now)

end Sys2Proof.Machine
end

