-- ==== Sys2Proof/Machine/Memory.lean ====
section
/-! DEFINITION. Device memory, its tags, the directory and the caches' data: where a byte is stored (R249, R241), owner
tags (R258, R259), P and F bits (R252, R253), what a read at the home returns (R308, R310), and what a write at the home
does to every cached copy (R308, R229, R302). -/

namespace Sys2Proof.Machine

/-! ## Placement of a byte (R248 to R250) -/

/-- Granule of a LOCAL address. -/
def granOf (a : Nat) : Nat := a / 2 ^ 21

/-- 128 B sector and 512 B block of a LOCAL address (R306). -/
def sectorOf (a : Nat) : Nat := a / 128
def blockOf (a : Nat) : Nat := a / 512
def blocksOf (a n : Nat) : List Nat := (List.range ((a + n - 1) / 512 + 1 - a / 512)).map (· + a / 512)

/-- A quarry that is there: its base die passed boot training (R41, R44), and the structure in force enables it (R54). -/
def State.present (s : State) (q : Nat) : Bool := (s.quarry q).present && (!s.strata.inForce || bit s.strata.str.quarries q)

/-- The vein whose granule table names a granule (R59). -/
def Structure.granVein (x : Structure) (g : Nat) : Option (Nat × GranRange) :=
  x.veins.findSome? (fun e =>
    (e.2.ranges.find? (fun r => decide (r.first ≤ g) && decide (g < r.first + r.count))).map (fun r => (e.1, r)))

/-- A granule of an absent stack does not exist, so no vein has it (R42). -/
def State.granVein (s : State) (g : Nat) : Option (Nat × GranRange) :=
  if s.present (g % 8) then s.strata.str.granVein g else none

/-- The vein that a log entry about a LOCAL address names (R503): the one that holds its granule (DEDUCED, assumption 10). -/
def State.addrVein (s : State) (a : Nat) : Nat :=
  match s.granVein (granOf a) with
  | some x => x.1
  | none => 0xFF

/-- Interleave of a granule's group (R250, R59, R42): striped where veins name the whole group so, or no vein names any of it; with
an absent quarry every group is local. -/
def Structure.striped (x : Structure) (up : Nat → Bool) (g : Nat) : Bool :=
  let group := (List.range 8).map (fun i => x.granVein (g / 8 * 8 + i))
  (List.range 8).all up && (group.all (·.isNone) || group.all (fun r => match r with
    | some (_, r) => r.striped
    | none => false))

def State.striped (s : State) (g : Nat) : Bool := s.strata.str.striped s.present g

/-- The stack that holds a byte, and the byte's offset within it (R249). -/
def State.stackOf (s : State) (a : Nat) : Nat :=
  if s.striped (granOf a) then bits a 12 3 else bits a 21 3
def State.stackOffset (s : State) (a : Nat) : Nat :=
  if s.striped (granOf a) then bits a 24 16 * 2 ^ 21 + bits a 15 9 * 4096 + bits a 0 12
  else bits a 24 16 * 2 ^ 21 + bits a 0 21

/-- Slice and set of the quarry cache (R241). -/
def sliceOf (off : Nat) : Nat := bits off 7 6 ^^^ bits off 13 6 ^^^ bits off 19 6 ^^^ bits off 25 6 ^^^ bits off 31 6
def qcSetOf (off : Nat) : Nat := bits off 13 27 % 768

/-- Home slice and set of a 512 B block in the directory (R305, R306), as one key with the quarry. -/
def State.dirKey (s : State) (a : Nat) : Nat × Nat × Nat :=
  let off := s.stackOffset (a / 512 * 512)
  (s.stackOf a, sliceOf off, bits off 9 8)

/-- A granule exists: its stack is present (R42). -/
def State.granExists (s : State) (g : Nat) : Bool := decide (g < 2 ^ 19) && s.present (g % 8)

/-! ## Owner tags (R258, R259) -/

def State.tagOf (s : State) (g : Nat) : BitVec 16 := tblGet 0 s.mem.tags g

/-- A request that carries context `c` passes a granule; a request that carries none is not checked (R259). -/
def State.tagPass (s : State) (c : Option Nat) (g : Nat) : Bool :=
  match c with
  | none => true
  | some c => s.tagOf g == 0xFFFF#16 || s.tagOf g == BitVec.ofNat 16 (0x8000 + c)

/-- Every granule that a range of bytes reaches passes. -/
def State.rangePass (s : State) (c : Option Nat) (a n : Nat) : Bool :=
  (List.range (granOf (a + n - 1) + 1 - granOf a)).all (fun i => s.tagPass c (granOf a + i))

/-! ## Words (R252) -/

/-- The 64-bit words that `n` bytes from `a` touch. -/
def wordsOf (a n : Nat) : List Nat :=
  if n = 0 then [] else (List.range ((a + n - 1) / 8 + 1 - a / 8)).map (· + a / 8)

/-- P bits after a write (R252, R121): poisoned data sets the bit; clean data clears it where it covers all 8 bytes. -/
def poisonAfter (p : NSet) (a n : Nat) (poisoned : Bool) : NSet :=
  (wordsOf a n).foldl (fun p w =>
    if poisoned then setIns p w
    else if decide (a ≤ 8 * w) && decide (8 * w + 8 ≤ a + n) then setDel p w else p) p

/-- Whether any word of a range has its P bit set. -/
def anyPoison (p : NSet) (a n : Nat) : Bool := (wordsOf a n).any (fun w => setHas p w)

/-- Bytes written to device memory with their P bits. -/
def DevMem.store (m : DevMem) (a : Nat) (bs : List Byte) (poisoned : Bool) : DevMem :=
  { m with bytes := memWrite m.bytes a bs, poison := poisonAfter m.poison a bs.length poisoned }

/-! ## Tile data caches as holders (R223 to R233) -/

/-- Compatibility layout: DCACHE bit 2 (R58). The line size of a tile's cache (R223). -/
def State.lineSize (s : State) (t : Nat) : Nat :=
  match s.vein? (s.tile t).vein with
  | some v => if bit v.dcache 2 then 64 else 128
  | none => 128

/-- The line of a tile's cache that holds an address of a space, if it is present. -/
def Tile.lineAt (x : Tile) (size : Nat) (host : Bool) (a : Nat) : Option CacheLine :=
  x.dcache.find? (fun l => l.host == host && l.line == a / size)

/-- Lines of a sector leave a tile's cache. -/
def Tile.dropSector (x : Tile) (size : Nat) (host : Bool) (sector : Nat) : Tile :=
  { x with dcache := x.dcache.filter (fun l => !(l.host == host && l.line * size / 128 == sector)) }

/-- The lines of a sector stay as clean copies. -/
def Tile.cleanSector (x : Tile) (size : Nat) (sector : Nat) : Tile :=
  { x with dcache := x.dcache.map (fun l =>
      if !l.host && l.line * size / 128 == sector then { l with dirty := false } else l) }

/-- The cached bytes of present lines take a write's bytes (R229): the memory side updates them; `dirty` marks a
write-back store (R228). -/
def Tile.updateLines (x : Tile) (size : Nat) (host : Bool) (a : Nat) (bs : List Byte) (poisoned dirty : Bool) : Tile :=
  { x with dcache := x.dcache.map (fun l =>
      if l.host == host && decide (l.line * size < a + bs.length) && decide (a < (l.line + 1) * size) then
        let lo := Nat.max a (l.line * size)
        let hi := Nat.min (a + bs.length) ((l.line + 1) * size)
        let part := (bs.drop (lo - a)).take (hi - lo)
        { l with
          bytes := memWrite l.bytes (lo - l.line * size) part
          poison := poisonAfter l.poison (lo - l.line * size) part.length poisoned
          dirty := l.dirty || dirty }
      else l) }

/-! ## The directory (R305 to R308) -/

def State.dirEntry (s : State) (a : Nat) : DirEntry := tblGet {} s.homes.dir (blockOf a)

/-- State of a sector. -/
def State.sectSt (s : State) (sector : Nat) : SectSt := nth .i (s.dirEntry (sector * 128)).sectors (sector % 4)

def DirEntry.setSector (e : DirEntry) (i : Nat) (st : SectSt) : DirEntry := { e with sectors := setNth e.sectors i st }

/-- An entry is kept while a sector is held or a presence bit is set. -/
def DirEntry.live (e : DirEntry) : Bool := !e.presence.isEmpty || e.sectors.any (fun x => decide (x ≠ .i))

def State.putDir (s : State) (block : Nat) (e : DirEntry) : State :=
  { s with homes := { s.homes with
      dir := if e.live then tblPut s.homes.dir block e else tblDel s.homes.dir block } }

/-- The tile that owns a sector in M, if a tile does. -/
def State.tileOwner (s : State) (sector : Nat) : Option Nat :=
  match s.sectSt sector with
  | .m o => if o < 416 then some o else none
  | _ => none

/-- The host owns a sector in M (R314). -/
def State.hostOwns (s : State) (sector : Nat) : Bool := decide (s.sectSt sector = .m 416)

/-- The sectors of a range. -/
def sectorsOf (a n : Nat) : List Nat :=
  if n = 0 then [] else (List.range (sectorOf (a + n - 1) + 1 - sectorOf a)).map (· + sectorOf a)

/-- A sector's write-back on its way to the home, not yet applied there (R312): the packet's number, bytes and P bits by offset. -/
def State.wayBack (s : State) (sector : Nat) : Option (Nat × Mem × NSet) :=
  s.pkts.findSome? (fun e => match e.2.req with
    | .writeBack x bs p => if x = sector ∧ e.2.begun = false then some (e.1, bs, p) else none
    | _ => none)

/-- A byte, and a word's P bit, of an owned sector that its owner holds dirty no more: those of a write-back on its way, else memory's. -/
def State.homeByte (s : State) (a : Nat) : Byte :=
  match s.wayBack (sectorOf a) with
  | some w => memGet w.2.1 (a % 128)
  | none => memGet s.mem.bytes a
def State.homePoison (s : State) (w : Nat) : Bool :=
  match s.wayBack (sectorOf (8 * w)) with
  | some b => setHas b.2.2 (w % 16)
  | none => setHas s.mem.poison w

/-- Latest value of a byte of device memory: the owner's where a tile holds its sector in M, else the home's (R310). -/
def State.latestByte (s : State) (a : Nat) : Byte :=
  match s.tileOwner (sectorOf a) with
  | some t =>
    let size := s.lineSize t
    match (s.tile t).lineAt size false a with
    | some l => if l.dirty then memGet l.bytes (a % size) else s.homeByte a
    | none => s.homeByte a
  | none => memGet s.mem.bytes a

/-- Latest P bit of a word (R252). -/
def State.latestPoison (s : State) (w : Nat) : Bool :=
  match s.tileOwner (sectorOf (8 * w)) with
  | some t =>
    let size := s.lineSize t
    match (s.tile t).lineAt size false (8 * w) with
    | some l => if l.dirty then setHas l.poison (8 * w % size / 8) else s.homePoison w
    | none => s.homePoison w
  | none => setHas s.mem.poison w

/-- The bytes of a non-allocating snoop read (R310). -/
def State.readLatest (s : State) (a n : Nat) : List Byte := (List.range n).map (fun i => s.latestByte (a + i))

/-- Whether any word that a read covers is poisoned. -/
def State.readPoison (s : State) (a n : Nat) : Bool := (wordsOf a n).any (fun w => s.latestPoison w)

/-- 128 bytes and their P bits applied to a sector of device memory. -/
def DevMem.putSector (m : DevMem) (sector : Nat) (bs : Mem) (p : NSet) : DevMem :=
  { m with
    bytes := memWrite m.bytes (128 * sector) (memRead bs 0 128)
    poison := (List.range 16).foldl (fun q i => setPut q (16 * sector + i) (setHas p i)) m.poison }

/-- The 64 B granules of a range. -/
def granules64 (a n : Nat) : List Nat := (List.range ((a + n - 1) / 64 + 1 - a / 64)).map (· + a / 64)

/-- Another tile's progress lock holds a granule of a range: a write of `who` waits at the home (R303). -/
def State.lockedFor (s : State) (who : Option Nat) (a n : Nat) : Bool :=
  s.homes.locks.any (fun l => (granules64 a n).contains l.1 && decide (who ≠ some l.2.1))

/-- The tile's reservation on a granule is under its progress lock (R303). -/
def State.lockHolds (s : State) (tile granule : Nat) : Bool := s.homes.locks.any (fun l => l.1 == granule && l.2.1 == tile)

/-- Tile reservations on the granules of a range break, but for one tile's, and for those under a progress lock, whose `sc` is to
succeed (R169, R302, R303). -/
def State.breakReservations (s : State) (a n : Nat) (keep : Option Nat) : State :=
  let hit (r : Resv) : Bool := (granules64 a n).contains r.granule && decide (keep ≠ some r.tile) && !s.lockHolds r.tile r.granule
  let gone := s.homes.resv.filter hit
  let s := { s with homes := { s.homes with resv := s.homes.resv.filter (fun r => !hit r) } }
  gone.foldl (fun s r => s.modTile r.tile (fun x =>
    match x.reservation with
    | some (false, g) => if g / 64 = r.granule then { x with reservation := none } else x
    | _ => x)) s

/-! ## The quarry cache (R241 to R247) -/

/-- A segment of this block reaches a granule (R265). -/
def Segment.reaches (x : Segment) (g : Nat) : Bool :=
  let g0 := granOf x.plocal
  decide (g0 ≤ g) && (if x.step8 then g % 8 == g0 % 8 && decide (g < g0 + 8 * x.gran) else decide (g < g0 + x.gran))

/-- Some context maps a granule as Mica-resident (R199, R264). -/
def State.micaGran (s : State) (g : Nat) : Bool := s.ctxs.any (fun c => c.2.segs.any (fun e => e.2.mica && e.2.reaches g))

/-- The segment through which a context reaches an address of this block. -/
def State.segAt (s : State) (c a : Nat) : Option Segment :=
  match tblFind s.ctxs c with
  | some x => (x.segs.find? (fun e => decide (e.2.device = s.fab.self) && e.2.reaches (granOf a))).map (·.2)
  | none => none

/-- How a use of the quarry cache allocates (R242, R243): for which vein, at the least-recently-used position, and as a write. -/
structure QcUse where
  vein : Nat := noVein
  stream : Bool := false
  dirty : Bool := false
deriving DecidableEq, Repr

/-- The use that an access of a context makes; none where its segment is of the Device type (R242). -/
def State.qcUseOf (s : State) (vein : Nat) (c : Option Nat) (a : Nat) (dirty : Bool) : Option QcUse :=
  match c.bind (fun c => s.segAt c a) with
  | some g => if g.isDevice then none else some ⟨vein, g.policy == 2, dirty⟩
  | none => some ⟨vein, false, dirty⟩

/-- What a way of a set is for (R243, R490). -/
inductive QcWay where
  | shared | reserved (vein : Nat) | pinned | disabled
deriving DecidableEq, Repr

/-- Places of one way: 768 sets in each of 64 slices (R241). -/
def wayPlaces : Nat := 49152

/-- Checkpoint storage holds a place of a quarry (R243). -/
def State.qcPinned (s : State) (q place : Nat) : Bool :=
  s.qc.pins.any (fun e => (match tblFind s.strata.str.tileMap e.1 with
    | some t => quarryOf t == q
    | none => false) && e.2.any (fun x => decide (x.1 ≤ place) && decide (place < x.1 + x.2)))

/-- The division as it was built at the last load: ways of the reserved half that no vein and no checkpoint holds are shared (R243). -/
def State.qcBuilt (s : State) (q slice set way : Nat) : QcWay :=
  if way < 8 then .shared
  else match tblFind s.qc.resv (q * 16 + way) with
    | some v => .reserved v
    | none => if s.qcPinned q ((15 - way) * wayPlaces + set * 64 + slice) then .pinned else .shared

/-- A way of a set: one that is disabled in its slice gives its pinned line a shared way, the lowest (R490). -/
def State.qcWay (s : State) (q slice set way : Nat) : QcWay :=
  let off (w : Nat) : Bool := setHas s.qc.lost ((q * 64 + slice) * 32 + w)
  if off way then .disabled
  else match s.qcBuilt q slice set way with
    | .shared =>
      let moved := ((List.range 16).filter (fun w => off w && decide (s.qcBuilt q slice set w = .pinned))).length
      let free := (List.range 16).filter (fun w => !off w && decide (s.qcBuilt q slice set w = .shared))
      if (free.take moved).contains way then .pinned else .shared
    | w => w

/-- Quarry, slice and set of a line (R241). -/
def State.qcPlace (s : State) (l : Nat) : Nat × Nat × Nat :=
  let off := s.stackOffset (l * 128)
  (s.stackOf (l * 128), sliceOf off, qcSetOf off)

/-- The ways that a request of a vein may allocate (R243). -/
def State.qcWaysFor (s : State) (k : Nat × Nat × Nat) (vein : Nat) : List Nat :=
  (List.range 16).filter (fun w => match s.qcWay k.1 k.2.1 k.2.2 w with
    | .shared => true
    | .reserved v => v == vein
    | _ => false)

/-- The least recently used of some lines. -/
def qcOldest (ls : List (Nat × QcLine)) : Option (Nat × QcLine) :=
  ls.foldl (fun (b : Option (Nat × QcLine)) e =>
    match b with
    | none => some e
    | some x => if e.2.stamp < x.2.stamp then some e else some x) none

/-- A line is used, or enters a way of its set: an empty one, else that of the least recently used line that the vein may displace,
whose data is already the home's. A line of a Mica-resident segment never stays dirty (R210, R242, R243). -/
def State.qcLine (s : State) (u : QcUse) (l : Nat) : State :=
  let k := s.qcPlace l
  if !(tblGet ({} : CacheCtl) s.qc.ctl k.1).enabled then s
  else
    let dirty := u.dirty && !s.micaGran (granOf (l * 128))
    let put (s : State) (x : QcLine) : State := { s with qc := { s.qc with lines := tblPut s.qc.lines l x } }
    match tblFind s.qc.lines l with
    | some x => (put s { x with dirty := x.dirty || dirty, stamp := if u.stream then x.stamp else Int.ofNat s.nextId }).bump
    | none =>
      let peers := s.qc.lines.filter (fun e => decide (s.qcPlace e.1 = k))
      let ways := s.qcWaysFor k u.vein
      let low := peers.foldl (fun (n : Int) e => if e.2.stamp ≤ n then e.2.stamp - 1 else n) (Int.ofNat s.nextId)
      let stamp : Int := if u.stream then low else Int.ofNat s.nextId
      match ways.filter (fun w => peers.all (fun e => e.2.way != w)) with
      | [] =>
        match qcOldest (peers.filter (fun e => ways.contains e.2.way)) with
        | some v => (put { s with qc := { s.qc with lines := tblDel s.qc.lines v.1 } } ⟨dirty, stamp, v.2.way⟩).bump
        | none => s
      | w :: ws => (put s ⟨dirty, stamp, nth w (w :: ws) (s.openNat % (ws.length + 1))⟩).used.bump

/-- Lines of a range enter the quarry cache or are used again. -/
def State.qcTouch (s : State) (u : Option QcUse) (a n : Nat) : State :=
  match u with
  | some u => (sectorsOf a n).foldl (fun s l => s.qcLine u l) s
  | none => s

/-- A clean offer or a write-back has a way that its vein may take (R245). -/
def State.qcRoom (s : State) (vein l : Nat) : Bool :=
  (tblFind s.qc.lines l).isSome || !(s.qcWaysFor (s.qcPlace l) vein).isEmpty

/-- The number of the slice of a line. -/
def State.qcSlice (s : State) (l : Nat) : Nat := (s.qcPlace l).1 * 64 + (s.qcPlace l).2.1

/-- The insertion queue of a slice inserts its oldest entries, as many as the block has got to (R245). -/
def State.qcInsert (s : State) (slice : Nat) : State :=
  let q := tblGet [] s.qc.queue slice
  let n := s.openNat % (q.length + 1)
  let s := (q.take n).foldl (fun s e => s.qcLine ⟨e.2, false, true⟩ e.1) s
  { s.used with qc := { s.used.qc with queue := if (q.drop n).isEmpty then tblDel s.qc.queue slice else tblPut s.qc.queue slice (q.drop n) } }

/-- Occupied entries of a slice's insertion queue of 32 (R245). -/
def State.qcQueued (s : State) (slice : Nat) : Nat := (tblGet [] s.qc.queue slice).length

/-- A dirty write-back enters the insertion queue. -/
def State.qcEnqueue (s : State) (vein l : Nat) : State :=
  let k := s.qcSlice l
  { s with qc := { s.qc with queue := tblPut s.qc.queue k (tblGet [] s.qc.queue k ++ [(l, vein)]) } }

/-- A write-back that is part of a flush enters the slice's insertion queue; while that is full it waits on ORD for the oldest entry to be
inserted (R245). -/
def State.qcAccept (s : State) (vein l : Nat) : State :=
  let k := s.qcSlice l
  match tblGet [] s.qc.queue k with
  | e :: q =>
    if q.length + 1 < 32 then s.qcEnqueue vein l
    else ({ s with qc := { s.qc with queue := tblPut s.qc.queue k q } }.qcLine ⟨e.2, false, true⟩ e.1).qcEnqueue vein l
  | [] => s.qcEnqueue vein l

/-- Lines of a range leave the quarry cache. -/
def State.qcDrop (s : State) (a n : Nat) : State :=
  { s with qc := { s.qc with lines := s.qc.lines.filter (fun e => !((sectorsOf a n).contains e.1)) } }

/-- Dirty lines of a range are written to DRAM and stay clean (R379). -/
def State.qcClean (s : State) (a n : Nat) : State :=
  { s with qc := { s.qc with lines := s.qc.lines.map (fun e =>
      if (sectorsOf a n).contains e.1 then (e.1, { e.2 with dirty := false }) else e) } }

/-- The logical tiles of a vein that a structure maps in a quarry. -/
def Structure.tilesHere (x : Structure) (v : Vein) (q : Nat) : List Nat :=
  (x.tileMap.filter (fun e => decide (v.tileFirst ≤ e.1) && decide (e.1 < v.tileFirst + v.tileCount) && quarryOf e.2 == q)).map (·.1)

/-- Extents of a run that other extents do not hold, from place `p` on. -/
def freePlaces (busy : List (Nat × Nat)) : Nat → Nat → Nat → List (Nat × Nat)
  | 0, _, _ => []
  | _, _, 0 => []
  | fuel + 1, p, n =>
    if 8 * wayPlaces ≤ p then []
    else match busy.find? (fun x => decide (x.1 ≤ p) && decide (p < x.1 + x.2)) with
      | some x => freePlaces busy fuel (x.1 + x.2) n
      | none =>
        let stop := (busy.filter (fun x => decide (p < x.1))).foldl (fun m x => Nat.min m x.1) (8 * wayPlaces)
        let k := Nat.min n (stop - p)
        (p, k) :: freePlaces busy fuel (p + k) (n - k)

/-- What the reserved half of a quarry already holds, as extents of places: reserved ways and checkpoint storage. -/
def State.qcHeld (s : State) (q : Nat) : List (Nat × Nat) :=
  (s.qc.resv.filter (fun e => e.1 / 16 == q)).map (fun e => ((15 - e.1 % 16) * wayPlaces, wayPlaces)) ++
    (s.qc.pins.filter (fun e => (tblFind s.strata.str.tileMap e.1).map quarryOf == some q)).flatMap (·.2)

/-- Whole ways of the reserved half that nothing holds, from way 8 upward. -/
def State.qcFreeWays (s : State) (q : Nat) : List Nat :=
  ((List.range 8).map (· + 8)).filter (fun w => (s.qcHeld q).all (fun x =>
    decide (x.1 + x.2 ≤ (15 - w) * wayPlaces) || decide ((16 - w) * wayPlaces ≤ x.1)))

/-- QC_WAYS of some veins are reserved in a quarry, in ascending vein id (R243). -/
def State.reserveWays (s : State) (q : Nat) (vs : Tbl Vein) : State :=
  vs.foldl (fun s e =>
    if (s.strata.str.tilesHere e.2 q).isEmpty then s
    else ((s.qcFreeWays q).take e.2.qcWays).foldl (fun s w =>
      { s with qc := { s.qc with resv := tblPut s.qc.resv (q * 16 + w) e.1 } }) s) s

/-- The checkpoint storage of the tiles of some veins is placed in a quarry, from way 15 downward: CKPT_UNITS of 16 KiB a tile
(R60, R243). -/
def State.placeCkpts (s : State) (q : Nat) (vs : Tbl Vein) : State :=
  vs.foldl (fun s e => (s.strata.str.tilesHere e.2 q).foldl (fun s l =>
    let busy := s.qcHeld q
    let xs := freePlaces busy (2 * busy.length + 2) 0 (e.2.ckptUnits * 128)
    if xs.isEmpty then s else { s with qc := { s.qc with pins := tblPut s.qc.pins l xs } }) s) s

/-- The division of the reserved half is built again, for every vein or for one (R247). -/
def State.divideWays (s : State) (only : Option Nat) : State :=
  let mine (v : Nat) : Bool := match only with
    | some w => v == w
    | none => true
  let vs := s.strata.str.veins.filter (fun e => mine e.1)
  let kept (l : Nat) : Bool := only.isSome && s.strata.str.veins.any (fun e => !mine e.1 && decide (e.2.tileFirst ≤ l) &&
    decide (l < e.2.tileFirst + e.2.tileCount))
  let s := { s with qc := { s.qc with
    resv := s.qc.resv.filter (fun e => only.isSome && !mine e.2)
    pins := s.qc.pins.filter (fun e => kept e.1) } }
  (List.range 8).foldl (fun s q => (s.reserveWays q vs).placeCkpts q vs) s

/-- Lines in ways whose role has changed leave, their dirty data written back: it is already the homes'. At a partial load the dirty lines
of the changing vein in the reserved ways that it keeps are written back too (R247). -/
def State.leaveWays (s : State) (before : State) (only : Option Nat) : State :=
  let was (e : Nat × QcLine) : QcWay :=
    let k := before.qcPlace e.1
    before.qcWay k.1 k.2.1 k.2.2 e.2.way
  let stays (e : Nat × QcLine) : Bool :=
    let k := before.qcPlace e.1
    decide (s.qcWay k.1 k.2.1 k.2.2 e.2.way = was e)
  let mine (e : Nat × QcLine) : Bool := only.any (fun v => decide (was e = .reserved v))
  { s with qc := { s.qc with lines := (s.qc.lines.filter stays).map (fun e =>
      if mine e then (e.1, { e.2 with dirty := false }) else e) } }

/-! ## Copies of a sector leave or change (R308) -/

/-- A write-back on its way is applied; its packet then only awaits its acknowledgement (R308, R312). -/
def State.landBack (s : State) (sector : Nat) : State :=
  match s.wayBack sector with
  | some w => { s.breakReservations (128 * sector) 128 (s.tileOwner sector) with
      mem := s.mem.putSector sector w.2.1 w.2.2
      pkts := s.pkts.map (fun e => if e.1 = w.1 then (e.1, { e.2 with begun := true }) else e) }
  | none => s

/-- A tile's dirty lines of a sector, and its write-back on its way, are applied at the home; the lines stay clean (R230, R308). `flush`: they
come as a write-back, by the insertion queue (R245). -/
def State.writeBackSector (s : State) (t sector : Nat) (flush : Bool := false) : State :=
  let s := s.landBack sector
  let size := s.lineSize t
  let dirty := (s.tile t).dcache.filter (fun l => !l.host && l.dirty && l.line * size / 128 == sector)
  let m := dirty.foldl (fun (m : DevMem) l =>
    let a := l.line * size
    let m := { m with bytes := memWrite m.bytes a (memRead l.bytes 0 size) }
    { m with poison := (List.range (size / 8)).foldl (fun p i => setPut p (a / 8 + i) (setHas l.poison i)) m.poison }) s.mem
  let s := if dirty.isEmpty then s
    else
      let s := s.breakReservations (128 * sector) 128 (some t)
      if flush then s.qcAccept (s.tile t).vein sector else s.qcTouch (some ⟨(s.tile t).vein, false, true⟩) (128 * sector) 128
  let s := { s with mem := m }
  s.modTile t (fun x => x.cleanSector size sector)

/-- A sector that a tile owned is downgraded: its data is at the home and the tile keeps a clean copy (SNP_SHR, R308). -/
def State.downgrade (s : State) (sector : Nat) : State :=
  match s.tileOwner sector with
  | some t =>
    let s := s.writeBackSector t sector
    let e := s.dirEntry (sector * 128)
    s.putDir (sector / 4) (e.setSector (sector % 4) .s)
  | none => s

/-- A tile's own copies of a range of device memory leave its cache; a dirty one is written back (R227). -/
def State.dropOwn (s : State) (t a n : Nat) : State :=
  (sectorsOf a n).foldl (fun s x =>
    let s := if decide (s.sectSt x = .m t) then s.downgrade x else s
    s.modTile t (fun y => y.dropSector (s.lineSize t) false x)) s

/-- Every tile holder of a sector but one is invalidated; a dirty owner's data reaches the home first (SNP_INV, R308). -/
def State.invalidateSector (s : State) (sector : Nat) (keep : Option Nat) : State :=
  let e := s.dirEntry (sector * 128)
  let holders := e.presence.filter (fun p => decide (p < 416) && decide (keep ≠ some p))
  let s := match s.tileOwner sector with
    | some t => s.writeBackSector t sector
    | none => s
  let s := holders.foldl (fun s t => s.modTile t (fun x => x.dropSector (s.lineSize t) false sector)) s
  let others := [0, 1, 2, 3].all (fun i => i == sector % 4 || decide (nth .i e.sectors i = .i))
  let kept := match keep with
    | some t => ((s.tile t).lineAt (s.lineSize t) false (sector * 128)).isSome
    | none => false
  let st : SectSt := if kept then .s else .i
  let pres := if others then e.presence.filter (fun p => decide (keep = some p) || p == 416) else e.presence
  s.putDir (sector / 4) { (e.setSector (sector % 4) st) with presence := pres }

/-! ## Room in the directory (R307) -/

/-- The victim of a full set: first for no sector in M, then for fewest presence bits, then by the block's choice. -/
def dirVictim (es : List (Nat × DirEntry)) (choice : Nat) : Option Nat :=
  let noM := es.filter (fun e => e.2.sectors.all (fun x => match x with | .m _ => false | _ => true))
  let es := if noM.isEmpty then es else noM
  let least := es.foldl (fun n e => Nat.min n e.2.presence.length) 417
  let es := es.filter (fun e => e.2.presence.length == least)
  match es with
  | [] => none
  | e :: _ => some (nth e es (choice % es.length)).1

/-- A block's four sectors lose every copy, and the entry goes (R307). A reservation in the block breaks (R302). -/
def State.evictBlock (s : State) (b : Nat) : State :=
  let s := [0, 1, 2, 3].foldl (fun s i => s.invalidateSector (4 * b + i) none) s
  let s := s.breakReservations (512 * b) 512 none
  { s with homes := { s.homes with dir := tblDel s.homes.dir b } }

/-- The directory has an entry for a block, after an eviction where its set of 12 ways is full. -/
def State.dirRoom (s : State) (b : Nat) : State :=
  if (tblFind s.homes.dir b).isSome then s
  else
    let key := s.dirKey (512 * b)
    let lostWays := if setHas s.homes.dirLost (key.1 * 64 + key.2.1) then 1 else 0
    let set := s.homes.dir.filter (fun e => s.dirKey (512 * e.1) == key)
    if set.length + lostWays < 12 then s
    else match dirVictim set s.openNat with
      | some v => s.used.evictBlock v
      | none => s

/-- The victim of a block's full set holds sectors of the host, which are recalled first. -/
def State.roomHeld (s : State) (b : Nat) : Option Nat :=
  if (tblFind s.homes.dir b).isSome then none
  else
    let key := s.dirKey (512 * b)
    let set := s.homes.dir.filter (fun e => s.dirKey (512 * e.1) == key)
    let lostWays := b2n (setHas s.homes.dirLost (key.1 * 64 + key.2.1))
    if set.length + lostWays < 12 then none
    else match dirVictim set s.openNat with
      | some v => if setHas (tblGet {} s.homes.dir v).presence 416 then some v else none
      | none => none

/-- An agent gains presence of a sector in a state. -/
def State.addHolder (s : State) (sector agent : Nat) (st : SectSt) : State :=
  let s := s.dirRoom (sector / 4)
  let e := s.dirEntry (sector * 128)
  s.putDir (sector / 4) { (e.setSector (sector % 4) st) with presence := setIns e.presence agent }

/-- An agent's presence bit of a block is cleared when it holds no sector of the block. -/
def State.dropHolder (s : State) (sector agent : Nat) : State :=
  let e := s.dirEntry (sector * 128)
  s.putDir (sector / 4) { e with presence := setDel e.presence agent }

/-! ## Writes at the home (R308) -/

/-- The latest bytes of a line of device memory, each with its word's P bit. -/
def State.lineNow (s : State) (l : Nat) : List (Byte × Bool) :=
  (List.range 128).map (fun i => (s.latestByte (128 * l + i), s.latestPoison ((128 * l + i) / 8)))

/-- The source-line cache of a task's copy engine is in use: 16 KiB of lines, while its control enables it (R235, R236). -/
def State.srcCache (s : State) (x : Task) : Bool :=
  match x.engine with
  | some e => (tblGet {} s.blk.engineCtl (e.1 * 8 + e.2)).enabled
  | none => false

/-- A line that is about to be written may already be in the source-line cache of a copy that reads it: the copy then misses the
write (R311). -/
def State.copySees (s : State) (a n : Nat) : State :=
  s.tasks.foldl (fun s e =>
    (sectorsOf a n).foldl (fun s l =>
      match s.task? e.1 with
      | some x =>
        if x.source.any (fun p => decide (sectorOf p.1 ≤ l) && decide (l ≤ sectorOf (p.1 + p.2 - 1))) && (tblFind x.srcLines l).isNone
            && s.srcCache x && decide (x.srcLines.length < 128) then
          let s := s.used
          if s.openNat % 2 = 0 then s else s.modTask e.1 (fun y => { y with srcLines := tblPut y.srcLines l (s.lineNow l) })
        else s
      | none => s) s) s

/-- A write is applied at the home: holders but the writer lose their copies, reservations on its granules break, the
bytes and P bits are written, the writer's copy is updated and stays clean. `keep`: the tile whose copy stays; `writer`: the tile whose own
reservations stay (R302). -/
def State.homeStoreBy (s : State) (keep writer : Option Nat) (a : Nat) (bs : List Byte) (poisoned : Bool) (u : Option QcUse) : State :=
  if bs.isEmpty then s
  else
    let s := s.copySees a bs.length
    let s := (sectorsOf a bs.length).foldl (fun s x => s.invalidateSector x keep) s
    let s := s.breakReservations a bs.length writer
    let s := { s with mem := s.mem.store a bs poisoned }.qcTouch u a bs.length
    match keep with
    | some t => s.modTile t (fun x => x.updateLines (s.lineSize t) false a bs poisoned false)
    | none => s

/-- A write of a tile by way of its cache, or of an engine. -/
def State.homeStore (s : State) (writer : Option Nat) (a : Nat) (bs : List Byte) (poisoned : Bool)
    (u : Option QcUse := some ⟨noVein, false, true⟩) : State := s.homeStoreBy writer writer a bs poisoned u

/-- Zero-fill of a granule with P clear and F empty (R260, R261). -/
def State.zeroGranule (s : State) (g : Nat) : State :=
  let a := g * 2 ^ 21
  let keep (w : Nat) : Bool := decide (8 * w < a) || decide (a + 2 ^ 21 ≤ 8 * w)
  { s with mem := { s.mem with
      bytes := memZero s.mem.bytes a (2 ^ 21)
      poison := s.mem.poison.filter keep
      full := s.mem.full.filter keep } }

/-- Every tile copy of a granule's sectors is written back and invalidated, and its quarry-cache lines are clean (R261,
steps 1 and 2). -/
def State.recallGranule (s : State) (g : Nat) : State :=
  let blocks := (s.homes.dir.filter (fun e => e.1 / 4096 == g)).map (·.1)
  let s := blocks.foldl (fun s b => [0, 1, 2, 3].foldl (fun s i => s.invalidateSector (4 * b + i) none) s) s
  { s with qc := { s.qc with lines := s.qc.lines.map (fun e =>
      if e.1 / 16384 == g then (e.1, { e.2 with dirty := false }) else e) } }

/-! ## A tile's cache leaves (R232, R234, R238) -/

/-- Every dirty sector of a tile's data cache is written back; the copies stay clean (R230). -/
def State.flushTile (s : State) (t : Nat) : State :=
  let size := s.lineSize t
  let secs := ((s.tile t).dcache.filter (fun l => !l.host && l.dirty)).map (fun l => l.line * size / 128)
  secs.foldl (fun s x =>
    let s := s.writeBackSector t x true
    let e := s.dirEntry (x * 128)
    s.putDir (x / 4) (e.setSector (x % 4) .s)) s

/-- A tile's data cache is written back and emptied, and the directory and the host-line filter drop the tile (R234,
R262, R313). -/
def State.disposeCache (s : State) (t : Nat) : State :=
  let s := s.flushTile t
  let s := s.modTile t (fun x => { x with dcache := [] })
  let dir := s.homes.dir.map (fun e => (e.1, { e.2 with
      presence := setDel e.2.presence t
      sectors := e.2.sectors.map (fun x => if decide (x = .m t) then .i else x) }))
  { s with
    homes := { s.homes with dir := dir.filter (fun e => e.2.live) }
    host := { s.host with filter := (s.host.filter.map (fun e => (e.1, setDel e.2 t))).filter (fun e => !e.2.isEmpty) } }

/-- The full ordinary sequence for one tile's data cache (R238): write back, disable, invalidate-all, enable. -/
def State.cycleTileCache (s : State) (t : Nat) : State :=
  (s.disposeCache t).modTile t (fun x => { x with dctl := { enabled := true, invalidated := true } })

/-- Every tile copy of host memory is invalidated, and the filter is empty (R313, R322). -/
def State.dropHostLines (s : State) : State :=
  { s with
    tiles := s.tiles.map (fun e => (e.1, { e.2 with dcache := e.2.dcache.filter (fun l => !l.host) }))
    host := { s.host with filter := [] } }

end Sys2Proof.Machine
end

