-- ==== Sys2Proof/Machine/DramErrors.lean ====
section
/-! DEFINITION. DRAM errors: rows and banks of an address, corrected and uncorrectable findings and what they count toward (R200,
R254 to R257, R490, R495). -/

namespace Sys2Proof.Machine

/-! ## Rows and banks (R200, R249) -/

/-- The active bank of a LOCAL address within its stack (R200). -/
def State.bankOf (s : State) (a : Nat) : Nat := bits (s.stackOffset a) 11 10

/-- The DRAM row of a LOCAL address within its bank (R200). -/
def State.rowOf (s : State) (a : Nat) : Nat := s.stackOffset a / 2 ^ 21

/-- One key for a row of a bank. -/
def rowKey (bank row : Nat) : Nat := bank * 65536 + row

/-- Ticks in 24 hours (R9). -/
def dayTicks : Nat := 24 * 3600 * 100000000

/-- Times within the last 24 hours. -/
def State.recent (s : State) (ts : List Nat) : List Nat := ts.filter (fun x => decide (s.now < x + dayTicks))

/-! ## Spares of a quarry (R490, R495). An unlisted bank has its 32 spare rows, an unlisted die its 4 spare banks. -/

def Quarry.rowsLeft (x : Quarry) (bank : Nat) : Nat := tblGet 32 x.rowSpares bank
def Quarry.banksLeft (x : Quarry) (die : Nat) : Nat := tblGet 4 x.bankSpares die

/-- A bank meets a replacement condition: its copy to a spare bank begins, or it stays in service without one (R256, R495). -/
def State.replaceBank (s : State) (q bank : Nat) : State :=
  let x := s.quarry q
  if setHas x.bankCopies bank || setHas x.bankNone bank then s
  else if x.banksLeft (bank / 64) = 0 then
    ((s.modQuarry q (fun x => { x with bankNone := setIns x.bankNone bank })).capacityBit 13).spareExhausted 5 q 64
  else s.modQuarry q (fun x => { x with bankCopies := setIns x.bankCopies bank })

/-- A corrected error is logged and counted for its row; the third within 24 hours begins the row's repair (R255). -/
def State.dramCorrected (s : State) (a : Nat) : State :=
  let q := s.stackOf a
  let bank := s.bankOf a
  let key := rowKey bank (s.rowOf a)
  let ts := s.recent (tblGet [] (s.quarry q).rowErrors key) ++ [s.now]
  let s := s.modQuarry q (fun x => { x with rowErrors := tblPut x.rowErrors key ts })
  let s := s.log .dramCe .masked q (s.addrVein a) bank noCtx 0 a ts.length
  if ts.length < 3 || setHas (s.quarry q).rowCopies key then s
  else if (s.quarry q).rowsLeft bank = 0 then s.replaceBank q bank
  else s.modQuarry q (fun x => { x with rowCopies := setIns x.rowCopies key })

/-- An uncorrectable codeword: P is set on its affected words in DRAM, whose line a dirty copy in the quarry cache does not take (R254);
its first finder logs it and counts it for its bank (R256, R257). -/
def State.dramUncorrectable (s : State) (a : Nat) (words : List Nat) (finder : Nat) : State :=
  let ws := (words.filter (fun w => w / 32 == a / 32)).map (· / 8)
  let fresh := ws.isEmpty || ws.any (fun w => !setHas s.mem.poison w)
  let dirty := match tblFind s.qc.lines (a / 128) with
    | some l => l.dirty
    | none => false
  let s := if dirty then s else { s with mem := { s.mem with poison := ws.foldl setIns s.mem.poison } }
  if !fresh then s
  else
    let q := s.stackOf a
    let bank := s.bankOf a
    let s := s.log .dramUe .detected q (s.addrVein a) bank noCtx 0 a finder
    let row := s.rowOf a
    -- each listed value is a row with the tick of its newest uncorrectable error
    let old := (tblGet [] (s.quarry q).bankErrors bank).filter (fun v => decide (s.now < v / 65536 + dayTicks) && v % 65536 != row)
    let s := s.modQuarry q (fun x => { x with bankErrors := tblPut x.bankErrors bank (old ++ [s.now * 65536 + row]) })
    if old.isEmpty then s else s.replaceBank q bank

/-- What the outer code found at a read or by the patrol. -/
def State.dramFound (s : State) (a : Nat) (ecc : Ecc) (words : List Nat) (finder : Nat) : State :=
  match ecc with
  | .clean => s
  | .corrected => s.dramCorrected a
  | .uncorrectable => s.dramUncorrectable a words finder

/-- An address lies in a codeword of 32 B that a bulk read takes in. -/
def inCodewords (rs : List (Nat × Nat)) (a : Nat) : Bool :=
  rs.any (fun r => decide (0 < r.2) && decide (r.1 / 32 ≤ a / 32) && decide (a / 32 ≤ (r.1 + r.2 - 1) / 32))

/-! ## Corrected errors of the quarry cache and the directory (R246, R490) -/

/-- The count and entry of a corrected error of a way (R246, R490): 64 in 24 hours make it due for replacement. -/
def State.qcCorrected (s : State) (q slice way a : Nat) : State :=
  let key := (q * 64 + slice) * 32 + way
  let ts := s.recent (tblGet [] s.qc.errors key) ++ [s.now]
  let s := { s with qc := { s.qc with
    errors := tblPut s.qc.errors key ts, worn := if 64 ≤ ts.length then setIns s.qc.worn key else s.qc.worn } }
  s.log .qcEcc .masked q (s.addrVein a) slice noCtx 0 a way

/-- A quarry-cache error at a line, on the line's way: a corrected one is counted; an uncorrectable one makes its way due for
replacement. A dirty line that is lost is written to DRAM with the poison mark. -/
def State.qcFound (s : State) (a : Nat) (ecc : Ecc) : State :=
  let k := s.qcPlace (a / 128)
  match ecc, tblFind s.qc.lines (a / 128) with
  | .corrected, some l => s.qcCorrected k.1 k.2.1 l.way a
  | .uncorrectable, some l =>
    let s := { s with qc := { s.qc with
      worn := setIns s.qc.worn ((k.1 * 64 + k.2.1) * 32 + l.way), lines := tblDel s.qc.lines (a / 128) } }
    let s := if l.dirty then
        { s with mem := { s.mem with poison := (List.range 16).foldl (fun p i => setIns p (a / 128 * 16 + i)) s.mem.poison } }
      else s
    s.log .qcEcc (if l.dirty then .detected else .masked) k.1 (s.addrVein a) k.2.1 noCtx 0 a (l.way + 256)
  | _, _ => s

/-- What the codes found on such a read counts where the read covers the address (R246, R257). -/
def State.bulkFound (s : State) (rs : List (Nat × Nat)) (f : DramFinding) : State :=
  if inCodewords rs f.addr then (s.qcFound f.addr f.qcache).dramFound f.addr f.dram f.words 0 else s

/-- A corrected error of a directory way is counted in the same way (R246, R490); no class of the fault log is its own, so only AER shows
it (R421). -/
def State.dirCorrected (s : State) (q slice way : Nat) : State :=
  let key := (q * 64 + slice) * 32 + way
  let ts := s.recent (tblGet [] s.homes.dirErrors key) ++ [s.now]
  { s with
    homes := { s.homes with
      dirErrors := tblPut s.homes.dirErrors key ts, dirWorn := if 64 ≤ ts.length then setIns s.homes.dirWorn key else s.homes.dirWorn }
    host := { s.host with aerCorrectable := setIns s.host.aerCorrectable 14 } }

/-- A place of a tile's checkpoint storage, as slice and way (R243). -/
def State.ckptPlace (s : State) (t i : Nat) : Nat × Nat :=
  let xs := (tblGet [] s.qc.pins (s.tile t).logical).flatMap (fun x => (List.range x.2).map (· + x.1))
  let p := nth 0 xs (i % xs.length)
  (p % 64, 15 - p / wayPlaces)

/-- A word of a tile's checkpoint storage in error: a corrected one is counted for its way, an uncorrectable one makes its way due for
replacement and the half is lost (R246). -/
def State.ckptFound (s : State) (t half : Nat) (f : CkptFinding) : State :=
  let q := quarryOf t
  let x := s.tile t
  let p := s.ckptPlace t f.place
  match f.ecc with
  | .clean => s
  | .corrected => s.qcCorrected q p.1 p.2 0
  | .uncorrectable =>
    ({ s with qc := { s.qc with worn := setIns s.qc.worn ((q * 64 + p.1) * 32 + p.2) } }).log .ckptLost .notice q x.vein t
      (ctxNo x.context) 0 half 0

end Sys2Proof.Machine
end

