-- ==== Sys2Proof/Machine/Formats.lean ====
section
/-! DEFINITION. Element formats (R78 to R87, R162), exact values, the one rounding of a conversion (R104 to R108, R110), the
stochastic source (R109). A finite value is (−1)^neg × m × 2^e. -/

namespace Sys2Proof.Machine

/-- An exact value (R79). -/
inductive Num where
  | fin (neg : Bool) (m : Nat) (e : Int)
  | inf (neg : Bool)
  | nan
deriving DecidableEq, Repr

/-- +0. -/
def Num.zero : Num := .fin false 0 0

/-- 2 to a non-negative integer power; 1 for a negative one. -/
def pow2 (e : Int) : Nat := 2 ^ e.toNat

/-- floor(log2 (m × 2^e)) of a non-zero value. -/
def ilog2 (m : Nat) (e : Int) : Int := (Nat.log2 m : Int) + e

/-! ## Floating-point element formats -/

/-- What a format has beside finite values (R78). -/
inductive Specials where
  | none | e4m3 | ieee
deriving DecidableEq, Repr

/-- A floating-point element format (R78). -/
structure Fmt where
  eb : Nat
  mb : Nat
  bias : Nat
  specials : Specials
  nanCode : Nat
deriving DecidableEq, Repr

def fmtE2M1 : Fmt := ⟨2, 1, 1, .none, 0⟩
def fmtE2M3 : Fmt := ⟨2, 3, 1, .none, 0⟩
def fmtE3M2 : Fmt := ⟨3, 2, 3, .none, 0⟩
def fmtE4M3 : Fmt := ⟨4, 3, 7, .e4m3, 0x7F⟩
def fmtE5M2 : Fmt := ⟨5, 2, 15, .ieee, 0x7E⟩
def fmtFP16 : Fmt := ⟨5, 10, 15, .ieee, 0x7E00⟩
def fmtBF16 : Fmt := ⟨8, 7, 127, .ieee, 0x7FC0⟩
def fmtFP32 : Fmt := ⟨8, 23, 127, .ieee, 0x7FC00000⟩

/-- An element format: floating point, or two's complement of a width with the exponent of one step (R78, R79). -/
inductive Elem where
  | float (f : Fmt)
  | int (w : Nat) (step : Int)
deriving DecidableEq, Repr

/-- The element format of a code (R162); `none` for Trit-pack and codes above. -/
def elemOf (code : Nat) : Option Elem :=
  match code with
  | 0x0 => some (.float fmtFP32)
  | 0x1 => some (.float fmtFP16)
  | 0x2 => some (.float fmtBF16)
  | 0x3 | 0xA => some (.float fmtE4M3)
  | 0x4 | 0xB => some (.float fmtE5M2)
  | 0x5 | 0xE => some (.int 8 0)
  | 0x6 | 0xD => some (.int 4 0)
  | 0x7 => some (.float fmtE2M1)
  | 0x8 => some (.float fmtE2M3)
  | 0x9 => some (.float fmtE3M2)
  | 0xC => some (.int 8 (-6))
  | _ => none

/-- Width of an element in bits. -/
def Elem.width : Elem → Nat
  | .float f => 1 + f.eb + f.mb
  | .int w _ => w

/-- Smallest normal exponent. -/
def Fmt.emin (f : Fmt) : Int := 1 - (f.bias : Int)

/-- Largest finite magnitude as n × 2^q, n of mb + 1 bits (R78). -/
def Fmt.top (f : Fmt) : Nat × Int :=
  let ef := match f.specials with
    | .ieee => 2 ^ f.eb - 2
    | _ => 2 ^ f.eb - 1
  let mf := match f.specials with
    | .e4m3 => 2 ^ f.mb - 2
    | _ => 2 ^ f.mb - 1
  (2 ^ f.mb + mf, (ef : Int) - f.bias - f.mb)

/-- Code of a sign. -/
def Fmt.sign (f : Fmt) (neg : Bool) : Nat := if neg then 2 ^ (f.eb + f.mb) else 0

/-- Code of n × 2^q where q is at least the subnormal unit's exponent. -/
def Fmt.code (f : Fmt) (neg : Bool) (n : Nat) (q : Int) : Nat :=
  f.sign neg + n + (q - (f.emin - f.mb)).toNat * 2 ^ f.mb

/-- Code of the largest finite magnitude. -/
def Fmt.topCode (f : Fmt) (neg : Bool) : Nat := f.code neg f.top.1 f.top.2

/-- Code of an infinity. -/
def Fmt.infCode (f : Fmt) (neg : Bool) : Nat := f.sign neg + (2 ^ f.eb - 1) * 2 ^ f.mb

/-- The value of a code (R79). -/
def Fmt.decode (f : Fmt) (code : Nat) : Num :=
  let neg := bit code (f.eb + f.mb)
  let ef := bits code f.mb f.eb
  let mf := bits code 0 f.mb
  let full := decide (ef = 2 ^ f.eb - 1)
  if decide (f.specials = .ieee) && full then (if mf = 0 then .inf neg else .nan)
  else if decide (f.specials = .e4m3) && full && decide (mf = 2 ^ f.mb - 1) then .nan
  else if ef = 0 then .fin neg mf (f.emin - f.mb)
  else .fin neg (2 ^ f.mb + mf) ((ef : Int) - f.bias - f.mb)

/-- The value of an element's code. -/
def Elem.decode : Elem → Nat → Num
  | .float f, c => f.decode c
  | .int w step, c =>
    let v := toS w (c % 2 ^ w)
    .fin (decide (v < 0)) v.natAbs step
where
  /-- Two's complement. -/
  toS (w v : Nat) : Int := if v < 2 ^ (w - 1) then (v : Int) else (v : Int) - 2 ^ w

/-! ## Rounding (R105, R110) -/

/-- RMODE (R162). -/
inductive Rnd where
  | rne | rtz | stoch
deriving DecidableEq, Repr

/-- The mode of a code; 3 is reserved. -/
def Rnd.ofCode (c : BitVec 2) : Option Rnd :=
  if c = 0 then some .rne else if c = 1 then some .rtz else if c = 2 then some .stoch else none

/-- m × 2^e in units of 2^q, rounded on the magnitude; whether it is inexact. `draw` is R of R110. -/
def roundUnits (mode : Rnd) (draw m : Nat) (e q : Int) : Nat × Bool :=
  if q ≤ e then (m * pow2 (e - q), false)
  else
    let d := pow2 (q - e)
    let n := m / d
    let rem := m % d
    let up := match mode with
      | .rne => decide (d < 2 * rem) || (decide (2 * rem = d) && decide (n % 2 = 1))
      | .rtz => false
      | .stoch => decide (2 ^ 24 ≤ rem * 2 ^ 24 / d + draw)
    (if up then n + 1 else n, decide (rem ≠ 0))

/-- A rounded magnitude n × 2^q with n below 2^(mb + 1), whether it is inexact, whether it is tiny. -/
structure Rounded where
  n : Nat
  q : Int
  inexact : Bool
  tiny : Bool
deriving DecidableEq, Repr

/-- A non-zero magnitude rounded to a format with an unbounded exponent above (R105, R106). `after`: tininess is detected
after rounding. -/
def Fmt.roundMag (f : Fmt) (mode : Rnd) (draw m : Nat) (e : Int) (after : Bool) : Rounded :=
  let l := ilog2 m e
  let q := if l < f.emin then f.emin - f.mb else l - f.mb
  let r := roundUnits mode draw m e q
  let r' := if r.1 = 2 ^ (f.mb + 1) then (2 ^ f.mb, q + 1) else (r.1, q)
  let tiny :=
    if after then
      let u := roundUnits mode draw m e (l - f.mb)
      decide (l < f.emin) && !(decide (l + 1 = f.emin) && decide (u.1 = 2 ^ (f.mb + 1)))
    else decide (l < f.emin)
  ⟨r'.1, r'.2, r.2, tiny⟩

/-- A rounded magnitude exceeds the largest finite value (R106). -/
def Fmt.exceeds (f : Fmt) (r : Rounded) : Bool := decide (f.top.2 < r.q) || (decide (r.q = f.top.2) && decide (f.top.1 < r.n))

/-- Conditions of an operation: invalid, overflow, underflow, inexact (R115, R157). -/
structure Conds where
  inv : Bool := false
  ovf : Bool := false
  unf : Bool := false
  inx : Bool := false
deriving DecidableEq, Repr

/-- Either. -/
def Conds.or (a b : Conds) : Conds := ⟨a.inv || b.inv, a.ovf || b.ovf, a.unf || b.unf, a.inx || b.inx⟩

/-- ASTAT bits [3:0] of conditions (R157). -/
def Conds.bits (c : Conds) : BitVec 7 := BitVec.ofNat 7 (b2n c.inv + 2 * b2n c.ovf + 4 * b2n c.unf + 8 * b2n c.inx)

/-- How a conversion rounds and overflows (R105 to R108). -/
structure Cvt where
  mode : Rnd
  sat : Bool
  ftz : Bool
  after : Bool
deriving DecidableEq, Repr

/-- A finite value written to a floating-point format without a shared scale (R104 to R108). A result that FTZ replaces by a zero raises
underflow and inexact (DESIGN CHOICE, assumption 73). -/
def Fmt.encodeFin (f : Fmt) (c : Cvt) (draw : Nat) (neg : Bool) (m : Nat) (e : Int) : Nat × Conds :=
  if m = 0 then (f.sign neg, {})
  else
    let r := f.roundMag c.mode draw m e c.after
    if f.exceeds r then
      let code :=
        if c.sat || decide (c.mode = .rtz) || decide (f.specials = .none) then f.topCode neg
        else if decide (f.specials = .e4m3) then f.nanCode
        else f.infCode neg
      (code, { ovf := true, inx := true })
    else
      let unf := r.tiny && r.inexact
      if decide (r.n < 2 ^ f.mb) && c.ftz then (f.sign neg, { unf := true, inx := true })
      else (f.code neg r.n r.q, { unf := unf, inx := r.inexact })

/-- A value written to a floating-point format without a shared scale; specials by R107, which raise no condition (DESIGN CHOICE,
assumption 73). -/
def Fmt.encode (f : Fmt) (c : Cvt) (draw : Nat) (x : Num) : Nat × Conds :=
  match x with
  | .nan => (f.nanCode, {})
  | .inf neg =>
    match f.specials with
    | .ieee => (f.infCode neg, {})
    | .e4m3 => if c.sat then (f.topCode neg, {}) else (f.nanCode, {})
    | .none => (f.topCode neg, {})
  | .fin neg m e => f.encodeFin c draw neg m e

/-- A value written to an integer format: it saturates, and NaN gives 0 (R114); either raises invalid alone (DESIGN CHOICE, assumption 73). -/
def encodeInt (w : Nat) (step : Int) (c : Cvt) (draw : Nat) (x : Num) : Nat × Conds :=
  let lo : Nat := 2 ^ (w - 1)
  match x with
  | .nan => (0, { inv := true })
  | .inf neg => (if neg then lo else lo - 1, { inv := true })
  | .fin neg m e =>
    let r := roundUnits c.mode draw m e step
    if neg then
      if lo < r.1 then (lo, { inv := true }) else ((2 ^ w - r.1) % 2 ^ w, { inx := r.2 })
    else if lo ≤ r.1 then (lo - 1, { inv := true }) else (r.1, { inx := r.2 })

/-- A value written to an element format. -/
def Elem.encode (el : Elem) (c : Cvt) (draw : Nat) (x : Num) : Nat × Conds :=
  match el with
  | .float f => f.encode c draw x
  | .int w step => encodeInt w step c draw x

/-! ## Packing (R80) -/

/-- Element `i` of packed elements of `w` bits: the little-endian bit stream holds element i at bit w × i. -/
def unpackAt (w : Nat) (bs : Nat → Byte) (i : Nat) : Nat :=
  let lo := w * i / 8
  leNat ((List.range 5).map (fun j => bs (lo + j))) / 2 ^ (w * i % 8) % 2 ^ w

/-- Packed bytes of codes of `w` bits. -/
def packBits (w : Nat) (cs : List Nat) : Nat := cs.foldr (fun c a => c % 2 ^ w + 2 ^ w * a) 0
def packBytes (w : Nat) (cs : List Nat) : List Byte := leBytes ((w * cs.length + 7) / 8) (packBits w cs)

/-! ## The stochastic source (R109) -/

/-- One step of the LFSR. -/
def lfsrStep (s : Word) : Word :=
  let b := s.getLsbD 63 ^^ s.getLsbD 62 ^^ s.getLsbD 60 ^^ s.getLsbD 59
  (s <<< 1) ||| (if b then 1 else 0)

/-- `n` steps. -/
def lfsrSteps (s : Word) : Nat → Word
  | 0 => s
  | n + 1 => lfsrSteps (lfsrStep s) n

/-- A draw: 24 steps, and R = S[23:0]. -/
def draw (s : Word) : Word × Nat :=
  let s := lfsrSteps s 24
  (s, s.toNat % 2 ^ 24)

/-- The launch value of S (R109). -/
def lfsrSeed (seed : Word) (id : Nat) : Word :=
  let s := seed ^^^ (BitVec.ofNat 64 id * 0x9E3779B97F4A7C15)
  if s = 0 then 1 else s

/-- A list of values converted one by one, each with its draw in STOCH mode (R110). -/
def encodeAll (el : Elem) (c : Cvt) : Word → List Num → Word × List (Nat × Conds)
  | s, [] => (s, [])
  | s, x :: xs =>
    let d := if decide (c.mode = .stoch) then draw s else (s, 0)
    let r := encodeAll el c d.1 xs
    (r.1, el.encode c d.2 x :: r.2)

end Sys2Proof.Machine
end

