-- ==== Sys2Proof/Machine/Routes.lean ====
section
/-! DEFINITION. Ports, links and routes between quarries (R21 to R25, R29, R41, R45): which port joins which, the IO links that carry host
traffic and fabric channels, the route of a packet and its detour, and the hold while routes change. -/

namespace Sys2Proof.Machine

/-- The number of a port: XP, XM, Y and IO as in QRY_LINK (R45), and 4 for the I/O die's end of an IO link. -/
def portNo : LinkPath → Option Nat
  | .xp => some 0 | .xm => some 1 | .y => some 2 | .io => some 3 | .ioIn => some 4 | .tsv => none | .result => none

/-- The quarry and port at the other end of a port (R21, R22, R45). -/
def portPeer (q i : Nat) : Option (Nat × Nat) :=
  if i = 0 then (if q % 4 < 3 then some (q + 1, 1) else none)
  else if i = 1 then (if 0 < q % 4 then some (q - 1, 0) else none)
  else if i = 2 then some (q ^^^ 4, 2)
  else if q % 4 = 0 then (if i = 3 then some (q, 4) else if i = 4 then some (q, 3) else none)
  else none

/-- A link carries traffic at its port. -/
def Port.up (p : Port) : Bool := p.state == 1 || p.state == 2

def State.portUp (s : State) (q i : Nat) : Bool :=
  match tblFind (s.quarry q).ports i with
  | some p => p.up
  | none => false

/-! ## The IO links (R22, R25, R41) -/

/-- The IO link of a quarry carries traffic. -/
def State.ioUp (s : State) (q : Nat) : Bool := (s.quarry q).present && s.portUp q 3

/-- The quarry by whose IO link host traffic runs: quarry 0, or quarry 4 where quarry 0 or its IO link is lost. -/
def State.hostQuarry (s : State) : Nat := if s.ioUp 0 then 0 else 4

/-- The quarry by whose IO link a fabric channel runs: channels 0–7 by quarry 0, 8–15 by quarry 4, or by the other where that is lost. -/
def State.channelQuarry (s : State) (ch : Nat) : Nat := if ch < 8 then s.hostQuarry else if s.ioUp 4 then 4 else 0

/-- Both IO links are down: the host sees a surprise down. -/
def State.ioLost (s : State) : Bool := !s.ioUp 0 && !s.ioUp 4

/-! ## Routes (R23, R25) -/

/-- Quarries passed along a row to a column, the start left out. -/
def rowTo (q c : Nat) : List Nat :=
  let x := q % 4
  let r := q / 4 * 4
  if x ≤ c then (List.range (c - x)).map (fun i => r + x + 1 + i) else (List.range (x - c)).map (fun i => r + x - 1 - i)

/-- Along the row to the column, then across the Y link. -/
def baseRoute (a b : Nat) : List Nat := rowTo a (b % 4) ++ (if a / 4 = b / 4 then [] else [b])

/-- The port of a quarry towards its neighbour. -/
def portTowards (a b : Nat) : Nat := if b = a ^^^ 4 then 2 else if a < b then 0 else 1

/-- The nearest column whose Y link is up; of two equally near, the lower. -/
def State.nearY (s : State) (q : Nat) : Option Nat :=
  (List.range 4).foldl (fun (b : Option Nat) c =>
    let far (c : Nat) : Nat := (q % 4 - c) + (c - q % 4)
    if s.portUp (q / 4 * 4 + c) 2 then (match b with
      | some d => if far c < far d then some c else some d
      | none => some c) else b) none

/-- The fixed detour that replaces a link that is down: a row link's runs across the Y link, along the other row and back; a Y link's runs
by the nearest column whose Y link is up. -/
def State.detour (s : State) (a b : Nat) : List Nat :=
  if b = a ^^^ 4 then
    match s.nearY a with
    | some c => rowTo a c ++ ((a / 4 * 4 + c) ^^^ 4) :: rowTo ((a / 4 * 4 + c) ^^^ 4) (b % 4)
    | none => []
  else [a ^^^ 4, b ^^^ 4, b]

/-- The links of a way of neighbouring quarries are up. -/
def State.pathUp (s : State) : Nat → List Nat → Bool
  | _, [] => true
  | a, b :: l => s.portUp a (portTowards a b) && s.pathUp b l

/-- A hop of a fixed route can be made: its link is up, or the whole of its detour. -/
def State.hopOpen (s : State) (a b : Nat) : Bool := s.portUp a (portTowards a b) || (!(s.detour a b).isEmpty && s.pathUp a (s.detour a b))

/-- A quarry's packets can reach another, over detours where links are down (R25). -/
def State.routeOpen (s : State) (a b : Nat) : Bool :=
  ((baseRoute a b).foldl (fun (p : Bool × Nat) c => (p.1 && s.hopOpen p.2 c, c)) (true, a)).1

/-- The quarries that a packet passes from one quarry to another, the first left out. -/
def State.route (s : State) (a b : Nat) : List Nat :=
  ((baseRoute a b).foldl (fun (p : List Nat × Nat) c =>
    (p.1 ++ (if s.portUp p.2 (portTowards p.2 c) then [c] else s.detour p.2 c), c)) ([], a)).1

/-- A link of the fixed route is down and its detour is not in force yet, or is down too. -/
def State.routeBroken (s : State) (a b : Nat) : Bool :=
  ((baseRoute a b).foldl (fun (p : Bool × Nat) c =>
    (p.1 || (match tblFind (s.quarry p.2).ports (portTowards p.2 c) with
      | some x => x.state == 3 && (!x.detour || !s.hopOpen p.2 c)
      | none => false), c)) (false, a)).1

/-! ## Where sources send from -/

/-- The quarry at which a source's packets enter: the I/O die's enter by an IO link (R23, R29). -/
def State.srcQuarry (s : State) : Src → Nat
  | .tile t => quarryOf t
  | .copy k => match (s.task? k).bind (·.engine) with
    | some e => e.1
    | none => 0
  | .sequencer k => match s.task? k with
    | some x => x.vein / 4
    | none => 0
  | .veinSeq v => v / 4
  | .mica id => match tblFind s.mica.cmds id with
    | some c => ((List.range 8).find? (fun q => c.block.stackMask.getLsbD q)).getD 0
    | none => 0
  | .hostPort | .hostMem => s.hostQuarry
  | .fabric id => match tblFind s.fab.inbound id with
    | some p => s.channelQuarry p.channel
    | none => s.hostQuarry
  | .flintHome o => o / 2048 % 8
  | .quartz => s.blk.quartz.getD 0

/-! ## The hold while routes change (R25) -/

/-- Every source is held: no new packet enters any virtual channel. -/
def State.sourcesHeld (s : State) : Bool := s.blk.heldFrom.isSome

/-- An IO link is down whose traffic has not moved to the other one yet. -/
def State.ioBroken (s : State) : Bool := [0, 4].any (fun q => match tblFind (s.quarry q).ports 3 with
  | some p => p.state == 3 && !p.detour
  | none => false)

/-- A source in the I/O dies, whose packets enter by an IO link. -/
def Src.outside : Src → Bool
  | .hostPort | .hostMem | .fabric _ => true
  | _ => false

/-- A packet may not move: every source is held, or its route uses a link that is down, whose transmitting end keeps its flits until the
detour is in force. -/
def State.linkHeld (s : State) (id : Nat) (src : Src) (dest : Nat) : Bool :=
  match s.blk.heldFrom with
  | some n => decide (n ≤ id) || s.routeBroken (s.srcQuarry src) dest || (src.outside && s.ioBroken)
  | none => false

/-- A response may not move: it entered RSP after the sources were held, or its way uses a link that is down. -/
def State.rspHeld (s : State) (r : Rsp) : Bool :=
  match s.blk.heldFrom with
  | some n => decide (n ≤ r.born) || (r.home.map (fun h => s.routeBroken h (s.srcQuarry r.dst))).getD false || (r.dst.outside && s.ioBroken)
  | none => false

/-- A snoop's answer may not move, on its way from its agent to the sector's home. -/
def State.answerHeld (s : State) (agent home : Nat) : Bool := s.sourcesHeld && s.routeBroken (quarryOf agent) home

end Sys2Proof.Machine
end

