-- ==== Sys2Proof/Machine/Space.lean ====
section
/-! DEFINITION. Spaces: segment translation (R263 to R268), host-space translation and its requests (R272 to R277, R285),
requests sent upstream (R408, R410, R424) and through the fabric port (R431 to R437). -/

namespace Sys2Proof.Machine

/-! ## Segment space -/

/-- R265: the segment holds an address. -/
def Segment.holds (g : Segment) (va : Nat) : Bool := decide (g.vbase ≤ va) && decide (va < g.vbase + g.gran * 2 ^ 21)

/-- R265: the LOCAL address of a device-virtual address in the segment. -/
def Segment.local' (g : Segment) (va : Nat) : Nat :=
  let off := va - g.vbase
  if g.step8 then g.plocal + off / 2 ^ 21 * 2 ^ 24 + off % 2 ^ 21 else g.plocal + off

/-- The slot that holds an address of segment space. -/
def findSeg (segs : Tbl Segment) (va : Nat) : Option Segment := (segs.find? (fun e => e.2.holds va)).map (·.2)

/-- Every byte of a range lies in some slot that satisfies a condition. -/
def segCover (segs : Tbl Segment) (ok : Segment → Bool) (va n : Nat) : Bool :=
  let step (b : Option Nat) (_ : Nat × Segment) : Option Nat :=
    match b with
    | none => none
    | some a =>
      if va + n ≤ a then some a
      else match findSeg segs a with
        | some g => if ok g then some (g.vbase + g.gran * 2 ^ 21) else none
        | none => none
  match (segs ++ segs.take 1).foldl step (some va) with
  | some a => decide (va + n ≤ a)
  | none => false

/-- Host space: bit 63 (R263). -/
def isHostVa (va : Nat) : Bool := bit va 63

/-- The untranslated address of a host-space address (R263). -/
def hostAddr (va : Nat) : Nat := va % 2 ^ 63

/-- Requests of the admin queue carry the PASID of ADMQ_SIZE, or none: the number 2^20 stands for no PASID (R397). -/
def State.admPasid (s : State) : Nat := if s.adm.pasidValid then s.adm.pasid else 2 ^ 20

/-- The PASID of a context; the admin side has no context. -/
def State.pasidOf (s : State) (c : Nat) : Nat :=
  match s.ctx? c with
  | some x => x.pasid
  | none => s.admPasid

/-! ## Host space (R272 to R286, R424) -/

/-- The ATC entry that serves an access (R273, R275). -/
def State.atcHit (s : State) (pasid a : Nat) (write : Bool) : Option AtcEntry :=
  s.xlat.atc.find? (fun e => e.pasid == pasid && decide (e.va ≤ a) && decide (a < e.va + e.size) && e.r && (e.w || !write))

/-- A translated address falls in an enabled peer window (R424, R426). -/
def State.inPeerWindow (s : State) (pa : Nat) : Bool :=
  s.host.peers.any (fun e => e.2.1 && decide (e.2.2.1 ≤ pa / 4096) && decide (pa / 4096 ≤ e.2.2.2))

/-- LOCAL address of a host-physical address inside the block's own HDM range (R271). -/
def State.hdmLocal (s : State) (pa : Nat) : Option Nat :=
  match s.host.hdm with
  | some b => if b ≤ pa ∧ pa < b + 2 ^ 40 then some (pa - b) else none
  | none => none

/-- Where a translated host-physical address goes (R271, R424). -/
def State.routeHpa (s : State) (pa : Nat) : Dest :=
  match s.hdmLocal pa with
  | some a => .device a false
  | none => .host pa (s.inPeerWindow pa)

/-- What an access reaches. -/
inductive Reach where
  | to (d : Dest) (seg : Option Segment)
  | outside
  | noRight
  | miss
  | held
deriving DecidableEq, Repr

/-- The placement entry of a context that holds a host-space address (R285). -/
def State.placement? (s : State) (c va : Nat) : Option Placement :=
  s.xlat.placed.find? (fun p => p.context == c && decide (p.host ≤ va) && decide (va < p.host + p.len))

/-- Segment-space access (R265, R266, R268). -/
def State.reachSeg (s : State) (segs : Tbl Segment) (va : Nat) (write : Bool) : Reach :=
  match findSeg segs va with
  | none => .outside
  | some g =>
    if (if write then g.w else g.r) then
      if g.device = s.fab.self then .to (.device (g.local' va) true) (some g) else .to (.remote g.device (g.local' va)) (some g)
    else .noRight

/-- Host-space access under a PASID (R275, R271, R424). -/
def State.reachHost (s : State) (src : Src) (pasid va : Nat) (write : Bool) : Reach :=
  let a := hostAddr va
  match s.xlat.grants.find? (fun g => decide (g.stream = src) && g.page == a / 4096 && g.pasid == pasid && (g.w || !write)),
      s.atcHit pasid a write with
  | some g, _ =>
    match g.pa with
    | some pa => .to (s.routeHpa (pa + a % 4096)) none
    | none => .to (.host a true) none
  | none, some e => .to (s.routeHpa (e.pa + (a - e.va))) none
  | none, none => .miss

/-- What one byte of a device-virtual access reaches (R263, R285). -/
def State.reach (s : State) (src : Src) (c : Nat) (segs : Tbl Segment) (va : Nat) (write : Bool) : Reach :=
  if isHostVa va then
    match s.placement? c va with
    | some p =>
      if p.ending then .held
      else match s.reachSeg segs (p.dva + (va - p.host)) write with
        | .to d _ => .to d none
        | r => r
    | none => s.reachHost src (s.pasidOf c) va write
  else s.reachSeg segs va write

/-- Translation requests may leave (R408, R290). -/
def State.upstreamOpen (s : State) : Bool := s.host.bme && s.host.linkUp && s.blk.heldFrom.isNone

/-- The sender on the network of a source (R28, R29): a tile, a copy engine, the sequencer of a vein, a stack's reduction tree, a port of
the I/O die. -/
def State.sender (s : State) : Src → Nat × Nat
  | .tile t => (0, t)
  | .copy k => match (s.task? k).bind (·.engine) with
    | some (q, e) => (1, 8 * q + e)
    | none => (2, k)
  | .sequencer k => match s.task? k with
    | some x => (3, x.vein)
    | none => (4, k)
  | .veinSeq v => (3, v)
  | .mica id => (5, s.srcQuarry (.mica id))
  | .hostPort => (6, 0)
  | .hostMem => (6, 1)
  | .fabric _ => (7, 0)
  | .flintHome o => (8, o / 2048)
  | .quartz => (9, 0)

/-- A stream is one engine acting for one context (R274). -/
def State.streamOf (s : State) (src : Src) : (Nat × Nat) × Nat :=
  (s.sender src, match src with
    | .tile t => (s.tile t).context.getD 0
    | .copy k | .sequencer k => ((s.task? k).map (·.context)).getD 0
    | _ => 0)

/-- The streams that hold a requester. -/
def State.streams (s : State) : List ((Nat × Nat) × Nat) :=
  ((s.xlat.reqs.filter (fun e => e.2.slot.isNone)).map (fun e => s.streamOf e.2.stream)).eraseDups

/-- The Translation Request of a miss leaves, unless its stream has 8, all 32 requesters serve other streams, or nothing may leave: then
it waits (R274, R408). That of a page request's slot is the front end's own (R278). -/
def State.sendXlate (s : State) (q : XReq) : State :=
  let mine := s.xlat.reqs.filter (fun e => e.2.slot.isNone && decide (s.streamOf e.2.stream = s.streamOf q.stream))
  let full := q.slot.isNone && (decide (8 ≤ mine.length) || (mine.isEmpty && decide (32 ≤ s.streams.length)))
  if !s.upstreamOpen || !s.host.atsEn || full then
    { s with xlat := { s.xlat with waiting := s.xlat.waiting ++ [q] } }
  else
    let id := s.nextId
    ({ s.awake with
        xlat := { s.xlat with reqs := tblPut s.xlat.reqs id q } }.bump).emit (.translation id q.pasid q.page q.write)

/-- Those that waited leave in order. -/
def State.flushXlat (s : State) : State :=
  s.xlat.waiting.foldl (fun s q => s.sendXlate q) { s with xlat := { s.xlat with waiting := [] } }

/-- An ATC miss of a stream, unless it awaits the page already: it is counted, and its Translation Request leaves or waits. -/
def State.askXlate (s : State) (src : Src) (pasid a : Nat) (write faultIn : Bool) : State :=
  let page := a / 4096
  let same (q : XReq) : Bool := decide (q.stream = src) && q.page == page && (q.write || !write)
  if s.xlat.reqs.any (fun e => same e.2) || s.xlat.waiting.any same || s.xlat.slotWait.any same then s
  else if s.xlat.slots.any (fun e => e.2.waiters.contains src && e.2.page == page) then s
  else ({ s with xlat := { s.xlat with misses := satAdd 64 s.xlat.misses 1 } }).sendXlate ⟨src, pasid, page, write, faultIn, none⟩

/-- The pages of a host-space range. -/
def pagesOf (a n : Nat) : List Nat :=
  if n = 0 then [] else (List.range ((a + n - 1) / 4096 + 1 - a / 4096)).map (fun i => (a / 4096 + i) * 4096)

/-- The first page of a host-space range that is not translated for a stream. -/
def State.firstMiss (s : State) (src : Src) (c va n : Nat) (write : Bool) : Option Nat :=
  if isHostVa va then
    (pagesOf (hostAddr va) n).find? (fun p =>
      match s.placement? c (p + 2 ^ 63) with
      | some pl => pl.ending
      | none => decide (s.reachHost src (s.pasidOf c) p write = .miss))
  else none

/-- The first page of a host-space range that a stream has to ask for: not one under a placement that is ending, which is waited for
(R286, R288). -/
def State.firstAsk (s : State) (src : Src) (c va n : Nat) (write : Bool) : Option Nat :=
  (s.firstMiss src c va n write).filter (fun p => (s.placement? c (p + 2 ^ 63)).isNone)

/-- The translations that a stream holds end with the access that used them (R275). -/
def State.dropGrants (s : State) (src : Src) : State :=
  { s with xlat := { s.xlat with grants := s.xlat.grants.filter (fun g => decide (g.stream ≠ src)) } }

/-- The device table entry of a device, as cached (R432). -/
def State.devEntry? (s : State) (d : Nat) : Option DevEntry := tblFind s.fab.cache d

/-- An operation of the fabric port that travels on ORD: all but a get (R28). -/
def FabOp.onOrd (o : FabOp) : Bool := o.kind != 1

/-- The identity of a source for the choice of a queue pair (R433). -/
def State.identity (s : State) (src : Src) : Nat := (s.sender src).1 * 2 ^ 16 + (s.sender src).2

/-- A source whose earlier packet waits at the fabric port for a credit stalls on ORD behind it (R437). -/
def State.fabStalled (s : State) (id ident : Nat) : Bool :=
  s.fab.ops.any (fun e => decide (e.1 < id) && !e.2.sent && e.2.onOrd && e.2.ident == ident && (s.devEntry? e.2.device).isSome)

def State.stalled (s : State) (id : Nat) (src : Src) : Bool := s.fabStalled id (s.identity src)

/-! ## Upstream requests (R408, R410, R313, R424) -/

/-- A request that carries data to host memory. -/
def UpKind.isWrite : UpKind → Bool
  | .itoMWr | .wrCur | .ioWrite => true
  | _ => false

/-- CXL.cache requests wait for Cache_Enable as well (R403). -/
def State.mayLeave (s : State) (k : UpKind) : Bool :=
  s.upstreamOpen &&
    match k with
    | .rdShared | .rdCurr | .itoMWr | .wrCur => s.host.cacheEn
    | _ => true

/-- The answer to a read of host memory has come: the read could leave, and a timeout is not disabled (R403, R408, R411). -/
def State.hostAnswers (s : State) (io : Bool) (h : HostData) : Bool :=
  s.mayLeave (if io then .ioRead else .rdCurr) && !(s.host.timeoutOff && decide (h = .timedOut))

/-- The same for a part of a transfer, whatever it lies in. -/
def State.answersAt (s : State) (d : Dest) (h : HostData) : Bool :=
  match d with
  | .host _ io => s.hostAnswers io h
  | _ => true

/-- A host line is given up with CleanEvictNoData, once it may leave (R313, R403, R408). -/
def State.sendEvict (s : State) (a : Nat) : State :=
  if s.mayLeave .rdCurr then s.awake.emit (.cleanEvict a) else { s with host := { s.host with evicts := s.host.evicts ++ [a] } }

/-- Those that waited leave in order. -/
def State.flushEvicts (s : State) : State := s.host.evicts.foldl State.sendEvict { s with host := { s.host with evicts := [] } }

/-- Every other tile's copy of a host sector is invalidated before a write to it is sent; a tile that holds another line of the block
stays in the filter's entry (R313). -/
def State.invalidateHostSector (s : State) (sector : Nat) (keep : Option Nat) : State :=
  let b := sector / 4
  let holders := (tblGet [] s.host.filter b).filter (fun t => decide (keep ≠ some t))
  let s := holders.foldl (fun s t => s.modTile t (fun x => x.dropSector (s.lineSize t) true sector)) s
  let stays (t : Nat) : Bool := decide (keep = some t) || (s.tile t).dcache.any (fun l => l.host && l.line * s.lineSize t / 512 == b)
  let left := (tblGet [] s.host.filter b).filter stays
  { s with host := { s.host with filter := if left.isEmpty then tblDel s.host.filter b else tblPut s.host.filter b left } }

/-- A CXL.cache write of host memory. -/
def UpKind.isLine : UpKind → Bool
  | .itoMWr | .wrCur => true
  | _ => false

/-- Copies that a CXL.cache write makes stale go before it is sent (R313). -/
def State.invalidateHostLines (s : State) (u : UpReq) : State :=
  let keep := match u.src with
    | .tile t => some t
    | _ => none
  (sectorsOf u.addr u.len).foldl (fun s x => s.invalidateHostSector x keep) s

/-- A CXL.cache write waits for the fills of its sectors that are out, and a fill for the writes, so that no copy is filled that the write
makes stale (R292, R313). -/
def State.lineBusy (s : State) (u : UpReq) : Bool :=
  let meets (v : UpReq) : Bool := (sectorsOf v.addr v.len).any (fun x => (sectorsOf u.addr u.len).contains x)
  (u.kind.isLine && s.host.up.any (fun e => e.2.sent && decide (e.2.kind = .rdShared) && meets e.2))
    || (decide (u.kind = .rdShared) && s.host.up.any (fun e => e.2.sent && e.2.kind.isLine && meets e.2))

/-- A request leaves by the host port, whose link is in L0 for it (R415). A CXL.io write is followed by a zero-length read to the
same place, whose completion is what tells that the write is globally observed (R292, R425). -/
def State.leave (s : State) (id : Nat) (k : UpKind) : State :=
  let s := match tblFind s.host.up id with
    | some u => if k.isLine then s.invalidateHostLines u else s
    | none => s
  let s := s.awake.emit (.upstream id)
  if k = .ioWrite then s.emit (.zeroRead id) else s

/-- The page that a translated address comes from, by an entry or by the translation that the access was given (R280). -/
def State.pageOf (s : State) (pasid pa : Nat) : Option Nat :=
  match s.xlat.atc.find? (fun e => e.pasid == pasid && decide (e.pa ≤ pa) && decide (pa < e.pa + e.size)) with
  | some e => some ((e.va + (pa - e.pa)) / 4096)
  | none => (s.xlat.grants.find? (fun g => g.pasid == pasid && (match g.pa with
      | some b => decide (b ≤ pa) && decide (pa < b + 4096)
      | none => false))).map (·.page)

/-- A request upstream; it waits where it may not leave yet. Its number is the state's next number. -/
def State.sendUp (s : State) (r : UpReq) : State :=
  let id := s.nextId
  let ok := s.mayLeave r.kind && !s.lineBusy r && !(r.kind.isWrite && s.stalled id r.src)
  let s := { s with host := { s.host with up := tblPut s.host.up id { r with sent := ok, page := s.pageOf r.pasid r.addr } } }.bump
  if ok then s.leave id r.kind else s

/-- The CXL.cache write of a part of a 64 B line: ItoMWr for all of it, else WrCur (R313). -/
def cacheWriteKind (n : Nat) : UpKind := if n = 64 then .itoMWr else .wrCur

/-- Requests whose translation was withdrawn before they left are translated again (R280). -/
def State.relook (s : State) : State :=
  s.host.up.foldl (fun s e =>
    match e.2.va with
    | none => s
    | some v =>
      match s.reachHost e.2.src e.2.pasid v e.2.kind.isWrite with
      | .to d _ =>
        -- a translation that was given to the stream for this page is used
        let s := { s with xlat := { s.xlat with grants := s.xlat.grants.filter (fun g => !(decide (g.stream = e.2.src) && g.page == v / 4096)) } }
        match d with
        | .host pa io =>
          let kind := if e.2.kind.isWrite then (if io then UpKind.ioWrite else cacheWriteKind e.2.len) else (if io then UpKind.ioRead else .rdCurr)
          { s with host := { s.host with up := tblPut s.host.up e.1 { e.2 with addr := pa, kind := kind, peer := io, va := none } } }
        | .device a _ =>
          let req := if e.2.kind.isWrite then Req.write a e.2.bytes e.2.poisoned none else .read a e.2.len false
          { s with host := { s.host with up := tblDel s.host.up e.1 }, pkts := tblPut s.pkts e.1 ⟨e.2.src, none, req, e.2.task, false, false, 0⟩ }
        | .remote _ _ => s
      | _ => s.askXlate e.2.src e.2.pasid v e.2.kind.isWrite true) s

/-- Requests that waited leave in order (R408, R410), but for writes of a source that is stalled (R437). -/
def State.flushUp (s : State) : State :=
  let s := s.flushXlat.flushEvicts
  s.relook.host.up.foldl (fun s e =>
    if !e.2.sent && e.2.va.isNone && s.mayLeave e.2.kind && !s.lineBusy e.2 && !(e.2.kind.isWrite && s.stalled e.1 e.2.src) then
      { s with host := { s.host with up := tblPut s.host.up e.1 { e.2 with sent := true } } }.leave e.1 e.2.kind
    else s) s.relook

/-! ## The fabric port as a source (R430 to R437, R448, R450) -/

def State.peerSt (s : State) (d : Nat) : Peer := tblGet .normal s.fab.peers d

/-- Operations to the device fail at once (R447, R448, R450, R430, R431). -/
def State.fabDown (s : State) (d : Nat) : Option RspSt :=
  if decide (s.blk.state = .orphaned) then some .peerLost
  else match s.peerSt d with
    | .lost => some .peerLost
    | .authFailed => some .authFailed
    | .normal =>
      if !s.fab.tabValid then some .refused
      else match s.devEntry? d with
        | some e => if e.valid then none else some .refused
        | none => none

/-- Bytes of payload that an operation's packet carries: a get carries none, whose answer does (R434, R444). -/
def FabOp.payload (o : FabOp) : Nat := if o.kind = 1 then 0 else o.bytes.length

/-- A tile waits for the answer of a get or an atomic, so a lost peer makes it trap (R443, R448). -/
def FabOp.valued (o : FabOp) : Bool := [1, 2, 3].contains o.kind

/-- Waiting packets are numbered and sent, oldest first, each against a REQUEST credit of its channel; a packet without a
credit holds back the later packets of its channel, and those of its source (R433, R437, R439). -/
def State.fabPump (s : State) : State :=
  if s.blk.heldFrom.isSome then s else
  (s.fab.ops.foldl (fun (p : State × NSet) e =>
    let (s, blocked) := p
    if e.2.sent || !s.fab.assigned || (e.2.onOrd && s.fabStalled e.1 e.2.ident) then p
    else match s.devEntry? e.2.device with
      | none => p
      | some d =>
        if !d.valid then p
        else
          let i := Config.queuePairOf e.2.ident d.qpCount % (Nat.max d.qpCount 1)
          let ch := (d.channel + i) % 16
          let cr := tblGet (0, 0) s.fab.credits ch
          if setHas blocked ch || cr.1 == 0 then (s, setIns blocked ch)
          else
            let h := d.qpBase + i
            let seq := tblGet 0 s.fab.seqs h
            let op := { e.2 with handle := h, channel := ch, seq := seq, sent := true, keySlot := d.keySlot }
            ({ s with fab := { s.fab with
                ops := tblPut s.fab.ops e.1 op
                seqs := tblPut s.fab.seqs h ((seq + 1) % 2 ^ 32)
                credits := tblPut s.fab.credits ch (cr.1 - 1, cr.2) } }.emit (.packet e.1 d.keySlot e.2.payload), blocked)) (s, [])).1

/-- One operation to another device. Its number is the state's next number. Where the device is down, its failed response
is there at once; a load, store or atomic to a lost peer traps (R188). -/
def State.fabSend (s : State) (op : FabOp) : State :=
  let id := s.nextId
  match s.fabDown op.device with
  | some st => { s with rsps := tblPut s.rsps id { dst := op.src, task := op.task, st := st, value := op.device, remote := true, traps := decide (op.kind ≤ 3) } }.bump
  | none => { s with fab := { s.fab with ops := tblPut s.fab.ops id { op with ident := s.identity op.src } } }.bump.fabPump

/-- A put of a copy that was not applied is no byte that the copy wrote (R369); a launch counts what its tiles release. -/
def State.uncount (s : State) (o : FabOp) : State :=
  match o.src, o.task with
  | .tile _, _ | _, none => s
  | _, some k => if o.kind = 0 then s.modTask k (fun x => { x with bytes := x.bytes - o.bytes.length }) else s

/-- An operation before it is numbered. -/
def mkFab (device : Nat) (src : Src) (context : Nat) (task : Option Nat) (kind addr : Nat) (bytes : List Byte) (poisoned : Bool)
    (value value2 : Nat) : FabOp :=
  ⟨device, 0, 0, src, context, task, kind, addr, bytes, poisoned, value, value2, 0, false, none, [], 0, 0⟩

/-- One part of a write to another device, with its stash hint and the poison bit of each 8-byte word (R434). -/
def State.sendPut (s : State) (src : Src) (c : Nat) (task : Option Nat) (dev a : Nat) (bs : List (Byte × Bool)) (stash : Option Nat) :
    State :=
  s.fabSend { mkFab dev src c task 0 a (bs.map (·.1)) (bs.any (·.2)) 0 0 with
    stash := stash, marks := (wordsOf a bs.length).map (fun w => (bs.zipIdx.any (fun b => b.1.2 && (a + b.2) / 8 == w))) }

/-! ## Packets to homes (R28, R29) -/

/-- The object that a packet names. -/
def Req.object : Req → Option Nat
  | .flintAdd o _ | .flintSub o _ | .flintArrive o | .flintRelease o | .flintWait o _ => some o
  | _ => none

/-- Flint operations that a sender has sent to a slice, modulo 2^16 (R358). -/
def State.opCount (s : State) (src : Src) (slice : Nat) : Nat :=
  match s.flint.opCounts.find? (fun e => decide (e.1 = (s.sender src, slice))) with
  | some e => e.2
  | none => 0

/-- A Flint operation takes its sender's next number at its slice (R358). -/
def State.countOp (s : State) (src : Src) (req : Req) : State :=
  match req.object with
  | none => s
  | some n =>
    let key := (s.sender src, n / 2048)
    { s with flint := { s.flint with
        opCounts := (key, (s.opCount src (n / 2048) + 1) % 2 ^ 16) :: s.flint.opCounts.filter (fun e => decide (e.1 ≠ key)) } }

/-- The number that a packet carries at its slice. -/
def State.opNumber (s : State) (src : Src) (req : Req) : Nat :=
  match req.object with
  | none => 0
  | some n => s.opCount src (n / 2048)

/-- A packet to a home. Its number is the state's next number; lower numbers of one source are older (R29). -/
def State.sendPkt (s : State) (src : Src) (context : Option Nat) (req : Req) (task : Option Nat) : State :=
  { s.countOp src req with pkts := tblPut s.pkts s.nextId ⟨src, context, req, task, false, false, s.opNumber src req⟩ }.bump

/-- A response or acknowledgement on RSP for a request (R28, R299). -/
def State.respond (s : State) (id : Nat) (r : Rsp) : State := { s with rsps := tblPut s.rsps id { r with born := s.nextId } }

/-- The pieces of an access within aligned 8-byte words (R300): offset in the access, address, length. -/
def pieces (a n : Nat) : List (Nat × Nat × Nat) :=
  (wordsOf a n).map (fun w =>
    let lo := Nat.max a (8 * w)
    let hi := Nat.min (a + n) (8 * w + 8)
    (lo - a, lo, hi - lo))

/-- Parts of a transfer that cross no 4 KiB boundary (R434): offset, address, length. -/
def chunks4K (a n : Nat) : List (Nat × Nat × Nat) :=
  (pagesOf a n).map (fun p =>
    let lo := Nat.max a p
    let hi := Nat.min (a + n) (p + 4096)
    (lo - a, lo, hi - lo))

/-- Parts of a transfer by 64 B host line (R313): offset, address, length. -/
def lines64 (a n : Nat) : List (Nat × Nat × Nat) :=
  if n = 0 then []
  else (List.range ((a + n - 1) / 64 + 1 - a / 64)).map (fun i =>
    let lo := Nat.max a ((a / 64 + i) * 64)
    let hi := Nat.min (a + n) ((a / 64 + i + 1) * 64)
    (lo - a, lo, hi - lo))

/-- A write by a source to where it goes, in packets; the numbers used are consecutive from the state's next number. A
device write of a checked access carries its context (R259). -/
def State.sendWrite (s : State) (src : Src) (context : Nat) (task : Option Nat) (d : Dest) (bs : List Byte) (poisoned : Bool)
    (stash : Option Nat) : State :=
  match d with
  | .device a checked => s.sendPkt src (if checked then some context else none) (.write a bs poisoned stash) task
  | .host pa io =>
    if io then s.sendUp ⟨src, task, .ioWrite, s.pasidOf context, pa, bs.length, bs, poisoned, s.inPeerWindow pa, false, none, none⟩
    else (lines64 pa bs.length).foldl (fun s c =>
      s.sendUp ⟨src, task, cacheWriteKind c.2.2, s.pasidOf context, c.2.1, c.2.2, (bs.drop c.1).take c.2.2, poisoned, false, false, none, none⟩) s
  | .remote dev a =>
    (chunks4K a bs.length).foldl (fun s c =>
      s.fabSend (mkFab dev src context task 0 c.2.1 ((bs.drop c.1).take c.2.2) poisoned 0 0)) s

/-- The numbers that a sender used: from the first state's next number to the second's. -/
def idsBetween (a b : State) : NSet := (List.range (b.nextId - a.nextId)).map (· + a.nextId)

/-- A write joins the task's writes not yet globally observed (R323). -/
def State.noteWrites (s : State) (k : Option Nat) (ids : NSet) : State :=
  match k with
  | some k => s.modTask k (fun x => { x with unseen := ids.foldl setIns x.unseen })
  | none => s

end Sys2Proof.Machine
end

