-- ==== Sys2Proof/Machine/Engines.lean ====
section
/-! DEFINITION. Data moved by engines and sequencers: checked writes at the home with their stash (R259, R260, R309), copies
and fills (R35, R376), Mica commands entering their stacks (R215). -/

namespace Sys2Proof.Machine

/-- A refused request is logged (R260, R504). Kinds: 0 read, 1 write, 2 atomic, 3 Flint, 4 Mica (assumption 6). -/
def State.logRefused (s : State) (src : Src) (c : Option Nat) (a kind : Nat) : State :=
  s.log .granuleRefused .notice (s.stackOf a) noVein src.code (ctxNo c) 0 (s.fab.self * 2 ^ 48 + a) kind

/-- The log entry of a granule refusal, its own or the one that it was folded into. -/
def State.refusedSeq (s : State) (src : Src) (a : Nat) : Nat := s.entrySeq .granuleRefused (s.stackOf a) src.code

/-- Cause detail of a granule refusal that was just logged (R370). -/
def State.refusedDetail (s : State) (src : Src) (a : Nat) : Detail :=
  mkDetail 0x41 (some (s.fab.self * 2 ^ 48 + a)) 0 (s.refusedSeq src a)

/-- The physical tile that a stash hint names: logical id in a vein, if it is one of the vein's tiles (R309). -/
def State.stashTile (s : State) (v logical : Nat) : Option Nat :=
  match s.vein? v with
  | some x => if logical < x.tileCount then tblFind s.strata.str.tileMap (x.tileFirst + logical) else none
  | none => none

/-- Back-invalidate snoops that the host has been sent and has not answered (R314). -/
def State.biOut (s : State) : Nat :=
  (s.homes.txns.filter (fun e => e.2.waiting.contains 416 && !s.homes.biWait.contains e.1)).length

/-- The back-invalidate snoop of a transaction is sent; beyond 256 outstanding it waits at its home (R314), as it does while the sources are
held (R25). -/
def State.sendBi (s : State) (txn : Nat) (k : Snoop) : State :=
  if s.sourcesHeld || decide (256 < s.biOut) then { s with homes := { s.homes with biWait := s.homes.biWait ++ [txn] } } else s.emit (.snoopHost txn k)

/-- Those that waited are sent as places come free. -/
def State.flushBi (s : State) : State :=
  if s.sourcesHeld then s else
  let wait := s.homes.biWait.filter (fun n => (tblFind s.homes.txns n).isSome)
  let s := { s with homes := { s.homes with biWait := wait } }
  let go := wait.take (256 - s.biOut)
  let s := { s with homes := { s.homes with biWait := wait.drop (256 - s.biOut) } }
  go.foldl (fun s n => match tblFind s.homes.txns n with
    | some x => { s with homes := { s.homes with txns := tblPut s.homes.txns n { x with since := s.now } } }.emit (.snoopHost n x.snoop)
    | none => s) s

/-- A back-invalidate snoop for a sector, unless one is under way (R314). Transactions of the homes that belong to no packet
carry packet number 0. -/
def State.askHost (s : State) (sector : Nat) (k : Snoop) (pkt : Nat) : State :=
  if s.homes.txns.any (fun e => e.2.sector == sector && e.2.waiting.contains 416) then s
  else
    let id := s.nextId
    ({ s with homes := { s.homes with txns := tblPut s.homes.txns id ⟨pkt, sector, k, [416], [], [], s.now⟩ } }.bump).sendBi id k

/-- Back-invalidates for a block's sectors that the host may hold; its presence bit goes with the last of them. -/
def State.recallBlock (s : State) (b : Nat) : State :=
  let xs := ([0, 1, 2, 3].map (fun i => 4 * b + i)).filter (fun x => decide (s.sectSt x ≠ .i))
  if xs.isEmpty then s.dropHolder (4 * b) 416 else xs.foldl (fun s x => s.askHost x .inv 0) s

/-- The home sends the sectors of a stash write to the named tile, behind the write, and sets its presence bit (R309). A block for
which the directory can make room only by a back-invalidate has its room made, and is not delivered. -/
def State.sendStash (s : State) (stash : Option Nat) (a n : Nat) : State :=
  match stash with
  | none => s
  | some t =>
    (sectorsOf a n).foldl (fun s x =>
      match s.roomHeld (x / 4) with
      | some b => s.recallBlock b
      | none =>
        let st := s.sectSt x
        let s := s.addHolder x t (if decide (st = .i) then .s else st)
        s.sendPkt (.quartz) none (.stash x t (decide (a ≤ 128 * x) && decide (128 * x + 128 ≤ a + n))) none) s

/-- Bytes with one poison flag each. -/
def flagged (bs : List Byte) (p : Bool) : List (Byte × Bool) := bs.map (fun b => (b, p))

/-- Latest bytes of device memory, each with its word's P bit. -/
def State.readFlagged (s : State) (a n : Nat) : List (Byte × Bool) :=
  (List.range n).map (fun i => (s.latestByte (a + i), s.latestPoison ((a + i) / 8)))

/-- Flagged bytes applied at the home, piece by piece (R300), with the use that the write makes of the quarry cache (R242, R243). -/
def State.storeFlagged (s : State) (writer : Option Nat) (a : Nat) (bs : List (Byte × Bool)) (u : Option QcUse) : State :=
  (pieces a bs.length).foldl (fun s c =>
    let part := (bs.drop c.1).take c.2.2
    s.homeStore writer c.2.1 (part.map (·.1)) (part.any (·.2)) u) s

/-- The vein of a task, by which its engines allocate (R243). -/
def State.taskVein (s : State) (task : Option Nat) : Nat := ((task.bind s.task?).map (·.vein)).getD noVein

/-- An engine's write of one contiguous device range: checked, applied, stashed. A refusal has no effect on memory and
stops the task (R260). -/
def State.engineStore (s : State) (src : Src) (c : Option Nat) (task : Option Nat) (a : Nat) (bs : List (Byte × Bool))
    (stash : Option Nat) : State × Bool :=
  if s.rangePass c a bs.length then ((s.storeFlagged none a bs (s.qcUseOf (s.taskVein task) c a true)).sendStash stash a bs.length, true)
  else
    let s := s.logRefused src c a 1
    (s.taskFault? task .accessDenied (s.refusedDetail src a), false)

/-- The tile of its own vein that a task's stash hint names. -/
def State.hintTile (s : State) (c : Nat) (stash : Option Nat) : Option Nat :=
  match s.ctx? c with
  | some x => stash.bind (s.stashTile x.vein)
  | none => none

/-- Flagged bytes written to a device-virtual range by an engine of a task, 4 KiB part by part; it stops at the first
refusal, and at a device that is down (R443). `stash`: a vein-relative logical tile. Answers the bytes written. -/
def State.engineWrite (s : State) (src : Src) (c : Nat) (segs : Tbl Segment) (task : Option Nat) (va : Nat)
    (bs : List (Byte × Bool)) (stash : Option Nat) : State × Nat :=
  let r := (chunks4K va bs.length).foldl (fun (p : State × Nat × Bool) x =>
    if p.2.2 then
      let part := (bs.drop x.1).take x.2.2
      match p.1.reach src c segs x.2.1 true with
      | .to (.device a checked) _ =>
        let q := p.1.engineStore src (if checked then some c else none) task a part (p.1.hintTile c stash)
        if q.2 then (q.1, p.2.1 + part.length, true) else (q.1, p.2.1, false)
      | .to (.remote dev a) _ =>
        let s' := p.1.sendPut src c task dev a part stash
        let up := (p.1.fabDown dev).isNone
        (s'.noteWrites task (idsBetween p.1 s'), p.2.1 + (if up then part.length else 0), up)
      | .to (.host pa io) _ =>
        let s' := (lines64 pa part.length).foldl (fun (s : State) l =>
          let bs := (part.drop l.1).take l.2.2
          s.sendWrite src c task (.host l.2.1 io) (bs.map (·.1)) (bs.any (·.2)) none) p.1
        (s'.noteWrites task (idsBetween p.1 s'), p.2.1 + part.length, true)
      | _ => (p.1, p.2.1, false)
    else p) (s, 0, true)
  (r.1.dropGrants src, r.2.1)

/-- Bytes of a copy's source as its engine read them: a line of its source-line cache as it was, another, or any
where the cache is disabled, as it is (R236, R311). -/
def State.copyBytes (s : State) (x : Task) (a n : Nat) : List (Byte × Bool) :=
  (s.readFlagged a n).zipIdx.map (fun b => match (if s.srcCache x then tblFind x.srcLines (sectorOf (a + b.2)) else none) with
    | some l => nth b.1 l ((a + b.2) % 128)
    | none => b.1)

/-- Flagged bytes of a device-virtual source: device ranges are read at their homes (R310); host ranges come with the
command; remote ranges are in the get responses. -/
def State.engineRead (s : State) (src : Src) (x : Task) (va n : Nat) (outside : List (Byte × Bool)) :
    List (Byte × Bool) :=
  (pieces va n).foldl (fun acc p =>
    match s.reach src x.context x.segs p.2.1 false with
    | .to (.device a _) _ => acc ++ s.copyBytes x a p.2.2
    | _ => acc ++ ((outside.drop p.1).take p.2.2)) []

/-- Where a context's child list lies, in this block's memory: address, length (R349). -/
def localParts (segs : Tbl Segment) (va n : Nat) : List (Nat × Nat) :=
  (chunks4K va n).filterMap (fun p => (findSeg segs p.2.1).map (fun g => (g.local' p.2.1, p.2.2)))

/-- The first device address of a source range that an owner tag refuses (R259). -/
def State.refusedRead (s : State) (src : Src) (c : Nat) (segs : Tbl Segment) (va n : Nat) : Option Nat :=
  (pieces va n).findSome? (fun x =>
    match s.reach src c segs x.2.1 false with
    | .to (.device a true) _ => if s.rangePass (some c) a x.2.2 then none else some a
    | _ => none)

/-- Responses of a source are taken. -/
def State.takeRsps (s : State) (src : Src) : State :=
  { s with rsps := s.rsps.filter (fun e => !decide (e.2.dst = src)) }

/-- Open bytes, where a value the spec does not state is written. -/
def State.openBytes (s : State) (n : Nat) : List Byte :=
  (List.range n).map (fun i => BitVec.ofNat 8 (Config.freeWord (s.free + i)).toNat)

/-! ## Host members of a range (R314) -/

/-- The sectors of a range that the host holds in M, or, for a write, in any state. -/
def State.hostHeld (s : State) (a n : Nat) (write : Bool) : List Nat :=
  (sectorsOf a n).filter (fun x =>
    (s.hostOwns x && (write || !setHas s.homes.fresh x)) || (write && setHas (s.dirEntry (x * 128)).presence 416 && decide (s.sectSt x ≠ .i)))

/-- The data that a BISnpCur brought has been read (R310, R314). -/
def State.dropFresh (s : State) (a n : Nat) : State :=
  { s with homes := { s.homes with fresh := s.homes.fresh.filter (fun x => !(sectorsOf a n).contains x) } }

/-- Back-invalidate snoops for every host-held sector of a device range that a task's engine is to write or read. -/
def State.recallHost (s : State) (a n : Nat) (write : Bool) : State :=
  (s.hostHeld a n write).foldl (fun s x => s.askHost x (if write then .inv else .cur) 0) s

/-- The device parts of a device-virtual range. -/
def State.deviceParts (s : State) (src : Src) (c : Nat) (segs : Tbl Segment) (va n : Nat) (write : Bool) : List (Nat × Nat) :=
  (chunks4K va n).filterMap (fun x =>
    match s.reach src c segs x.2.1 write with
    | .to (.device a _) _ => some (a, x.2.2)
    | _ => none)

/-- A transaction of the homes is in progress on a sector of a range: a conflicting access waits for it (R308). -/
def State.inTxn (s : State) (a n : Nat) : Bool := s.homes.txns.any (fun e => (sectorsOf a n).contains e.2.sector)

/-- No sector of the range awaits the host or is in a transaction, and no tile's progress lock holds a write of it (R303, R308, R314). -/
def State.hostClear (s : State) (src : Src) (c : Nat) (segs : Tbl Segment) (va n : Nat) (write : Bool) : Bool :=
  (s.deviceParts src c segs va n write).all (fun p =>
    (s.hostHeld p.1 p.2 write).isEmpty && !s.inTxn p.1 p.2 && !(write && s.lockedFor none p.1 p.2))

/-- A block for whose directory entry a stash write's home has to recall the host's copies of another first (R307, R309). -/
def State.stashRoom (s : State) (src : Src) (c : Nat) (segs : Tbl Segment) (va n : Nat) (stash : Option Nat) : Option Nat :=
  if (s.hintTile c stash).isNone then none
  else (s.deviceParts src c segs va n true).findSome? (fun p => (blocksOf p.1 p.2).findSome? s.roomHeld)

/-- The host's parts of a source may have been answered (R403, R408, R411). -/
def State.answersOf (s : State) (src : Src) (c : Nat) (segs : Tbl Segment) (va n : Nat) (h : HostData) : Bool :=
  (chunks4K va n).all (fun p => match s.reach src c segs p.2.1 false with
    | .to d _ => s.answersAt d h
    | _ => true)

/-- Where host memory refuses a range: the host-physical address that its start is translated to (R425). -/
def State.hostPa (s : State) (src : Src) (c : Nat) (segs : Tbl Segment) (va : Nat) : Nat :=
  match s.reach src c segs va false with
  | .to (.host pa _) _ => pa
  | _ => va

/-- Back-invalidate snoops for the whole range. -/
def State.recallRange (s : State) (src : Src) (c : Nat) (segs : Tbl Segment) (va n : Nat) (write : Bool) : State :=
  (s.deviceParts src c segs va n write).foldl (fun s p => s.recallHost p.1 p.2 write) s

/-- Every host page of a range is translated; else the first missing one is asked for (R276, R283). -/
def State.ready (s : State) (src : Src) (c va n : Nat) (write : Bool) : Bool := (s.firstMiss src c va n write).isNone
def State.askRange (s : State) (src : Src) (c va n : Nat) (write : Bool) : State :=
  match s.firstAsk src c va n write with
  | some p => s.askXlate src (s.pasidOf c) p write true
  | none => s

/-! ## Mica commands enter their stacks (R215) -/

/-- Members of a Mica command. -/
def MicaBlock.members (b : MicaBlock) : List Nat := (List.range 8).filter (fun q => b.stackMask.getLsbD q)

/-- A member's stack holds 16 waiting commands: a new one waits at its issuer (R215). -/
def State.micaNoRoom (s : State) (b : MicaBlock) : Bool := b.members.any (fun m => decide (16 ≤ (tblGet [] s.mica.queue m).length))

def State.micaFull (s : State) (id : Nat) : Bool :=
  match tblFind s.mica.cmds id with
  | some c => s.micaNoRoom c.block
  | none => false

/-- A Mica command is sent to its stacks; `ahead` released effects of its tile that have not left yet come before it (R213). -/
def State.micaEnqueue (s : State) (id ahead : Nat) : State :=
  match tblFind s.mica.cmds id with
  | some c =>
    { s with mica := { s.mica with
        cmds := tblPut s.mica.cmds id { c with ahead := ahead, limit := s.nextId }
        queue := c.block.members.foldl (fun q m => tblPut q m (tblGet [] q m ++ [id])) s.mica.queue } }
  | none => s

/-- An effect of a tile has left: it is one less that a Mica command of the tile waits for (R213). -/
def State.micaBehind (s : State) (t : Nat) : State :=
  { s with mica := { s.mica with cmds := s.mica.cmds.map (fun (e : Nat × MicaCmd) =>
      if decide (e.2.issuer = some t) && decide (0 < e.2.ahead) then (e.1, { e.2 with ahead := e.2.ahead - 1, limit := s.nextId }) else e) } }

/-- A Mica command leaves its stacks (R222, R118). -/
def State.micaRemove (s : State) (id : Nat) : State :=
  { s with mica := { s.mica with
      cmds := tblDel s.mica.cmds id
      queue := s.mica.queue.map (fun e => (e.1, e.2.filter (fun i => i != id)))
      running := s.mica.running.filter (fun e => e.2 != id) } }

end Sys2Proof.Machine
end

