-- ==== Sys2Proof/Machine/Stops.lean ====
section
/-! DEFINITION. How effects leave a tile (R138, R297, R230), how tiles and tasks stop (R190, R384), when a task becomes due
(R38, R323), how Flint waits end (R334, R354, R356), and how a vein goes DOMAIN_DOWN (R318). -/

namespace Sys2Proof.Machine

/-! ## Flint objects, evicted images, wakes -/

/-- The status word of an object (R361), without the NAMED and VEIN fields of its number. -/
def Obj.flags (o : Obj) : Nat :=
  b2n o.barrier + 2 * b2n o.unbounded + 4 * b2n o.phase + 8 * b2n o.pendingUp + 16 * (o.state % 4) + 64 * b2n o.ovf
    + 128 * b2n o.unf + 256 * b2n o.abandoned + 512 * b2n o.above + 2 ^ 16 * (o.owner % 4096)

/-- The vein whose Flint range holds an object (R58, R361). -/
def State.objVein (s : State) (n : Nat) : Option Nat :=
  (s.strata.str.veins.find? (fun e => decide (e.2.flintFirst ≤ n) && decide (n < e.2.flintFirst + e.2.flintCount))).map (·.1)

/-- R361. -/
def State.statusWord (s : State) (n : Nat) (o : Obj) : Nat :=
  o.flags + match s.objVein n with
    | some v => 2 ^ 32 * v + 2 ^ 37
    | none => 0

/-- The 64-byte record of an object (R356). -/
def State.record (s : State) (n : Nat) (o : Obj) : List Byte :=
  leBytes 4 o.value ++ leBytes 4 o.limit ++ leBytes 8 (s.statusWord n o) ++ leBytes 2 o.parentDevice ++
    leBytes 2 (o.parentObject % 2 ^ 14 + 2 ^ 15 * b2n o.hasParent) ++ leBytes 2 o.childCount ++
    leBytes 2 (o.vector % 2 ^ 11 + 2 ^ 15 * b2n o.notify) ++ leBytes 8 o.childList ++ leBytes 8 o.when' ++ leBytes 24 0

/-- The object that a record holds (R356). -/
def ofRecord (b : List Byte) : Obj :=
  let f (o n : Nat) : Nat := leNat ((b.drop o).take n)
  let w := f 8 8
  { value := f 0 4, limit := f 4 4, barrier := bit w 0, unbounded := bit w 1, phase := bit w 2, pendingUp := bit w 3
    state := 2, ovf := bit w 6, unf := bit w 7, abandoned := bit w 8, above := bit w 9, owner := bits w 16 12
    parentDevice := f 0x10 2, parentObject := f 0x12 2 % 2 ^ 14, hasParent := bit (f 0x12 2) 15, childCount := f 0x14 2
    vector := f 0x16 2 % 2 ^ 11, notify := bit (f 0x16 2) 15, childList := f 0x18 8, when' := f 0x20 8 }

/-- LOCAL address of an evicted object's record (R352). -/
def State.imageAt (s : State) (n : Nat) : Option Nat :=
  match s.ctx? (s.obj n).owner with
  | some c =>
    match c.evicted with
    | some e =>
      let va := e.image + 64 * (n - e.first)
      (findSeg c.segs va).map (fun g => g.local' va)
    | none => none
  | none => none

/-- An object as every interface sees it: an EVICTED one is its image (R352). -/
def State.objView (s : State) (n : Nat) : Obj :=
  if (s.obj n).state = 2 then
    match s.imageAt n with
    | some a => { ofRecord (s.readLatest a 64) with owner := (s.obj n).owner }
    | none => s.obj n
  else s.obj n

/-- An object changed: at its home, or in its image (R352, R358). -/
def State.putObj (s : State) (n : Nat) (o : Obj) : State :=
  if (s.obj n).state = 2 then
    match s.imageAt n with
    | some a => s.homeStore none a (s.record n { o with state := 1 }) false
    | none => s.setObj n o
  else s.setObj n o

/-- The waiters of the homes change, and the mirrors' copies with them (R334, R358). -/
def State.putWaiters (s : State) (ws : List Waiter) : State :=
  { s with flint := { s.flint with
      waiters := ws
      mirrorWaiters := ws.filter (fun w => match w.obj with
        | some n => !setHas s.flint.unmirrored (n / 2048)
        | none => false) } }

/-- A wait ends: the waiter leaves the home and its wake is sent (R334). -/
def State.wake (s : State) (w : Waiter) (value : Nat) (aband pois : Bool) : State :=
  let s := s.putWaiters (s.flint.waiters.filter (fun x => x.seq != w.seq))
  { s with flint := { s.flint with
      wakes := tblPut s.flint.wakes s.nextId ⟨w.who, w.seq, value, aband, pois⟩
      abandons := if aband then satAdd 16 s.flint.abandons 1 else s.flint.abandons } }.bump

/-- A waiter is removed without a wake (R347, R351). -/
def State.dropWait (s : State) (who : WaitRef) : State :=
  s.putWaiters (s.flint.waiters.filter (fun x => decide (x.who ≠ who)))

/-- An object becomes ABANDONED; every waiter wakes with ABANDONED, and a phase whose child list is being read does not complete (R354). -/
def State.abandon (s : State) (n : Nat) : State :=
  let ws := s.flint.waiters.filter (fun w => decide (w.obj = some n))
  let s := { s with flint := { s.flint with childReads := setDel s.flint.childReads n } }.putObj n { s.objView n with abandoned := true }
  ws.foldl (fun s w => s.wake w (s.objView n).value true false) s

/-! ## Effects leave a tile -/

/-- A write acknowledgement that the tile awaits: of an instruction at `pc`, to `va`. -/
def ackOp (device : Bool) (pc va id : Nat) : PendOp :=
  ⟨id, .ack, 0, 0, 0, false, [], false, [(id, 0, 0)], [], false, device, pc, va⟩

/-- A tile awaits the acknowledgements of the requests that were just sent, and its task counts them as unseen (R323). -/
def State.noteTile (s : State) (t : Nat) (device : Bool) (pc va : Nat) (ids : NSet) : State :=
  let s := s.modTile t (fun x => { x with pend := x.pend ++ ids.map (ackOp device pc va) })
  s.noteWrites (s.tile t).task ids

/-- The request of a value-returning operation outside the tile (R168, R169, R184, R302, R337). `op`: 0 add, 1 swap,
2 compare-and-swap. -/
def askReq (kind : PendKind) (a size op cmp v : Nat) (pois : Bool) : Req :=
  match kind with
  | .reserve => .lr a (size == 8)
  | .cond => .sc a (size == 8) v pois
  | .atomic => .amo a (size == 8) op cmp v pois
  | .take => .feTake a
  | .peek => .fePeek a false
  | .sample => .fePeek a true
  | _ => .read a size false

/-- The instruction that a request serves, for its traps and for the Device rule (R188, R298). -/
structure Origin where
  device : Bool
  pc : Nat
  va : Nat
deriving DecidableEq, Repr

/-- A value-returning operation is sent; the destination register waits for its result. -/
def State.sendAsk (s : State) (t : Nat) (o : Origin) (kind : PendKind) (d : Dest) (size op cmp v : Nat) (rd : Reg) (pd : PReg)
    (zx acquire pois : Bool) (overlay : List (Nat × Byte × Bool)) : State :=
  let id := s.nextId
  let c := ((s.tile t).context).getD 0
  let task := (s.tile t).task
  let s := match d with
    | .device a checked => s.sendPkt (.tile t) (if checked then some c else none) (askReq kind a size op cmp v pois) task
    | .host pa io => s.sendUp ⟨.tile t, task, if io then .ioRead else .rdCurr, s.pasidOf c, pa, size, [], false, s.inPeerWindow pa, false, none, none⟩
    | .remote dev a =>
      match kind with
      | .atomic => s.fabSend (mkFab dev (.tile t) c task (if op = 0 then 2 else 3) a [] pois v cmp)
      | _ => s.fabSend (mkFab dev (.tile t) c task 1 a (List.replicate size 0) false 0 0)
  s.modTile t (fun x => { x with pend := x.pend ++
    [⟨id, kind, rd, pd, size, zx, List.replicate size 0, false, [(id, 0, size)], overlay, acquire, o.device, o.pc, o.va⟩] })

/-- Bytes that an effect writes to memory outside the tile (R369); those of an atomic count at its answer. -/
def Effect.outBytes : Effect → Nat
  | .write _ bs _ => bs.length
  | .put _ _ bs => bs.length
  | .fill _ _ _ => 8
  | _ => 0

/-- Bytes written count in the completion of a task (R369). -/
def State.countBytes (s : State) (k : Option Nat) (n : Nat) : State :=
  match k with
  | some k => if n = 0 then s else s.modTask k (fun x => { x with bytes := x.bytes + n })
  | none => s

/-- The tile's own copies of a range of host memory, which has no home to snoop them, leave its data cache (R227). -/
def State.ownCopies (s : State) (t : Nat) (d : Dest) (n : Nat) : State :=
  match d with
  | .device _ _ => s
  | .host pa _ => s.modTile t (fun x =>
      { x with dcache := x.dcache.filter (fun l =>
          !(l.host && decide (l.line * s.lineSize t < pa + n) && decide (pa < (l.line + 1) * s.lineSize t))) })
  | .remote _ _ => s

/-- Packets just sent are a tensor move's (R227). -/
def State.asMove (s : State) (ids : NSet) : State :=
  { s with pkts := s.pkts.map (fun e => if ids.contains e.1 then (e.1, { e.2 with mover := true }) else e) }

/-- One effect goes out (R138, R151). A move's data does not pass by way of the tile's data cache, which its home snoops (R227). -/
def State.sendEffect (s : State) (t : Nat) (h : Held) : State :=
  let e := h.eff
  let note (s : State) (ids : NSet) : State := s.noteTile t h.device h.pc h.va ids
  let o : Origin := ⟨h.device, h.pc, h.va⟩
  let x := s.tile t
  let c := x.context.getD 0
  let s := s.countBytes x.task e.outBytes
  let fl (s : State) : State := if x.isProtected then s else s.flushTile t
  match e with
  | .write d bs p =>
    let s := if h.move.isSome then s.ownCopies t d bs.length else s
    let s' := s.sendWrite (.tile t) c x.task d bs p none
    note (if h.move.isSome then s'.asMove (idsBetween s s') else s') (idsBetween s s')
  | .put dev a bs =>
    let s' := s.sendPut (.tile t) c x.task dev a bs none
    note s' (idsBetween s s')
  | .sig dev obj sub amount =>
    let s := fl s
    let s' := match dev with
      | none => s.sendPkt (.tile t) (some c) (if sub then .flintSub obj amount else .flintAdd obj amount) x.task
      | some d => s.fabSend (mkFab d (.tile t) c x.task (if sub then 5 else 4) obj [] false amount 0)
    note s' (idsBetween s s')
  | .arrive dev obj rd =>
    let s := fl s
    let id := s.nextId
    let s' := match dev with
      | none => s.sendPkt (.tile t) (some c) (.flintArrive obj) x.task
      | some d => s.fabSend (mkFab d (.tile t) c x.task 6 obj [] false 0 0)
    match rd with
    | none => note s' (idsBetween s s')
    | some r =>
      (s'.modTile t (fun x => { x with pend := x.pend ++
        [⟨id, .arrive, r, 0, 8, true, [], false, [(id, 0, 0)], [], false, h.device, h.pc, h.va⟩] })).noteWrites x.task [id]
  | .fill d v p =>
    let s := fl s
    let s' := match d with
      | .device a checked => s.sendPkt (.tile t) (if checked then some c else none) (.feFill a v p) x.task
      | .remote dev a => s.fabSend (mkFab dev (.tile t) c x.task 8 a (leBytes 8 v) p v 0)
      | .host _ _ => s
    note s' (idsBetween s s')
  | .mica id => s.micaEnqueue id 0
  | .ask k d size op cmp v rd pd zx acq pois =>
    (match k with
      | .atomic => (s.sendAsk t o k d size op cmp v rd pd zx acq pois []).noteWrites x.task [s.nextId]
      | .cond => (s.sendAsk t o k d size op cmp v rd pd zx acq pois []).noteWrites x.task [s.nextId]
      | _ => s.sendAsk t o k d size op cmp v rd pd zx acq pois [])

/-- The tile has writes not yet acknowledged (R295, R297). -/
def Tile.unacked (x : Tile) : Bool :=
  x.pend.any (fun p => decide (p.kind = .ack) || decide (p.kind = .atomic) || decide (p.kind = .cond) || decide (p.kind = .arrive))

/-- The device an effect goes to, where it goes to another device. -/
def Effect.remoteOf : Effect → Option Nat
  | .write (.remote d _) _ _ => some d
  | .put d _ _ => some d
  | .sig d _ _ _ => d
  | .arrive d _ _ => d
  | .fill (.remote d _) _ _ => some d
  | .ask _ (.remote d _) _ _ _ _ _ _ _ _ _ => some d
  | _ => none

/-- The effect is an output that carries poison (R121). -/
def Effect.poisoned : Effect → Bool
  | .write _ _ p => p
  | .put _ _ bs => bs.any (·.2)
  | .fill _ _ p => p
  | .ask _ _ _ _ _ _ _ _ _ _ p => p
  | _ => false

/-- Every unacknowledged write of the tile went to one other device: the exception of R295. -/
def State.onlyTo (s : State) (t d : Nat) : Bool :=
  (s.tile t).pend.all (fun p => p.waits.all (fun w =>
    match tblFind s.fab.ops w.1 with
    | some o => o.device == d
    | none => false))

/-- Requests made under a withdrawn translation join what the invalidations wait for (R280). -/
def State.stale (s : State) (ids : NSet) (page : Nat) : State :=
  { s with xlat := { s.xlat with
      invals := s.xlat.invals.map (fun (i : Option Nat × Nat × Tbl Nat) => (i.1, i.2.1, ids.foldl (fun m k => tblPut m k page) i.2.2)) } }

/-- The page of an effect's requests to host memory. -/
def State.notePage (s : State) (ids : NSet) (va : Nat) : State :=
  if isHostVa va then
    { s with host := { s.host with up := s.host.up.map (fun (e : Nat × UpReq) =>
        if ids.contains e.1 then (e.1, { e.2 with page := some (hostAddr va / 4096) }) else e) } }
  else s

/-- A value-returning operation among the released effects. -/
def Held.asks (h : Held) : Bool :=
  match h.eff with
  | .ask _ _ _ _ _ _ _ _ _ _ _ => true
  | _ => false

/-- An effect waits for the acknowledgements of the tile's earlier writes: one with the release mark, one behind a store fence, and a
value-returning one with the acquire mark, which keeps its place among the releases (R293, R297). -/
def Held.ordered (h : Held) : Bool :=
  h.release || h.fenced || (match h.eff with
    | .ask _ _ _ _ _ _ _ _ _ acq _ => acq
    | _ => false)

/-- Released effects drain in program order; an ordered effect waits for the earlier writes' acknowledgements (R297, R295), and a
Device access for the acknowledgement of the tile's previous one (R298). -/
def State.drain (s : State) (t : Nat) : Nat → State
  | 0 => s
  | n + 1 =>
    match (s.tile t).released with
    | [] => s
    | h :: rest =>
      let exempt := match h.eff.remoteOf with
        | some d => h.release && s.onlyTo t d
        | none => false
      let full := match h.eff with
        | .mica id => s.micaFull id
        | _ => false
      if full || (h.ordered && (s.tile t).unacked && !exempt) || (h.device && ((s.tile t).pend.any (·.device) || (s.tile t).moves.any (·.device))) then s
      else
        let s := if h.eff.poisoned then s.taskFault? (s.tile t).task .poisonedOutput (mkDetail 0x4A (some h.va) 0 0) else s
        let r := (s.modTile t (fun x => { x with released := rest })).sendEffect t h
        let s' := (r.notePage (idsBetween s r) h.va).micaBehind t
        (if h.retranslate then s'.stale (idsBetween s s') (hostAddr h.va / 4096) else s').drain t n

/-- The wait of a `fullfence` for the tile's earlier writes is over once none is out (R294, R304). -/
def Tile.observed (x : Tile) : Tile :=
  if decide (x.run ≠ .committing) && x.held.isEmpty && x.released.isEmpty && !x.unacked then { x with observe := false } else x

/-- Everything that may drain. -/
def State.drainAll (s : State) (t : Nat) : State := (s.drain t (s.tile t).released.length).modTile t Tile.observed

/-- Mica commands that waited at their issuers for a place in their stacks' queues leave as places come free (R215). -/
def State.micaWake (s : State) : State :=
  (s.tiles.filter (fun e => match e.2.released with
    | h :: _ => (match h.eff with
      | .mica _ => true
      | _ => false)
    | [] => false)).foldl (fun s e => s.drainAll e.1) s

/-! ## A task becomes due -/

/-- A tile of an ended launch has nothing left under way. -/
def Tile.quiet (x : Tile) : Bool :=
  (decide (x.run = .halted) || decide (x.run = .stopped)) && x.released.isEmpty && x.moves.isEmpty && x.pend.isEmpty
    && x.matQueue.isEmpty && x.mmaRunning.isNone && x.accOps.isEmpty && x.micas.isEmpty && x.miss.isNone

/-- The tiles of a launch. -/
def State.gridTiles (s : State) (k : Nat) : List Nat :=
  (s.tiles.filter (fun e => decide (e.2.task = some k))).map (·.1)

/-- A launch ends when every tile of its grid is quiet (R137); its tiles are free again. -/
def State.endLaunch (s : State) (k : Nat) : State :=
  let ts := s.gridTiles k
  if ts.all (fun t => (s.tile t).quiet) then
    (ts.foldl (fun s t => s.modTile t (fun x => { x with run := .none, task := none, waitSeq := none, gated := [0, 1, 2, 3] })) s).modTask k
      (fun x => { x with phase := .ended })
  else s

/-- A task whose parts have ended becomes due once every write of it is globally observed (R38, R323). -/
def State.settle (s : State) (k : Nat) : State :=
  match s.task? k with
  | none => s
  | some x =>
    let s := match x.body, x.phase with
      | .launch _, .running => s.endLaunch k
      | _, _ => s
    s.modTask k (fun x => if decide (x.phase = .ended) && x.unseen.isEmpty then x.toDue s.now else x)

/-- A task's parts have ended. -/
def State.finish (s : State) (k : Nat) : State := (s.modTask k (fun x => { x with phase := .ended })).settle k

/-- A write of a task is globally observed. -/
def State.seen (s : State) (task : Option Nat) (id : Nat) : State :=
  match task with
  | some k => (s.modTask k (fun x => { x with unseen := setDel x.unseen id })).settle k
  | none => s

/-- A task ends with a fault before it ran, or an engine stops it. -/
def State.failTask (s : State) (k : Nat) (st : Status) (d : Detail) : State := (s.taskFault k st d).finish k

/-! ## A grid stops (R190) -/

/-- A tile stops: a store that has retired keeps its miss (R231); held effects are discarded, a Mica command into its own memory ends (R118), its wait is removed; released
effects, moves and matrix instructions that have retired run to their end (R118, R150). -/
def State.stopTile (s : State) (t : Nat) : State :=
  let x := s.tile t
  let mine := x.micas.filter (fun m => m.2.2)
  let s := mine.foldl (fun s m => s.micaRemove m.1) s
  let heldMica := x.held.filterMap (fun h => match h.eff with | .mica id => some id | _ => none)
  let s := heldMica.foldl (fun s id => s.micaRemove id) s
  let s := { s with rsps := s.rsps.filter (fun e => !x.ifetch.any (fun f => f.1 == e.1)) }
  let s := (s.dropWait (.tile t)).modTile t (fun x => { x with
    run := .stopped, held := [], micas := x.micas.filter (fun m => !mine.contains m && !heldMica.contains m.1)
    reservation := none, miss := x.miss.filter (fun m => m.store.isSome), ifetch := []
    fencePending := false, fullFence := false, observe := false, waitSeq := none, waitAddr := none
    pend := x.pend.filter (fun p => decide (p.kind = .ack) || decide (p.kind = .arrive) || decide (p.kind = .cond)
      || decide (p.kind = .atomic))
    gated := setDel x.gated 0 })
  { s with homes := { s.homes with
      resv := s.homes.resv.filter (fun r => r.tile != t), locks := s.homes.locks.filter (fun l => l.2.1 != t) } }

/-- Mica commands into a tile's own memory end, their results discarded (R118, R222). -/
def State.dropMicas (s : State) (t : Nat) : State :=
  (((s.tile t).micas.filter (fun m => m.2.2)).foldl (fun s m => s.micaRemove m.1) s).modTile t (fun x =>
    { x with micas := x.micas.filter (fun m => !m.2.2) })

/-- Every tile of a grid that has not ended stops (R190); of one that has ended, what Mica still does in its memory (R222). -/
def State.gridStop (s : State) (k : Nat) : State :=
  let s := (s.gridTiles k).foldl (fun s t =>
    if decide ((s.tile t).run = .halted) || decide ((s.tile t).run = .stopped) then s.dropMicas t else s.stopTile t) s
  (s.modTask k (fun x => { x with stopping := true })).settle k

/-- The vein-relative logical id of a tile (R133). -/
def State.logicalOf (s : State) (t : Nat) : Nat :=
  match s.vein? (s.tile t).vein with
  | some v => (s.tile t).logical - v.tileFirst
  | none => (s.tile t).logical

/-- A trap: its own log entry, its fault in the launch, and the stop of the grid (R188 to R190). -/
def State.trapAt (s : State) (t : Nat) (cause : Trap) (address : Option Nat) (pc : Nat) : State :=
  let x := s.tile t
  let l := s.logicalOf t
  let s := s.log .tileTrap .notice (quarryOf t) x.vein t (ctxNo x.context) 0 (cause.code + 256 * (l % 512)) pc
  match x.task with
  | none => s
  | some k =>
    let s := s.taskFault k cause.status ⟨cause.code, some l, some pc, address, 0, s.entrySeq .tileTrap (quarryOf t) t⟩
    (s.modTask k (fun y => { y with trapped := y.trapped + 1 })).gridStop k

/-- A trap of the instruction at the program counter. -/
def State.trap (s : State) (t : Nat) (cause : Trap) (address : Option Nat) : State := s.trapAt t cause address (s.tile t).pc

/-- A refusal or a fault that is no trap stops a launch with its status (R190, R131, R443). -/
def State.stopLaunch (s : State) (k : Nat) (st : Status) (d : Detail) : State := (s.taskFault k st d).gridStop k

/-! ## A task is aborted (R384) -/

/-- Bytes already written when a copy or fill stops at a 4 KiB boundary of the destination (R384): an open count. -/
def stopLen (dst len limit choice : Nat) : Nat :=
  let cs := (chunks4K dst len).filter (fun c => decide (c.1 + c.2.2 ≤ limit))
  (cs.take (choice % (cs.length + 1))).foldl (fun a c => a + c.2.2) 0

/-- Bytes of a copy's or fill's destination before the first part whose sectors the host holds, or that a transaction or a lock keeps from
the writer: the engine writes none of them (R303, R308, R314). -/
def State.writable (s : State) (k : Nat) (x : Task) (dst len : Nat) : Nat :=
  match (chunks4K dst len).find? (fun p => !s.hostClear (.copy k) x.context x.segs p.2.1 p.2.2 true) with
  | some p => p.1
  | none => len

/-- Bytes of a copy's source before the first part that is not translated or that an owner tag refuses (R260, R276). -/
def State.readable (s : State) (k : Nat) (x : Task) (src len : Nat) : Nat :=
  match (pieces src len).find? (fun p =>
      match s.reach (.copy k) x.context x.segs p.2.1 false with
      | .to (.device a checked) _ => checked && !s.rangePass (some x.context) a p.2.2
      | .to _ _ => false
      | _ => true) with
  | some p => p.1
  | none => len

/-- The part of a copy or fill that was written before it stopped. -/
def State.stopCopy (s : State) (k : Nat) (x : Task) : State :=
  match x.body with
  | .copy src dst len stash =>
    let n := stopLen dst len (Nat.min (s.readable k x src len) (s.writable k x dst len)) s.openNat
    let bs := (s.used.engineRead (.copy k) x src n (flagged (s.used.openBytes n) false))
    let r := ({ s.used with free := s.free + 1 + n }).engineWrite (.copy k) x.context x.segs (some k) dst (bs.take n) stash
    (r.1.takeRsps (.copy k)).modTask k (fun y => { y with bytes := y.bytes + r.2 })
  | .fill dst len pat =>
    let n := stopLen dst len (s.writable k x dst len) s.openNat
    let bs := (List.range n).map (fun i => (nth 0 pat (i % 8), false))
    let r := s.used.engineWrite (.copy k) x.context x.segs (some k) dst bs none
    r.1.modTask k (fun y => { y with bytes := y.bytes + r.2 })
  | _ => s

/-- The Mica command of a queue task stops (R222). -/
def State.stopMicaTask (s : State) (k : Nat) : State :=
  (s.mica.cmds.filter (fun e => decide (e.2.task = some k) && e.2.tile.isNone)).foldl (fun s e => s.micaRemove e.1) s

/-- Page requests and translations of a stream no longer have it as a waiter. -/
def State.dropStream (s : State) (src : Src) : State :=
  { s with xlat := { s.xlat with
      reqs := s.xlat.reqs.filter (fun e => decide (e.2.stream ≠ src) || e.2.slot.isSome)
      waiting := s.xlat.waiting.filter (fun q => decide (q.stream ≠ src))
      grants := s.xlat.grants.filter (fun g => decide (g.stream ≠ src))
      slots := s.xlat.slots.map (fun e => (e.1, { e.2 with waiters := e.2.waiters.filter (fun w => decide (w ≠ src)) }))
      slotWait := s.xlat.slotWait.filter (fun e => decide (e.stream ≠ src)) } }

/-- The placement that a PREFER_HOST was ending stays in force (R286). -/
def State.keepPlaced (s : State) (c : Nat) (b : WorkBody) : State :=
  match b with
  | .preferHost a n => { s with xlat := { s.xlat with
      placed := s.xlat.placed.map (fun p => if p.context == c && p.host == a && p.len == n then { p with ending := false } else p) } }
  | _ => s

/-- The commands that R384 stops; the others run to their end. -/
def WorkBody.stops : WorkBody → Bool
  | .launch _ | .copy _ _ _ _ | .fill _ _ _ | .mica _ | .waitObject _ _ | .waitWord _ => true
  | .prefetchXlat _ _ _ _ | .adviseWillNeed _ _ | .adviseWillNotNeed _ _ | .preferDevice _ _ _ | .preferHost _ _ => true
  | _ => false

/-- A FLUSH of TILES with INVALIDATE waits for the vein's launches and holds others back until it ends (R379). -/
def State.launchHeld (s : State) (v : Nat) : Bool :=
  s.tasks.any (fun e => e.2.vein == v && decide (e.2.phase = .running) && (match e.2.body with
    | .flush true _ true _ _ => true
    | _ => false))

/-- A task stops with a status, unless it has already ended (R384, R419, R318). -/
def State.stopTask (s : State) (k : Nat) (st : Status) (d : Detail) : State :=
  match s.task? k with
  | none => s
  | some x =>
    match x.phase with
    | .ended | .due | .written => s
    -- an entry that is being fetched is dealt with once it has been read (R319, R384)
    | .fetching => s
    | .waiting | .ready => ((s.dropWait (.task k)).dropStream (.sequencer k)).failTask k st d
    -- commands other than the listed ones run to their end once they are dispatched
    | .dispatched =>
      if x.body.stops then ((s.dropWait (.task k)).dropStream (.sequencer k)).failTask k st d else s.taskFault k st d
    | .running =>
      match x.body with
      | .launch _ => s.stopLaunch k st d
      | .copy _ _ _ _ | .fill _ _ _ => ((s.stopCopy k x).dropStream (.copy k)).failTask k st d
      | .mica _ => (s.stopMicaTask k).failTask k st d
      | .waitObject _ _ | .waitWord _ => (s.dropWait (.task k)).failTask k st d
      | .prefetchXlat _ _ _ _ | .adviseWillNeed _ _ | .adviseWillNotNeed _ _ | .preferDevice _ _ _ | .preferHost _ _ =>
        ((s.dropStream (.sequencer k)).keepPlaced x.context x.body).failTask k st d
      | _ => s.taskFault k st d

/-- CAUSE ABORT (R370). -/
def abortDetail : Detail := mkDetail 0x4B none 0 0

/-- Every task of the work queues that a condition holds for stops. -/
def State.stopTasks (s : State) (p : Task → Bool) (st : Status) (d : Detail) : State :=
  (s.tasks.filter (fun e => e.2.queue.isSome && p e.2)).foldl (fun s e => s.stopTask e.1 st d) s

/-! ## DOMAIN_DOWN (R317, R318) -/

/-- LOCAL addresses of a vein. -/
def State.inVein (s : State) (v a : Nat) : Bool :=
  match s.granVein (granOf a) with
  | some (w, _) => w == v
  | none => false

/-- A sector in M has P set on each of its words in DRAM, its copies go, and its host copy is recalled (R318, R322). -/
def State.poisonSector (s : State) (sector : Nat) : State :=
  let holders := (s.dirEntry (sector * 128)).presence.filter (fun p => decide (p < 416))
  let wasM := match s.sectSt sector with
    | .m _ => true
    | _ => false
  let s := if wasM then
      { s with mem := { s.mem with poison := (List.range 16).foldl (fun p i => setIns p (sector * 16 + i)) s.mem.poison } }
    else s
  let s := holders.foldl (fun s t => s.modTile t (fun x => x.dropSector (s.lineSize t) false sector)) s
  let e := s.dirEntry (sector * 128)
  s.putDir (sector / 4) (e.setSector (sector % 4) .i)

/-- The sectors of a block that the host may hold. -/
def State.hostSectors (s : State) (b : Nat) : List Nat :=
  if setHas (s.dirEntry (512 * b)).presence 416 then
    ([0, 1, 2, 3].map (fun i => 4 * b + i)).filter (fun x => decide (s.sectSt x = .s) || s.hostOwns x)
  else []

/-- Steps 2 to 4 of R318 for the blocks of a vein (`none`: granules of no vein, R322). -/
def State.markVein (s : State) (v : Option Nat) (dead : Option Nat) : State :=
  let blocks := (s.homes.dir.filter (fun e => decide ((s.granVein (granOf (512 * e.1))).map (·.1) = v))).map (·.1)
  let s := blocks.foldl (fun s b =>
    let host := if dead = some 416 then [] else s.hostSectors b
    let s := [0, 1, 2, 3].foldl (fun s i => s.poisonSector (4 * b + i)) s
    let s := host.foldl (fun s x => s.askHost x .inv 0) s
    s.putDir b { s.dirEntry (512 * b) with presence := if host.isEmpty then [] else [416] }) s
  { s with homes := { s.homes with txns := s.homes.txns.filter (fun e => !blocks.contains (e.2.sector / 4) || e.2.waiting.contains 416 && decide (dead ≠ some 416)) } }

/-- What a tile has released and not drained is discarded, with its Mica commands (R222, R318). -/
def State.dropReleased (s : State) (t : Nat) : State :=
  let s := (s.tile t).micas.foldl (fun s m => s.micaRemove m.1) s
  s.modTile t (fun x => { x with released := [], micas := [] })

/-- A vein goes DOMAIN_DOWN: `cause` is the row of R317 from 0, `agent` the agent. -/
def State.veinDown (s : State) (v cause agent : Nat) : State :=
  let s := s.log .domainDown .detected noQuarry v v noCtx 0 cause agent
  let seq := s.entrySeq .domainDown noQuarry v
  let down := setHas s.blk.veinDown v
  let s := { s with blk := { s.blk with veinDown := setIns s.blk.veinDown v } }
  let s := if down then s
    else
      -- released effects still in a tile's memory side are discarded, and the tiles' Mica commands stop (R222)
      let ts := (s.tiles.filter (fun e => e.2.vein == v && e.2.task.isSome)).map (·.1)
      let s := ts.foldl (fun s t => s.dropReleased t) s
      let d := mkDetail 0x47 (some v) 0 seq
      let s := s.stopTasks (fun x => x.vein == v) .domainDown d
      -- a task whose parts have ended and whose completion is not written yet is in flight too (step 5)
      (s.tasks.filter (fun e => e.2.vein == v && e.2.queue.isSome && (decide (e.2.phase = .ended) || decide (e.2.phase = .due)))).foldl
        (fun s e => s.taskFault e.1 .domainDown d) s
  s.markVein (some v) (some agent)

end Sys2Proof.Machine
end

