-- ==== Sys2Proof/Machine/Operands.lean ====
section
/-! DEFINITION. Operands of tile instructions: registers with their poison flags (R116, R121), the checks on the fetch
(R131, R189), stalls on awaited registers and on tile-memory ranges (R187), scratch and its closed areas (R119, R134),
predication of vector instructions (R174). -/

namespace Sys2Proof.Machine

/-! ## Registers -/

/-- g0 reads as zero (R116). -/
def Tile.gr (x : Tile) (r : Reg) : Word := if r = 0 then 0 else tblGet 0 x.g r.val
def Tile.vr (x : Tile) (r : VReg) : BitVec 2048 := tblGet 0 x.v r.val
def Tile.pr (x : Tile) (r : PReg) : Word := tblGet 0 x.p r.val
def Tile.gp (x : Tile) (r : Reg) : Bool := r != 0 && setHas x.gPoison r.val
def Tile.vp (x : Tile) (r : VReg) : Bool := setHas x.vPoison r.val
def Tile.pp (x : Tile) (r : PReg) : Bool := setHas x.pPoison r.val

/-- ASTAT bits set (R157): 0 INV, 1 OVF, 2 UNF, 3 INX, 4 ACC_OVF, 5 FE_OVERRUN, 6 POISONED. -/
def Tile.setStat (x : Tile) (m : BitVec 7) : Tile := { x with astat := x.astat ||| m }

/-- A register or file became poisoned (R157). -/
def Tile.markPoison (x : Tile) (p : Bool) : Tile := if p then x.setStat 0x40#7 else x

/-- A scalar result; writes to g0 are discarded (R116, R161). -/
def Tile.setG (x : Tile) (r : Reg) (v : Word) (p : Bool) : Tile :=
  if r = 0 then x
  else ({ x with g := tblPut x.g r.val v, gPoison := setPut x.gPoison r.val p }).markPoison p
def Tile.setV (x : Tile) (r : VReg) (v : BitVec 2048) (p : Bool) : Tile :=
  ({ x with v := tblPut x.v r.val v, vPoison := setPut x.vPoison r.val p }).markPoison p
def Tile.setP (x : Tile) (r : PReg) (v : Word) (p : Bool) : Tile :=
  ({ x with p := tblPut x.p r.val v, pPoison := setPut x.pPoison r.val p }).markPoison p

/-- Lane `i` of a vector register (R153). -/
def lane (v : BitVec 2048) (i : Nat) : Word32 := (v >>> (32 * i)).setWidth 32

/-- A vector register from its 64 lanes. -/
def ofLanes (f : Nat → Word32) : BitVec 2048 :=
  (List.range 64).foldl (fun a i => a ||| ((f i).setWidth 2048 <<< (32 * i))) 0

/-- A predicate register from its 64 bits. -/
def ofBits (f : Nat → Bool) : Word := (List.range 64).foldl (fun a i => a ||| (if f i then 1#64 <<< i else 0)) 0

/-! ## Tile memory (R119) -/

/-- The carve-out of the vein (R58, R119). -/
def carveOut (dcache : Nat) : Nat :=
  match dcache % 4 with
  | 0 => 0
  | 1 => 2 ^ 18
  | 2 => 2 ^ 19
  | _ => 2 ^ 20

def State.carve (s : State) (t : Nat) : Nat :=
  match s.vein? (s.tile t).vein with
  | some v => carveOut v.dcache
  | none => 0

/-- Bytes of scratch (R119). -/
def State.scratchSize (s : State) (t : Nat) : Nat := 0x3BC000 - s.carve t

/-- A range lies wholly in scratch. -/
def State.inScratch (s : State) (t a n : Nat) : Bool := decide (a + n ≤ s.scratchSize t)

/-- Two ranges share a byte. -/
def Range.meets (a : Range) (base len : Nat) : Bool := decide (a.base < base + len) && decide (base < a.base + a.len)

/-- A range meets the stable region (R134). -/
def Tile.meetsStable (x : Tile) (a n : Nat) : Bool :=
  match x.stable with
  | some r => r.meets a n
  | none => false

/-- Two ranges meet in a 64 B line (R187). -/
def Range.meetsLine (a b : Range) : Bool :=
  decide (0 < a.len) && decide (0 < b.len) && decide (a.base / 64 ≤ (b.base + b.len - 1) / 64)
    && decide (b.base / 64 ≤ (a.base + a.len - 1) / 64)

/-- Bytes written to scratch with their poison (R121). -/
def Tile.storeScratch (x : Tile) (a : Nat) (bs : List Byte) (p : Bool) : Tile :=
  { x with scratch := memWrite x.scratch a bs, poison := poisonAfter x.poison a bs.length p }

/-- The bounding range of a move's tile-local side (R187). -/
def Move.localRange (m : Move) (width : Nat) : Range :=
  let n (i : Nat) : Nat := nth 1 m.size i
  let st (i : Nat) : Nat := nth 0 m.localStride i
  ⟨m.local', (n 0 * width + 7) / 8 + (n 1 - 1) * st 0 + (n 2 - 1) * st 1 + (n 3 - 1) * st 2⟩

/-- Width in bits of an element format code (R78, R162). -/
def fmtWidth (f : Nat) : Nat :=
  match f with
  | 0x0 => 32
  | 0x1 | 0x2 => 16
  | 0x6 | 0x7 | 0xD => 4
  | 0x8 | 0x9 => 6
  | _ => 8

/-- Scale bytes of an operand of `k` positions (R180): E8M0 bytes of MX formats, FP32 values of scaled integers. -/
def scaleLen (f k : Nat) : Nat :=
  match f with
  | 0x7 | 0x8 | 0x9 | 0xA | 0xB | 0xC => 2 * k
  | 0xD | 0xE => 256
  | _ => 0

/-- K of an `mma` (R179). -/
def MmaOp.k (m : MmaOp) : Nat := if m.m.kb = 0 then 4096 else 32 * m.m.kb.toNat

/-- What an `mma` reads (R180, R187). -/
def MmaOp.reads (m : MmaOp) : List Range :=
  let k := m.k
  let fa := m.m.fmtA.toNat
  let fb := m.m.fmtB.toNat
  [⟨m.aBase, 8 * k * fmtWidth fa⟩, ⟨m.bBase, 8 * k * fmtWidth fb / (if m.sparse then 2 else 1)⟩, ⟨m.aScale, scaleLen fa k⟩,
    ⟨m.bScale, scaleLen fb k⟩, ⟨m.meta', if m.sparse then 8 * k else 0⟩]

/-- Element width on the tile-local side of a move (R182). -/
def Move.width (m : Move) : Nat := fmtWidth (if m.ctl.outbound then m.ctl.srcFmt.toNat else m.ctl.dstFmt.toNat)

/-- Activation formats with E8M0 scales (R196, R203). -/
def mxAct (f : Nat) : Bool := f == 0xA || f == 0xC

/-- Bytes of a Mica command's results (R207): converted, or raw with a flag byte for each row. -/
def MicaBlock.outLen (b : MicaBlock) : Nat :=
  if b.out.toNat % 4 = 0 then b.m * fmtWidth (bits b.out.toNat 2 4) / 8 else 17 * b.m

/-- Tile-local ranges of a Mica command (R220): activations with their scales, and results. -/
def MicaBlock.localReads (b : MicaBlock) : List Range :=
  if b.flags.getLsbD 0 then ⟨b.actVa, b.k⟩ :: (if mxAct b.afmt then [⟨b.actScale, b.k / 32⟩] else []) else []
def MicaBlock.localWrites (b : MicaBlock) : List Range := if b.flags.getLsbD 1 then [⟨b.outVa, b.outLen⟩] else []

/-- What a queued MAT instruction reads, and writes (R187). -/
def MatOp.reads : MatOp → List Range
  | .mma o => o.reads
  | .acc o => o.reads
def MatOp.writes : MatOp → List Range
  | .mma _ => []
  | .acc o => o.writes

/-- Tile-memory ranges that outstanding operations read, and write (R187). -/
def State.outReads (s : State) (t : Nat) : List Range :=
  let x := s.tile t
  (x.matQueue.map MatOp.reads).flatten ++ ((x.mmaRunning.map MmaOp.reads).getD []) ++ (x.accOps.map (·.reads)).flatten ++
    (x.moves.filter (fun m => m.ctl.outbound)).map (fun m => m.localRange m.width) ++
    (x.micas.filterMap (fun m => (tblFind s.mica.cmds m.1).map (fun c => c.block.localReads))).flatten
def State.outWrites (s : State) (t : Nat) : List Range :=
  let x := s.tile t
  (x.matQueue.map MatOp.writes).flatten ++ (x.accOps.map (·.writes)).flatten ++ (x.moves.filter (fun m => !m.ctl.outbound)).map (fun m => m.localRange m.width) ++
    (x.micas.filterMap (fun m => (tblFind s.mica.cmds m.1).map (fun c => c.block.localWrites))).flatten

/-- An instruction with these ranges stalls (R187). -/
def State.conflict (s : State) (t : Nat) (reads writes : List Range) : Bool :=
  (s.outReads t).any (fun o => writes.any o.meetsLine) || (s.outWrites t).any (fun o => (reads ++ writes).any o.meetsLine)

/-! ## Failures that reach a tile -/

/-- The fault detail of a failed response (R370). -/
def Rsp.detail (r : Rsp) : Detail :=
  if r.remote then mkDetail 0x48 (some r.value) 0 r.log
  else match r.st with
    | .refusedObject => mkDetail 0x0A (some r.value) 0 r.log
    | .refusedP2p => mkDetail 0x4C (some r.value) 0 r.log
    | .xlatFault => mkDetail 0x46 (some r.value) 0 r.log
    | _ => mkDetail 0x41 (some r.value) 0 r.log

/-- The status of a failed response (R386, R442). -/
def RspSt.status : RspSt → Status
  | .ok => .ok
  | .refused | .refusedObject => .accessDenied
  | .peerLost => .peerLost
  | .authFailed => .authFailed
  | .abandoned => .abandoned
  | .refusedP2p => .refusedP2p
  | .xlatFault => .xlatFault

/-- A failed response of a tile's request stops its grid; a get or an atomic traps as well where its peer is lost, as does any access
to a lost peer, and an operation whose translation failed with XLAT (R188, R443, R447, R448, R260, R330). -/
def State.tileFailed (s : State) (t : Nat) (r : Rsp) (pc : Nat) : State :=
  match (s.tile t).task with
  | none => s
  | some k =>
    match r.st with
    | .ok => s
    | .peerLost => if r.traps then s.trapAt t .peerLost (some r.value) pc else s.stopLaunch k .peerLost r.detail
    | .authFailed =>
      (s.taskFault k .authFailed r.detail).trapAt t .peerLost (some r.value) pc
    | .xlatFault => s.trapAt t .xlat (some r.value) pc
    | st => s.stopLaunch k st.status r.detail

/-! ## Issue -/

/-- Fetches of lines of code from another device are over but that of one line; their responses, where they came, are taken. -/
def State.dropCodeBut (s : State) (t line : Nat) : State :=
  let gone := (s.tile t).ifetch.filter (fun f => f.2 != line)
  { s with rsps := s.rsps.filter (fun e => !gone.any (fun f => f.1 == e.1)) }.modTile t (fun x =>
    { x with ifetch := x.ifetch.filter (fun f => f.2 == line) })

/-- Every fetch of a line of code from another device is over. -/
def State.dropCode (s : State) (t : Nat) : State :=
  let gone := (s.tile t).ifetch
  { s with rsps := s.rsps.filter (fun e => !gone.any (fun f => f.1 == e.1)) }.modTile t (fun x => { x with ifetch := [] })

/-- The checks on the fetch of a word (R131, R189 step 1), the poison mark of a cached instruction word, and a fetch from
another device: not yet asked for, under way, or failed (R268, R443). -/
inductive Fetch where
  | good | trap (c : Trap) (a : Nat) | poison | refused (a : Nat) | ask (dev addr line : Nat) | wait | failed (r : Rsp)
deriving DecidableEq, Repr

/-- The line of an enabled instruction cache that holds an address; a disabled one holds nothing for the fetch (R236, R239). -/
def Tile.codeLine (x : Tile) (a : Nat) : Option CacheLine :=
  if x.ictl.enabled then x.icache.find? (fun l => l.line == a / 128) else none

/-- The response that brought a line of code from another device (R268). -/
def State.remoteCode (s : State) (t a : Nat) : Option Rsp :=
  ((s.tile t).ifetch.find? (fun f => f.2 == a / 128)).bind (fun f => tblFind s.rsps f.1)

/-- A word with no line in the instruction cache is fetched at its home (R131, R259), on this device or another (R268). -/
def State.fetchWord (s : State) (t a : Nat) : Fetch :=
  let x := s.tile t
  if isHostVa a then .trap .fetchHost a
  else match findSeg x.segs a with
    | none => .trap .segFault a
    | some g =>
      if !g.x then .trap .rights a
      else match x.codeLine a with
        | some l => if setHas l.poison (a % 128 / 8) then .poison else .good
        | none =>
          if g.device ≠ s.fab.self then
            match s.remoteCode t a with
            | some r =>
              if decide (r.st ≠ .ok) then .failed r
              else if ((r.flagged.drop (a % 128)).take 4).any (·.2) then .poison else .good
            | none => if x.ifetch.any (fun f => f.2 == a / 128) then .wait else .ask g.device (g.local' (a / 128 * 128)) (a / 128)
          else if !s.tagPass x.context (granOf (g.local' a)) then .refused (g.local' a)
          else if s.latestPoison (g.local' a / 8) then .poison else .good

/-- The bytes of an instruction word: those of its line in the instruction cache, as they were when it filled (R240), of the
response that brought them, or of its home. -/
def State.codeWord (s : State) (t a : Nat) : Nat :=
  let x := s.tile t
  match x.codeLine a, s.remoteCode t a, findSeg x.segs a with
  | some l, _, _ => leNat (memRead l.bytes (a % 128) 4)
  | none, some r, _ => leNat ((r.data.drop (a % 128)).take 4)
  | none, none, some g => leNat (s.readLatest (g.local' a) 4)
  | none, none, none => 0

def State.fetch (s : State) (t : Nat) (wide : Bool) : Fetch :=
  match s.fetchWord t (s.tile t).pc with
  | .good => if wide then s.fetchWord t ((s.tile t).pc + 4) else .good
  | f => f

/-- The register that a value-returning operation writes. -/
def Held.rd (h : Held) : Reg :=
  match h.eff with
  | .ask _ _ _ _ _ _ rd _ _ _ _ => rd
  | _ => 0

/-- A register awaits a result, of an operation sent or one that waits to be (R191); a non-waiting peek writes a predicate as well, and
holds every instruction. -/
def Tile.busy (x : Tile) (regs : List Reg) : Bool :=
  x.released.any (fun h => decide (h.rd ≠ 0) && regs.contains h.rd) || x.pend.any (fun p => decide (p.kind = .sample)) || x.pend.any (fun p => decide (p.kind ≠ .ack) && decide (p.rd ≠ 0) && regs.contains p.rd)

/-- The tile can issue its next instruction. -/
def Tile.canIssue (x : Tile) : Bool := decide (x.role = .mapped) && decide (x.run = .running) && x.task.isSome

/-- A line of code is asked for at another device (R268, R434). The fetch holds the line of the program counter and, for an instruction
that straddles two lines, the next one (R154); the rest of what it fetched before is dropped. -/
def State.askCode (s : State) (t dev a line : Nat) : State :=
  let s := s.dropCodeBut t ((s.tile t).pc / 128)
  let x := s.tile t
  (s.fabSend (mkFab dev (.tile t) (x.context.getD 0) x.task 1 a (List.replicate 128 0) false 0 0)).modTile t (fun x =>
    { x with ifetch := x.ifetch ++ [(s.nextId, line)] })

/-- The instruction's own part runs where the tile issues it: on the fetch's causes the grid stops; on a stall nothing
changes (R118, R131, R189, R190). -/
def State.issue (s : State) (t : Nat) (wide : Bool) (regs : List Reg) (f : State → State) : State :=
  let x := s.tile t
  if !x.canIssue then s
  else match s.fetch t wide with
    | .trap c a => s.trap t c (some a)
    | .poison =>
      match x.task with
      | some k => s.stopLaunch k .poisonedOutput ⟨0x4A, some (s.logicalOf t), some x.pc, some x.pc, 0, 0⟩
      | none => s
    | .refused a =>
      let s := s.logRefused (.tile t) x.context a 0
      match x.task with
      | some k => s.stopLaunch k .accessDenied (s.refusedDetail (.tile t) a)
      | none => s
    | .ask dev a line => s.askCode t dev a line
    | .wait => s
    | .failed r => (s.dropCode t).tileFailed t r x.pc
    | .good => if x.busy regs then s else f s

/-- What the words at the program counter say of an instruction that a command issues. -/
inductive Spelling where
  | same | other | illegal
deriving DecidableEq, Repr

/-- The words at the program counter against an instruction (R154, R160, R161). -/
def State.spelling (s : State) (t : Nat) (i : Instr) : Spelling :=
  let pc := (s.tile t).pc
  let w0 := s.codeWord t pc
  let w1 := if wideWord w0 then s.codeWord t (pc + 4) else 0
  match decodeInsn t w0 w1 with
    | none => .illegal
    | some j => if j = i.plain then .same else .other

/-- A command that issues an instruction of a tile, whose effect is `r`: where the fetch is good, words that are no instruction trap,
and words that spell another instruction are not this command's event (R160, R161). -/
def State.spelled (s : State) (t : Nat) (i : Instr) (r : State) : State :=
  let wide := wideWord (s.codeWord t (s.tile t).pc)
  if (s.tile t).canIssue && decide (s.fetch t wide = .good) then
    match s.spelling t i with
    | .same => r
    | .other => s
    | .illegal => s.trap t .illegalInsn none
  else s.issue t wide [] (fun s => s)

/-- A fetch that hits the instruction cache points its set's pseudo-LRU bits away from the line's way (R239). -/
def Tile.codeTouched (x : Tile) (a : Nat) : Tbl Nat :=
  match x.codeLine a with
  | some l => tblPut x.iplru (l.line % 128) (plruTouch 4 (tblGet 0 x.iplru (l.line % 128)) l.way)
  | none => x.iplru

/-- The instruction retires: the program counter moves and the cycle counts take the cycles it used, which the model leaves
open (R153, R156, R142; timing is out of the model). -/
def State.retireTo (s : State) (t pc : Nat) : State :=
  let n := s.openNat
  (s.modTile t (fun x => { x with
    pc := pc % 2 ^ 64, iplru := x.codeTouched x.pc, cycle := (x.cycle + n) % 2 ^ 64, unitCycles := if x.isProtected then (x.unitCycles + n) % 2 ^ 64 else x.unitCycles })).used

def State.retire (s : State) (t : Nat) (wide : Bool) : State := s.retireTo t ((s.tile t).pc + if wide then 8 else 4)

/-- A wide instruction's result in the tile, and its retirement. -/
def State.wide (s : State) (t : Nat) (f : Tile → Tile) : State := (s.modTile t f).retire t true

/-- SECDED found an error in a word of tile memory that an instruction reads (R121): corrected and written back, or the word's
poison bit is set. -/
def State.tileFound (s : State) (t : Nat) (rs : List Range) (e : TileEcc) : State :=
  let x := s.tile t
  let hit (a : Nat) : Bool := rs.any (fun r => (wordsOf r.base r.len).contains (a / 8))
  let note (s : State) (a d : Nat) (o : Outc) : State := s.log .tileMemError o (quarryOf t) x.vein t (ctxNo x.context) 0 (a / 8 * 8) d
  match e with
  | .clean => s
  | .corrected a => if hit a then note s a 0 .masked else s
  | .poisoned a => if hit a then (note s a 1 .detected).modTile t (fun x => { x with poison := setIns x.poison (a / 8) }) else s

/-! ## The reservation (R169, R302, R303) -/

/-- The tile breaks its own reservation: an `lr` still on its way reserves nothing, and its progress lock ends. -/
def State.clearReservation (s : State) (t : Nat) : State :=
  let s := s.modTile t (fun x => { x with
    reservation := none
    pend := x.pend.map (fun p => if decide (p.kind = .reserve) then { p with kind := .load } else p) })
  { s with homes := { s.homes with
      resv := s.homes.resv.filter (fun r => r.tile != t), locks := s.homes.locks.filter (fun l => l.2.1 != t) } }

/-- A failed `sc` of a tile on a granule is counted; a failure on another granule starts anew (R303). -/
def Tile.countFail (x : Tile) (granule : Nat) : Tile :=
  if x.scGranule = granule then { x with scFails := x.scFails + 1 } else { x with scGranule := granule, scFails := 1 }

def State.failSc (s : State) (t granule : Nat) : State := (s.clearReservation t).modTile t (fun x => x.countFail granule)

/-! ## Sign extension -/

/-- A signed immediate (R163). -/
def sext13 (i : BitVec 13) : Word := i.signExtend 64

/-- The value of `w` bits as a signed number. -/
def toSigned (w v : Nat) : Int := if v < 2 ^ (w - 1) then (v : Int) else (v : Int) - 2 ^ w

/-- The two's complement of an integer in `w` bits. -/
def fromInt (w : Nat) (v : Int) : Nat := (v % (2 ^ w : Int)).toNat

/-! ## Vector operands (R174) -/

/-- The second source of a vector instruction, lane by lane (R174). -/
def Tile.src2 (x : Tile) (b : VSrc) (i : Nat) : Word32 :=
  match b with
  | .vec r => lane (x.vr r) i
  | .scal g => (x.gr g).setWidth 32

def Tile.src2Poison (x : Tile) (b : VSrc) : Bool :=
  match b with
  | .vec r => x.vp r
  | .scal g => x.gp g

/-- The scalar register that a vector source reads. -/
def VSrc.regs : VSrc → List Reg
  | .vec _ => []
  | .scal g => [g]

/-- Whether lane `i` is active (R174). -/
def Tile.active (x : Tile) (c : VecCtl) (i : Nat) : Bool := !c.pen || (x.pr c.pg).getLsbD i

/-- A destination register with inactive lanes kept or zeroed (R174). -/
def Tile.merge (x : Tile) (c : VecCtl) (vd : VReg) (f : Nat → Word32) : BitVec 2048 :=
  ofLanes (fun i => if x.active c i then f i else if c.pz then 0 else lane (x.vr vd) i)

/-- Poison of a predicated result: the sources', the governing predicate's, and the kept lanes'. -/
def Tile.mergePoison (x : Tile) (c : VecCtl) (vd : VReg) (p : Bool) : Bool :=
  p || (c.pen && (x.pp c.pg || (!c.pz && x.vp vd)))

end Sys2Proof.Machine
end

