-- ==== Sys2Proof/Machine/Scalar.lean ====
section
/-! DEFINITION. Scalar classes 0x0 to 0x5 (R163 to R166): integer arithmetic, immediates, `shins`, branches and jumps. -/

namespace Sys2Proof.Machine

/-- A register-form integer operation (R164). -/
def State.aluRR (s : State) (t : Nat) (rd ra rb : Reg) (op : Word → Word → Word) : State :=
  s.issue t false [rd, ra, rb] (fun s =>
    (s.modTile t (fun x => x.setG rd (op (x.gr ra) (x.gr rb)) (x.gp ra || x.gp rb))).retire t false)

/-- An operation on one register (R164). -/
def State.aluR (s : State) (t : Nat) (rd ra : Reg) (op : Word → Word) : State :=
  s.issue t false [rd, ra] (fun s => (s.modTile t (fun x => x.setG rd (op (x.gr ra)) (x.gp ra))).retire t false)

/-- An immediate shift whose imm13[12:6] is not 0 is a reserved encoding (R164, R161). -/
def State.shiftI (s : State) (t : Nat) (rd ra : Reg) (imm : BitVec 13) (op : Word → Nat → Word) : State :=
  if 64 ≤ imm.toNat then s.issue t false [] (fun s => s.trap t .illegalInsn none)
  else s.aluR t rd ra (fun a => op a imm.toNat)

/-- 1 or 0 as a word. -/
def flag (b : Bool) : Word := if b then 1 else 0

/-- Signed quotient (R164): all ones for a zero divisor, −2^63 / −1 gives −2^63. -/
def divS (a b : Word) : Word := if b = 0 then BitVec.allOnes 64 else a.sdiv b
def divU (a b : Word) : Word := if b = 0 then BitVec.allOnes 64 else a / b
def remS (a b : Word) : Word := if b = 0 then a else a.srem b
def remU (a b : Word) : Word := if b = 0 then a else a % b
def mulHS (a b : Word) : Word := ((a.signExtend 128 * b.signExtend 128) >>> 64).setWidth 64
def mulHU (a b : Word) : Word := ((a.setWidth 128 * b.setWidth 128) >>> 64).setWidth 64

/-- Leading zeros among the low `n` bits. -/
def leadZeros (a : Word) : Nat → Nat
  | 0 => 0
  | n + 1 => if a.getLsbD n then 0 else 1 + leadZeros a n

/-- Trailing zeros from bit `64 - n`. -/
def trailZeros (a : Word) : Nat → Nat
  | 0 => 0
  | n + 1 => if a.getLsbD (63 - n) then 0 else 1 + trailZeros a n

/-- Set bits among the low `n` bits. -/
def countOnes (a : Word) : Nat → Nat
  | 0 => 0
  | n + 1 => b2n (a.getLsbD n) + countOnes a n

def execAdd (t : Nat) (rd ra rb : Reg) (s : State) : Host.Outcome State Fault Refusal := .next (s.spelled t (.add t rd ra rb) (s.aluRR t rd ra rb (· + ·)))
def execSub (t : Nat) (rd ra rb : Reg) (s : State) : Host.Outcome State Fault Refusal := .next (s.spelled t (.sub t rd ra rb) (s.aluRR t rd ra rb (· - ·)))
def execAnd (t : Nat) (rd ra rb : Reg) (s : State) : Host.Outcome State Fault Refusal := .next (s.spelled t (.and t rd ra rb) (s.aluRR t rd ra rb (· &&& ·)))
def execOr (t : Nat) (rd ra rb : Reg) (s : State) : Host.Outcome State Fault Refusal := .next (s.spelled t (.or t rd ra rb) (s.aluRR t rd ra rb (· ||| ·)))
def execXor (t : Nat) (rd ra rb : Reg) (s : State) : Host.Outcome State Fault Refusal := .next (s.spelled t (.xor t rd ra rb) (s.aluRR t rd ra rb (· ^^^ ·)))
def execSll (t : Nat) (rd ra rb : Reg) (s : State) : Host.Outcome State Fault Refusal :=
  .next (s.spelled t (.sll t rd ra rb) (s.aluRR t rd ra rb (fun a b => a <<< (b.toNat % 64))))
def execSrl (t : Nat) (rd ra rb : Reg) (s : State) : Host.Outcome State Fault Refusal :=
  .next (s.spelled t (.srl t rd ra rb) (s.aluRR t rd ra rb (fun a b => a >>> (b.toNat % 64))))
def execSra (t : Nat) (rd ra rb : Reg) (s : State) : Host.Outcome State Fault Refusal :=
  .next (s.spelled t (.sra t rd ra rb) (s.aluRR t rd ra rb (fun a b => a.sshiftRight (b.toNat % 64))))
def execSlt (t : Nat) (rd ra rb : Reg) (s : State) : Host.Outcome State Fault Refusal :=
  .next (s.spelled t (.slt t rd ra rb) (s.aluRR t rd ra rb (fun a b => flag (a.slt b))))
def execSltu (t : Nat) (rd ra rb : Reg) (s : State) : Host.Outcome State Fault Refusal :=
  .next (s.spelled t (.sltu t rd ra rb) (s.aluRR t rd ra rb (fun a b => flag (a.ult b))))
def execMin (t : Nat) (rd ra rb : Reg) (s : State) : Host.Outcome State Fault Refusal :=
  .next (s.spelled t (.min t rd ra rb) (s.aluRR t rd ra rb (fun a b => if a.slt b then a else b)))
def execMax (t : Nat) (rd ra rb : Reg) (s : State) : Host.Outcome State Fault Refusal :=
  .next (s.spelled t (.max t rd ra rb) (s.aluRR t rd ra rb (fun a b => if a.slt b then b else a)))
def execMinu (t : Nat) (rd ra rb : Reg) (s : State) : Host.Outcome State Fault Refusal :=
  .next (s.spelled t (.minu t rd ra rb) (s.aluRR t rd ra rb (fun a b => if a.ult b then a else b)))
def execMaxu (t : Nat) (rd ra rb : Reg) (s : State) : Host.Outcome State Fault Refusal :=
  .next (s.spelled t (.maxu t rd ra rb) (s.aluRR t rd ra rb (fun a b => if a.ult b then b else a)))
def execMul (t : Nat) (rd ra rb : Reg) (s : State) : Host.Outcome State Fault Refusal := .next (s.spelled t (.mul t rd ra rb) (s.aluRR t rd ra rb (· * ·)))
def execMulh (t : Nat) (rd ra rb : Reg) (s : State) : Host.Outcome State Fault Refusal := .next (s.spelled t (.mulh t rd ra rb) (s.aluRR t rd ra rb mulHS))
def execMulhu (t : Nat) (rd ra rb : Reg) (s : State) : Host.Outcome State Fault Refusal := .next (s.spelled t (.mulhu t rd ra rb) (s.aluRR t rd ra rb mulHU))
def execDiv (t : Nat) (rd ra rb : Reg) (s : State) : Host.Outcome State Fault Refusal := .next (s.spelled t (.div t rd ra rb) (s.aluRR t rd ra rb divS))
def execDivu (t : Nat) (rd ra rb : Reg) (s : State) : Host.Outcome State Fault Refusal := .next (s.spelled t (.divu t rd ra rb) (s.aluRR t rd ra rb divU))
def execRem (t : Nat) (rd ra rb : Reg) (s : State) : Host.Outcome State Fault Refusal := .next (s.spelled t (.rem t rd ra rb) (s.aluRR t rd ra rb remS))
def execRemu (t : Nat) (rd ra rb : Reg) (s : State) : Host.Outcome State Fault Refusal := .next (s.spelled t (.remu t rd ra rb) (s.aluRR t rd ra rb remU))
def execClz (t : Nat) (rd ra : Reg) (s : State) : Host.Outcome State Fault Refusal :=
  .next (s.spelled t (.clz t rd ra) (s.aluR t rd ra (fun a => BitVec.ofNat 64 (leadZeros a 64))))
def execCtz (t : Nat) (rd ra : Reg) (s : State) : Host.Outcome State Fault Refusal :=
  .next (s.spelled t (.ctz t rd ra) (s.aluR t rd ra (fun a => BitVec.ofNat 64 (trailZeros a 64))))
def execCpop (t : Nat) (rd ra : Reg) (s : State) : Host.Outcome State Fault Refusal :=
  .next (s.spelled t (.cpop t rd ra) (s.aluR t rd ra (fun a => BitVec.ofNat 64 (countOnes a 64))))
def execAddi (t : Nat) (rd ra : Reg) (imm : BitVec 13) (s : State) : Host.Outcome State Fault Refusal :=
  .next (s.spelled t (.addi t rd ra imm) (s.aluR t rd ra (fun a => a + sext13 imm)))
def execAndi (t : Nat) (rd ra : Reg) (imm : BitVec 13) (s : State) : Host.Outcome State Fault Refusal :=
  .next (s.spelled t (.andi t rd ra imm) (s.aluR t rd ra (fun a => a &&& sext13 imm)))
def execOri (t : Nat) (rd ra : Reg) (imm : BitVec 13) (s : State) : Host.Outcome State Fault Refusal :=
  .next (s.spelled t (.ori t rd ra imm) (s.aluR t rd ra (fun a => a ||| sext13 imm)))
def execXori (t : Nat) (rd ra : Reg) (imm : BitVec 13) (s : State) : Host.Outcome State Fault Refusal :=
  .next (s.spelled t (.xori t rd ra imm) (s.aluR t rd ra (fun a => a ^^^ sext13 imm)))
def execSlli (t : Nat) (rd ra : Reg) (imm : BitVec 13) (s : State) : Host.Outcome State Fault Refusal :=
  .next (s.spelled t (.slli t rd ra imm) (s.shiftI t rd ra imm (fun a n => a <<< n)))
def execSrli (t : Nat) (rd ra : Reg) (imm : BitVec 13) (s : State) : Host.Outcome State Fault Refusal :=
  .next (s.spelled t (.srli t rd ra imm) (s.shiftI t rd ra imm (fun a n => a >>> n)))
def execSrai (t : Nat) (rd ra : Reg) (imm : BitVec 13) (s : State) : Host.Outcome State Fault Refusal :=
  .next (s.spelled t (.srai t rd ra imm) (s.shiftI t rd ra imm (fun a n => a.sshiftRight n)))
def execSlti (t : Nat) (rd ra : Reg) (imm : BitVec 13) (s : State) : Host.Outcome State Fault Refusal :=
  .next (s.spelled t (.slti t rd ra imm) (s.aluR t rd ra (fun a => flag (a.slt (sext13 imm)))))
def execSltiu (t : Nat) (rd ra : Reg) (imm : BitVec 13) (s : State) : Host.Outcome State Fault Refusal :=
  .next (s.spelled t (.sltiu t rd ra imm) (s.aluR t rd ra (fun a => flag (a.ult (sext13 imm)))))

/-- R165. -/
def execShins (t : Nat) (rd ra : Reg) (imm : BitVec 18) (s : State) : Host.Outcome State Fault Refusal :=
  .next (s.spelled t (.shins t rd ra imm) (s.aluR t rd ra (fun a => (a <<< 18) ||| imm.setWidth 64)))

/-! ## Transfers of control (R166, R169) -/

/-- A taken transfer whose target is at or below the address of the instruction breaks the tile's reservation (R169, R302). -/
def State.goto (s : State) (t target : Nat) : State :=
  let pc := (s.tile t).pc
  let s := if decide (target ≤ pc) then
      s.clearReservation t
    else s
  s.retireTo t target

/-- A word address relative to the program counter. -/
def relTarget (pc : Nat) (off : Int) : Nat := fromInt 64 ((pc : Int) + 4 * off)

/-- A conditional branch (R166). -/
def State.branch (s : State) (t : Nat) (ra rb : Reg) (off : BitVec 13) (c : Word → Word → Bool) : State :=
  s.issue t false [ra, rb] (fun s =>
    let x := s.tile t
    if c (x.gr ra) (x.gr rb) then s.goto t (relTarget x.pc off.toInt) else s.retire t false)

def execBeq (t : Nat) (ra rb : Reg) (off : BitVec 13) (s : State) : Host.Outcome State Fault Refusal :=
  .next (s.spelled t (.beq t ra rb off) (s.branch t ra rb off (fun a b => a == b)))
def execBne (t : Nat) (ra rb : Reg) (off : BitVec 13) (s : State) : Host.Outcome State Fault Refusal :=
  .next (s.spelled t (.bne t ra rb off) (s.branch t ra rb off (fun a b => a != b)))
def execBlt (t : Nat) (ra rb : Reg) (off : BitVec 13) (s : State) : Host.Outcome State Fault Refusal :=
  .next (s.spelled t (.blt t ra rb off) (s.branch t ra rb off (fun a b => a.slt b)))
def execBge (t : Nat) (ra rb : Reg) (off : BitVec 13) (s : State) : Host.Outcome State Fault Refusal :=
  .next (s.spelled t (.bge t ra rb off) (s.branch t ra rb off (fun a b => !a.slt b)))
def execBltu (t : Nat) (ra rb : Reg) (off : BitVec 13) (s : State) : Host.Outcome State Fault Refusal :=
  .next (s.spelled t (.bltu t ra rb off) (s.branch t ra rb off (fun a b => a.ult b)))
def execBgeu (t : Nat) (ra rb : Reg) (off : BitVec 13) (s : State) : Host.Outcome State Fault Refusal :=
  .next (s.spelled t (.bgeu t ra rb off) (s.branch t ra rb off (fun a b => !a.ult b)))

/-- R166: links PC + 4 and jumps to PC + 4 × offset. -/
def execJal (t : Nat) (rd : Reg) (off : BitVec 23) (s : State) : Host.Outcome State Fault Refusal :=
  .next (s.spelled t (.jal t rd off) (s.issue t false [rd] (fun s =>
    let pc := (s.tile t).pc
    (s.modTile t (fun x => x.setG rd (BitVec.ofNat 64 (pc + 4)) false)).goto t (relTarget pc off.toInt))))

/-- R166: links PC + 4 and jumps to g[ra] + offset; a target with bits [1:0] not 0 traps. -/
def execJalr (t : Nat) (rd ra : Reg) (off : BitVec 13) (s : State) : Host.Outcome State Fault Refusal :=
  .next (s.spelled t (.jalr t rd ra off) (s.issue t false [rd, ra] (fun s =>
    let x := s.tile t
    let target := (x.gr ra + sext13 off).toNat
    if target % 4 ≠ 0 then s.trap t .misaligned (some target)
    else (s.modTile t (fun y => y.setG rd (BitVec.ofNat 64 (x.pc + 4)) false)).goto t target)))

end Sys2Proof.Machine
end

