-- ==== Sys2Proof/Machine/Units.lean ====
section
/-! DEFINITION. Work units (R138 to R146, R151, R172): held effects, the carry set, commits with their checkpoints, `halt`
and `trap`. -/

namespace Sys2Proof.Machine

/-! ## Held effects (R138, R141) -/

/-- Commit-buffer bytes of one effect (R141): a 16-byte header and the data rounded up to 16 B. -/
def Effect.cost : Effect → Nat
  | .write _ bs _ => 16 + roundUp bs.length 16
  | .put _ _ bs => 16 + roundUp bs.length 16
  | .sig _ _ _ _ => 32
  | .arrive _ _ _ => 16
  | .fill _ _ _ => 32
  | .mica _ => 16 + 64
  | .ask _ _ _ _ _ _ _ _ _ _ _ => 16

/-- Occupancy of the commit buffer (R141, R535). -/
def heldCost (hs : List Held) : Nat := hs.foldl (fun a h => a + h.cost) 0
def Tile.heldBytes (x : Tile) : Nat := heldCost x.held

/-! ## What is under way (R293, R294) -/

/-- A value from outside the tile is awaited. -/
def PendOp.reads (p : PendOp) : Bool :=
  match p.kind with
  | .load | .reserve | .sample | .take | .peek | .wait => true
  | .ack | .arrive | .cond | .atomic => false

/-- An earlier load or inbound move is not yet performed: a release or a fence waits for it (R293, R294). -/
def Tile.readsOut (x : Tile) : Bool := x.pend.any PendOp.reads || x.moves.any (fun m => !m.ctl.outbound) || x.released.any Held.asks

/-- The effect is an acquire. -/
def Effect.acquires : Effect → Bool
  | .ask _ _ _ _ _ _ _ _ _ acq _ => acq
  | _ => false

/-- An earlier acquire is not yet performed (R293). -/
def Tile.acquiring (x : Tile) : Bool := x.pend.any (fun p => p.acquire) || x.released.any (fun h => h.eff.acquires)

/-- A write-back store that has retired waits for its line (R231). -/
def Tile.storing (x : Tile) : Bool := (x.miss.bind (·.store)).isSome

/-- Earlier effects are not yet globally observed: an acquire waits for them (R293). -/
def Tile.writesOut (x : Tile) : Bool := x.unacked || !x.released.isEmpty || x.storing

/-- A load behind a `fullfence` waits for the global observation of the writes before it (R294, R304). -/
def Tile.observing (x : Tile) : Bool := x.observe && x.writesOut

/-- Two ranges of one place share a byte. -/
def Dest.meets (d : Dest) (n : Nat) (e : Dest) (m : Nat) : Bool :=
  let cut (a b : Nat) : Bool := decide (a < b + m) && decide (b < a + n)
  match d, e with
  | .device a _, .device b _ => cut a b
  | .host a _, .host b _ => cut a b
  | .remote p a, .remote q b => p == q && cut a b
  | _, _ => false

/-- The bytes outside the tile that an effect writes. -/
def Effect.place : Effect → Option (Dest × Nat)
  | .write d bs _ => some (d, bs.length)
  | .put d a bs => some (.remote d a, bs.length)
  | .fill d _ _ => some (d, 8)
  | .ask _ d n _ _ _ _ _ _ _ _ => some (d, n)
  | _ => none

/-- The bytes that a request under way reads. -/
def State.readPlace (s : State) (id : Nat) : Option (Dest × Nat) :=
  match tblFind s.pkts id, tblFind s.host.up id, tblFind s.fab.ops id with
  | some k, _, _ =>
    match k.req with
    | .read a n _ => some (.device a false, n)
    | .lr a w => some (.device a false, if w then 8 else 4)
    | .fePeek a _ => some (.device a false, 8)
    | _ => none
  | none, some u, _ => if u.bytes.isEmpty then some (.host u.addr false, u.len) else none
  | none, none, some o => if o.kind = 1 then some (.remote o.device o.addr, o.bytes.length) else none
  | none, none, none => none

/-- A load of the tile that is not yet performed reads a byte of a place (R294, same address). -/
def State.loadInFlight (s : State) (t : Nat) (d : Dest) (n : Nat) : Bool :=
  let x := s.tile t
  x.pend.any (fun p => p.reads && p.waits.any (fun w => match s.readPlace w.1 with
    | some r => d.meets n r.1 r.2
    | none => false))
    || (match x.miss with
      | some m => (m.load.map (fun l => l.2.any (fun p => d.meets n p.dst p.len))).getD false
      | none => false)

/-- Unprotected, an effect waits behind an acquire, behind a load of its own bytes, and, as a release, behind every load (R293, R294); a
release, or one behind a store fence, waits for a store that awaits its line. -/
def State.effectsWait (s : State) (t : Nat) (es : List Held) : Bool :=
  let x := s.tile t
  !x.isProtected && (x.acquiring || ((es.any (·.release) || x.fencePending) && x.storing) || (es.any (·.release) && x.readsOut) || es.any (fun h => match h.eff.place with
    | some p => s.loadInFlight t p.1 p.2
    | none => false))

/-! ## Parity of the data cache (R233) -/

/-- Bytes of an allocation unit: a block of four sectors, or a line (R223). -/
def State.unitSize (s : State) (t : Nat) : Nat := if s.lineSize t = 64 then 64 else 512

/-- The lines of a line's way: the sectors of its block. -/
def State.wayOf (s : State) (t : Nat) (l y : CacheLine) : Bool :=
  y.host == l.host && y.line * s.lineSize t / s.unitSize t == l.line * s.lineSize t / s.unitSize t

/-- Parity found when the cache reads a line (R233): the sector, or its whole way, goes, or the vein does. Answers whether the
access proceeds. -/
def State.parityCheck (s : State) (t : Nat) (l : CacheLine) (par : CacheParity) : State × Bool :=
  let x := s.tile t
  let drop (s : State) (p : CacheLine → Bool) : State := s.modTile t (fun x => { x with dcache := x.dcache.filter (fun y => !p y) })
  let note (s : State) (d : Nat) (o : Outc) : State :=
    s.log .cacheParity o (quarryOf t) x.vein t (ctxNo x.context) 0 (l.line * s.lineSize t) d
  let down (s : State) (d : Nat) : State × Bool := ((note s d .detected).veinDown x.vein 1 t, false)
  let way := s.wayOf t l
  match par with
  | .good => (s, true)
  | .dataBad => if l.dirty then down s 1 else (drop (note s 0 .masked) (fun y => y == l), false)
  | .tagBad => if x.dcache.any (fun y => way y && y.dirty) then down s 2 else (drop (note s 2 .masked) way, false)
  | .stateBad => if x.isProtected then (drop (note s 2 .masked) way, false) else down s 2

/-- The check on every line that an access reads: the finding is that of one of them, by an open choice where there are several. -/
def State.parityChecks (s : State) (t : Nat) (ls : List CacheLine) (par : CacheParity) : State × Bool :=
  match ls with
  | [] => (s, true)
  | l :: rest => if rest.isEmpty || decide (par = .good) then s.parityCheck t l par else s.used.parityCheck t (nth l ls (s.openNat % ls.length)) par

/-- The dirty lines of device memory. -/
def Tile.dirtyLines (x : Tile) : List CacheLine := x.dcache.filter (fun l => !l.host && l.dirty)

/-- Every dirty line is read for its write-back (R230, R233). Answers whether the access proceeds. -/
def State.flushRead (s : State) (t : Nat) (par : CacheParity) : State × Bool :=
  let r := s.parityChecks t (s.tile t).dirtyLines par
  (if r.2 then r.1.flushTile t else r.1, r.2)

/-! ## Effects -/

/-- An effect of the instruction: held in a protected unit, sent out at once in an unprotected launch (R138, R151). A unit
that would exceed 256 KiB traps (R141). A release, or one behind a store fence, follows the write-back of the dirty lines, which their parity may
end. The caller retires the instruction. -/
def State.putEffects (s : State) (t : Nat) (es : List Held) (par : CacheParity) (k : State → State) : State :=
  let x := s.tile t
  if x.isProtected then
    if 2 ^ 18 < x.heldBytes + heldCost es then s.trap t .commitBufferFull none
    else k (s.modTile t (fun x => { x with held := x.held ++ es, fencePending := false }))
  else if s.effectsWait t es then s
  else
    let r := if es.any (·.release) || x.fencePending then s.flushRead t par else (s, true)
    if !r.2 then r.1
    else k ((r.1.modTile t (fun x => { x with released := x.released ++ es, fencePending := false })).drainAll t)

/-- A held effect as the program placed it (R297): the first effect after a store fence carries the fence. -/
def Tile.mkHeld (x : Tile) (e : Effect) (va : Nat) (release : Bool) (device : Bool := false) : Held :=
  ⟨e, va, release, x.fencePending, false, device, x.pc, e.cost, none⟩

/-! ## The carry set (R143, R158) -/

/-- Base and length in bytes of a carry range (R158). -/
def carryRange (w : Word) : Nat × Nat := (bits w.toNat 6 16 * 64, bits w.toNat 38 16 * 64)

/-- The used carry ranges. -/
def Tile.carryRanges (x : Tile) : List (Nat × Nat) :=
  ((List.range 8).map (fun i => carryRange (tblGet 0 x.carry i))).filter (fun r => r.2 != 0)

/-- Bytes of the carry set (R143). -/
def Tile.carryBytes (x : Tile) (files : BitVec 4) : Nat :=
  x.carryRanges.foldl (fun a r => a + r.2) 0 + 67600 * ((List.range 4).filter (fun i => files.getLsbD i)).length

/-- The largest carry set of the vein (R60, R143). -/
def State.carryLimit (s : State) (t : Nat) : Nat :=
  match s.vein? (s.tile t).vein with
  | some v => v.ckptUnits * 8192 - 16384
  | none => 0

/-- The cause that a commit with these files meets before its commit point (R143, R158). -/
def State.carryCause (s : State) (t : Nat) (files : BitVec 4) : Option Trap :=
  let x := s.tile t
  if x.carryRanges.any (fun r => !s.inScratch t r.1 r.2 || x.meetsStable r.1 r.2) then some .tileMemAccess
  else if s.carryLimit t < x.carryBytes files then some .carryTooLarge
  else none

/-! ## Checkpoints (R144, R155) -/

/-- Bytes of scratch in the carry ranges. -/
def inRanges (rs : List (Nat × Nat)) (a : Nat) : Bool := rs.any (fun r => decide (r.1 ≤ a) && decide (a < r.1 + r.2))

/-- The checkpoint of a tile (R144, R155): registers, carry set, the program counter of the next instruction. -/
def Tile.snapshot (x : Tile) (files : BitVec 4) (pc : Nat) : Checkpoint :=
  let rs := x.carryRanges
  { g := x.g, v := x.v, p := x.p, gPoison := x.gPoison, vPoison := x.vPoison, pPoison := x.pPoison, pc := pc
    cycle := x.cycle, astat := x.astat, lfsr := x.lfsr, carry := x.carry, lc := x.lc, files := files
    mem := x.scratch.filter (fun e => inRanges rs e.1)
    poison := x.poison.filter (fun w => inRanges rs (8 * w))
    full := x.full.filter (fun w => inRanges rs (8 * w))
    accs := x.accs.filter (fun e => files.getLsbD e.1) }

/-- Nothing of the unit is in flight (R144 step 1). -/
def Tile.unitDone (x : Tile) : Bool :=
  x.matQueue.isEmpty && x.mmaRunning.isNone && x.accOps.isEmpty && x.moves.isEmpty
    && x.micas.all (fun m => !m.2.2) && x.pend.all (fun p => decide (p.kind = .ack))


/-- Retranslation of a held effect's destination (R281). -/
def State.retranslate (s : State) (t : Nat) (h : Held) : Option Held :=
  let x := s.tile t
  match h.eff with
  | .write _ bs p =>
    match s.reach (.tile t) (x.context.getD 0) x.segs h.va true with
    | .to d _ => some { h with eff := .write d bs p, retranslate := false }
    | _ => none
  | _ => some { h with retranslate := false }

/-- The first marked effect that misses its retranslation (R281). -/
def State.missed (s : State) (t : Nat) : Option Held :=
  (s.tile t).held.find? (fun h => h.retranslate && (s.retranslate t h).isNone)

/-- Every marked held effect translated again; `none` where one misses. -/
def State.retranslateAll (s : State) (t : Nat) : Option (List Held) :=
  (s.tile t).held.foldr (fun h acc =>
    match acc with
    | none => none
    | some l => if h.retranslate then (s.retranslate t h).map (· :: l) else some (h :: l)) (some [])

/-- The commit point of a protected unit (R144 steps 1 to 3 and 6): the checkpoint goes to the inactive half, the held
effects are released behind those still draining, `tail` is the value-returning operation of an implicit commit (R139). -/
def State.commitPoint (s : State) (t : Nat) (files : BitVec 4) (pc after : Nat) (tail : List Held) (keepResv : Bool) : State :=
  let x := s.tile t
  let ck := x.snapshot files pc
  let s := s.modTile t (fun x => { x with
    ckpt0 := if x.validHalf then some ck else x.ckpt0
    ckpt1 := if x.validHalf then x.ckpt1 else some ck
    run := .committing, afterCommit := after, pc := pc
    released := x.released ++ x.held ++ tail, held := [], fullFence := false, lastFiles := files
    fencePending := if tail.isEmpty then x.fencePending else false
    reservation := if keepResv then x.reservation else none })
  let s := if keepResv then s else { s with homes := { s.homes with
      resv := s.homes.resv.filter (fun r => r.tile != t), locks := s.homes.locks.filter (fun l => l.2.1 != t) } }
  s.drainAll t

/-- A full commit: it waits for the unit's operations and the marked effects' translations, traps on its carry set, and
else reaches its commit point (R143, R144, R281). -/
def State.commitUnit (s : State) (t : Nat) (files : BitVec 4) (pc after : Nat) (tail : List Held) (keepResv : Bool) : State :=
  let x := s.tile t
  if !x.unitDone then s
  else match s.carryCause t files with
    | some c => s.trap t c none
    | none =>
      match s.retranslateAll t with
      | none =>
        match s.missed t with
        | some h => s.askXlate (.tile t) (s.pasidOf (x.context.getD 0)) (hostAddr h.va) true true
        | none => s
      | some held => (s.modTile t (fun x => { x with held := held })).commitPoint t files pc after tail keepResv

/-- The implicit commit before an instruction that requires it (R138, R139, R296). The instruction issues again in the next
unit. -/
def State.implicitCommit (s : State) (t : Nat) : State :=
  let x := s.tile t
  s.commitUnit t x.lastFiles x.pc 0 [] false

/-- The implicit commit of a value-returning operation, performed as the last effect at the commit point (R139). -/
def State.implicitTail (s : State) (t : Nat) (wide : Bool) (tail : Held) (keepResv : Bool) : State :=
  let x := s.tile t
  s.commitUnit t x.lastFiles (x.pc + if wide then 8 else 4) 0 [tail] keepResv

/-! ## `commit`, `yield`, `halt`, `trap` (R144, R146, R151, R172) -/


/-- `commit` and `yield`: `after` 2 offers the boundary for a scheduled change (R146). -/
def State.commitInsn (s : State) (t : Nat) (files : BitVec 4) (after : Nat) : State :=
  s.issue t false [] (fun s =>
    let x := s.tile t
    if x.isProtected then s.commitUnit t files (x.pc + 4) after [] false
    else
      let s := s.drainAll t
      if (s.tile t).released.isEmpty then (s.clearReservation t).retire t false else s)

def execCommit (t : Nat) (files : BitVec 4) (s : State) : Host.Outcome State Fault Refusal := .next (s.spelled t (.commit t files) (s.commitInsn t files 0))
def execYield (t : Nat) (files : BitVec 4) (s : State) : Host.Outcome State Fault Refusal := .next (s.spelled t (.yield t files) (s.commitInsn t files 2))

/-- R172, R137, R230: a protected `halt` commits the last unit with no carry set; an unprotected one writes every dirty
sector back and waits until its effects are accepted. -/
def execHalt (t : Nat) (par : CacheParity) (s : State) : Host.Outcome State Fault Refusal :=
  .next (s.spelled t (.halt t par) (s.issue t false [] (fun s =>
    let x := s.tile t
    if x.isProtected then
      if !x.unitDone then s
      else match s.retranslateAll t with
        | none =>
          match s.missed t with
          | some h => s.askXlate (.tile t) (s.pasidOf (x.context.getD 0)) (hostAddr h.va) true true
          | none => s
        | some held =>
          (s.modTile t (fun x => { x with held := held, carry := [] })).commitPoint t 0 (x.pc + 4) 1 [] false
    else
      let r := s.flushRead t par
      let s := r.1.drainAll t
      if !r.2 then r.1
      else if (s.tile t).released.isEmpty && !(s.tile t).storing then
        let s := ((s.clearReservation t).retire t false).modTile t (fun x => { x with run := .halted })
        match x.task with
        | some k => s.settle k
        | none => s
      else s)))

def execTrap (t : Nat) (code : BitVec 9) (s : State) : Host.Outcome State Fault Refusal :=
  .next (s.spelled t (.trap t code) (s.issue t false [] (fun s => s.trap t .trapInsn (some code.toNat))))

/-! ## Fences (R170, R294) -/

/-- `ldfence`: it retires once every earlier load, those of inbound moves among them, is performed. -/
def execLdfence (t : Nat) (s : State) : Host.Outcome State Fault Refusal :=
  .next (s.spelled t (.ldfence t) (s.issue t false [] (fun s =>
    let x := s.tile t
    if x.pend.all (fun p => decide (p.kind = .ack)) && !x.readsOut then s.retire t false else s)))

/-- `stfence`: the next effect is sent only once the earlier writes are acknowledged. -/
def execStfence (t : Nat) (s : State) : Host.Outcome State Fault Refusal :=
  .next (s.spelled t (.stfence t) (s.issue t false [] (fun s => (s.modTile t (fun x => { x with fencePending := true })).retire t false)))

/-- `fullfence`: earlier loads are performed; unprotected, earlier writes are globally observed before it retires; in a
protected unit a held effect makes the next load commit first (R296), and later loads wait for the observation of what was written
before the fence (R294, R304). -/
def execFullfence (t : Nat) (par : CacheParity) (s : State) : Host.Outcome State Fault Refusal :=
  .next (s.spelled t (.fullfence t par) (s.issue t false [] (fun s =>
    let x := s.tile t
    if !x.pend.all (fun p => decide (p.kind = .ack)) || x.readsOut then s
    else if x.isProtected then
      (s.modTile t (fun x => { x with
        fencePending := true, fullFence := x.fullFence || !x.held.isEmpty
        observe := x.observe || x.writesOut || !x.held.isEmpty })).retire t false
    else
      let r := s.flushRead t par
      let s := r.1.drainAll t
      if !r.2 then r.1
      else if (s.tile t).released.isEmpty && (s.tile t).pend.isEmpty && !(s.tile t).storing then s.retire t false else s)))

end Sys2Proof.Machine
end

