-- ==== Sys2Proof/Machine/TileMemory.lean ====
section
/-! DEFINITION. Scalar memory instructions (R167 to R169): loads, stores, reservations and atomics, tile-local and outside
the tile, through the data cache where the access uses it (R227 to R233). -/

namespace Sys2Proof.Machine

/-! ## The access -/

/-- What the pieces of an access meet (R168, R189, R266): the first cause, or a miss, or the pieces. -/
inductive Access where
  | cause (c : Trap) (a : Nat)
  | miss (a : Nat)
  | held
  | ok (ps : List Piece)
deriving DecidableEq, Repr

/-- An access to device-virtual memory. -/
def State.access (s : State) (t va n : Nat) (write : Bool) : Access :=
  let x := s.tile t
  let c := x.context.getD 0
  let rs := (pieces va n).map (fun p => (p, s.reach (.tile t) c x.segs p.2.1 write))
  let isDev := rs.any (fun r => match findSeg x.segs r.1.2.1 with
    | some g => g.isDevice && !isHostVa r.1.2.1
    | none => false)
  if isDev && va % n != 0 then .cause .misaligned va
  else match rs.find? (fun r => decide (r.2 = .outside)) with
    | some r => .cause .segFault r.1.2.1
    | none => match rs.find? (fun r => decide (r.2 = .noRight)) with
      | some r => .cause .rights r.1.2.1
      | none => match rs.find? (fun r => decide (r.2 = .miss)) with
        | some r => .miss r.1.2.1
        | none =>
          if rs.any (fun r => decide (r.2 = .held)) then .held
          else .ok (rs.filterMap (fun r => match r.2 with
            | .to d g => some ⟨r.1.1, r.1.2.1, r.1.2.2, d, g⟩
            | _ => none))

/-- Adjacent pieces of one slot that go to one place in a row are one write; two slots make two (R266). -/
def mergePieces : List Piece → List Piece
  | [] => []
  | p :: ps =>
    match mergePieces ps with
    | [] => [p]
    | q :: qs =>
      let joined := match p.dst, q.dst with
        | .device a b, .device a' b' => decide (a + p.len = a') && b == b'
        | .host a b, .host a' b' => decide (a + p.len = a') && b == b'
        | .remote d a, .remote d' a' => d == d' && decide (a + p.len = a')
        | _, _ => false
      -- two pages of host space may come to lie apart when they are translated again (R281)
      let paged := isHostVa p.va && q.va % 4096 == 0
      if joined && !paged && decide (p.seg = q.seg) then { p with len := p.len + q.len } :: qs else p :: q :: qs

/-- Pieces that lie in a row at another device are one get, but across a 4 KiB boundary of it (R434). -/
def gets : List Piece → List Piece
  | [] => []
  | p :: ps =>
    match gets ps with
    | [] => [p]
    | q :: qs =>
      match p.dst, q.dst with
      | .remote d a, .remote d' a' =>
        if d = d' ∧ a + p.len = a' ∧ a' % 4096 ≠ 0 then { p with len := p.len + q.len } :: qs else p :: q :: qs
      | _, _ => p :: q :: qs

/-! ## The tile's own writes (R140, R294) -/

/-- Place of one byte of a destination. -/
def Dest.at (d : Dest) (i : Nat) : Dest :=
  match d with
  | .device a c => .device (a + i) c
  | .host a io => .host (a + i) io
  | .remote dev a => .remote dev (a + i)

/-- Whether two places are one byte. -/
def samePlace (a b : Dest) : Bool :=
  match a, b with
  | .device x _, .device y _ => x == y
  | .host x _, .host y _ => x == y
  | .remote d x, .remote e y => d == e && x == y
  | _, _ => false

/-- The byte that a write gives to a place. -/
def Effect.byteAt (e : Effect) (d : Dest) : Option (Byte × Bool) :=
  let pick (dst : Dest) (bs : List Byte) (p : Bool) : Option (Byte × Bool) :=
    ((List.range bs.length).find? (fun i => samePlace (dst.at i) d)).map (fun i => (nth 0 bs i, p))
  match e with
  | .write dst bs p => pick dst bs p
  | .put dev a bs => ((List.range bs.length).find? (fun i => samePlace (.remote dev (a + i)) d)).map (fun i => nth (0, false) bs i)
  | .fill dst v p => pick dst (leBytes 8 v) p
  | _ => none

/-- The tile's newest held or undrained byte for a place (R140). -/
def Tile.ownByte (x : Tile) (d : Dest) : Option (Byte × Bool) :=
  (x.released ++ x.held).reverse.findSome? (fun h => h.eff.byteAt d)

/-- A store that waits for its line holds a byte (R231). -/
def Tile.storesTo (x : Tile) (d : Dest) : Bool :=
  match x.miss.bind (·.store) with
  | some w => w.1.any (fun p => p.dst.meets p.len d 1)
  | none => false

/-- A write of the tile to a place is under way and not yet acknowledged, waits for its line, or, of an atomic, waits to be sent (R231,
R294, same address). -/
def State.inFlight (s : State) (t : Nat) (d : Dest) : Bool :=
  (s.tile t).storesTo d || (s.tile t).released.any (fun h => h.asks && (h.eff.place.map (fun p => p.1.meets p.2 d 1)).getD false) || (s.tile t).pend.any (fun p => p.waits.any (fun w =>
    match tblFind s.pkts w.1, tblFind s.host.up w.1, tblFind s.fab.ops w.1 with
    | some k, _, _ =>
      match k.req, d with
      | .write a bs _ _, .device b _ => decide (a ≤ b) && decide (b < a + bs.length)
      | .feFill a _ _, .device b _ => decide (a ≤ b) && decide (b < a + 8)
      | .amo a w _ _ _ _, .device b _ => decide (a ≤ b) && decide (b < a + if w then 8 else 4)
      | .sc a w _ _, .device b _ => decide (a ≤ b) && decide (b < a + if w then 8 else 4)
      | _, _ => false
    | none, some u, _ =>
      match d with
      | .host b _ => !u.bytes.isEmpty && decide (u.addr ≤ b) && decide (b < u.addr + u.len)
      | _ => false
    | none, none, some o =>
      match d with
      | .remote dev b => o.device == dev && !o.bytes.isEmpty && o.kind != 1 && decide (o.addr ≤ b) && decide (b < o.addr + o.bytes.length)
      | _ => false
    | none, none, none => false))

/-! ## Cache policy (R228) -/

/-- How a load uses the data cache. -/
inductive CacheUse where
  | allocate | lookup | uncached
deriving DecidableEq, Repr

/-- R228: the policy of an access. -/
def State.cacheUse (s : State) (t : Nat) (p : Piece) : CacheUse :=
  let x := s.tile t
  if s.carve t = 0 || !x.dctl.enabled then .uncached
  else match p.dst, p.seg with
    | .remote _ _, _ => .uncached
    | .host _ io, _ => if io then .uncached else .allocate
    | .device _ checked, none => if checked then .allocate else .uncached
    | .device _ _, some g =>
      if g.isDevice || g.tagged || g.shared then .uncached
      else if g.policy = 3 then .uncached
      else if g.policy = 2 then .lookup
      else .allocate

/-- A write-back allocating store of an unprotected launch (R228). -/
def State.storeBack (s : State) (t : Nat) (p : Piece) : Bool :=
  !(s.tile t).isProtected &&
    match p.seg with
    | some g => decide (g.policy = 0) && !isHostVa p.va && decide (s.cacheUse t p = .allocate)
    | none => false

/-- Address and space of a piece in the cache. -/
def Piece.key (p : Piece) : Bool × Nat :=
  match p.dst with
  | .device a _ => (false, a)
  | .host a _ => (true, a)
  | .remote _ a => (false, a)

/-- The cache line that holds a piece. -/
def State.lineOf (s : State) (t : Nat) (p : Piece) : Option CacheLine := (s.tile t).lineAt (s.lineSize t) p.key.1 p.key.2

/-- Compatibility ways (R58): DCACHE bits [4:3]. -/
def compatWays (dcache : Nat) : Nat := 2 ^ (bits dcache 3 2 + 1)

/-- Ways of a tile's data cache, and the number of its sets (R223). -/
def State.cacheShape (s : State) (t : Nat) : Nat × Nat :=
  let c := s.carve t
  if s.lineSize t = 64 then
    let w := match s.vein? (s.tile t).vein with
      | some v => compatWays v.dcache
      | none => 2
    (w, Nat.max (c / (64 * w)) 1)
  else (4, Nat.max (c / 2048) 1)

/-- The set of a line. -/
def State.lineSet (s : State) (t line : Nat) : Nat := line * s.lineSize t / s.unitSize t % (s.cacheShape t).2

/-- A line is used: its set's pseudo-LRU bits point away from its way (R224). -/
def State.touchLine (s : State) (t : Nat) (l : CacheLine) : State :=
  let k := s.lineSet t l.line
  s.modTile t (fun x => { x with plru := tblPut x.plru k (plruTouch (s.cacheShape t).1 (tblGet 0 x.plru k) l.way) })

/-- The sectors or lines that a miss fetches: its own and, for loads, the next one of its block (R231). -/
def State.missLines (s : State) (t a : Nat) (prefetch : Bool) : List Nat :=
  let size := s.lineSize t
  let l := a / size
  if prefetch && decide ((l + 1) * size / 512 = a / 512) then [l, l + 1] else [l]

/-- A data-cache miss: one request for each line, two for a host sector of the native layout; the pipe stalls while another miss
is out (R231). `load`, `store`: the load or the store that awaits it. -/
def State.startMiss (s : State) (t : Nat) (p : Piece) (own prefetch : Bool) (load : Option (Nat × List Piece))
    (store : Option (List Piece × List Byte × Bool)) : State :=
  let x := s.tile t
  if x.miss.isSome then s
  else
    let size := s.lineSize t
    let c := x.context.getD 0
    let lines := (s.missLines t p.key.2 prefetch).filter (fun l => (x.lineAt size p.key.1 (l * size)).isNone || l == p.key.2 / size)
    let id := s.nextId
    let s' := lines.foldl (fun s l =>
      if p.key.1 then
        (lines64 (l * size) size).foldl (fun s h =>
          s.sendUp ⟨.tile t, x.task, .rdShared, s.pasidOf c, h.2.1, 64, [], false, false, false, none, none⟩) s
      else s.sendPkt (.tile t) (some c) (if own then .readOwn (l * size) size else .read (l * size) size true) x.task) s
    s'.modTile t (fun x => { x with miss := some ⟨id, s'.nextId - id, p.va, lines.map (fun l => 2 * l + b2n p.key.1), load, store⟩ })

/-! ## Loads (R168) -/

/-- Sign or zero extension of a loaded value (R167). -/
def extend (size : Nat) (zx : Bool) (v : Nat) : Word :=
  if zx || decide (size = 8) then BitVec.ofNat 64 v else BitVec.ofInt 64 (toSigned (8 * size) v)

/-- A load has to wait for an implicit commit (R296, R138). -/
def Tile.mustCommit (x : Tile) (acquire device : Bool) : Bool :=
  x.isProtected && ((acquire && x.held.any (·.release)) || (x.fullFence && !x.held.isEmpty) || device)

/-- The address operand. -/
def Tile.addr (x : Tile) (ra : Reg) (off : BitVec 13) : Nat := (x.gr ra + sext13 off).toNat

/-- The bytes of present lines. -/
def State.lineBytes (s : State) (t : Nat) (p : Piece) : List (Byte × Bool) :=
  let x := s.tile t
  let size := s.lineSize t
  (List.range p.len).map (fun i =>
    match x.lineAt size p.key.1 (p.key.2 + i) with
    | some l => (memGet l.bytes ((p.key.2 + i) % size), setHas l.poison ((p.key.2 + i) % size / 8))
    | none => (0, false))

/-- A value from cached lines and the tile's own bytes. -/
def State.cachedValue (s : State) (t : Nat) (ps : List Piece) : List (Byte × Bool) :=
  (ps.map (fun p => (s.lineBytes t p).zipIdx.map (fun b => ((s.tile t).ownByte (p.dst.at b.2)).getD b.1))).flatten

/-- The tile's own held or undrained bytes for an access, by offset (R140). -/
def Tile.overlay (x : Tile) (ps : List Piece) : List (Nat × Byte × Bool) :=
  (ps.map (fun p => (List.range p.len).filterMap (fun i => (x.ownByte (p.dst.at i)).map (fun b => (p.off + i, b))))).flatten

/-- A piece goes through a Device segment (R298). -/
def Piece.isDevice (p : Piece) : Bool := (p.seg.map (·.isDevice)).getD false

/-- A Device access of the tile is not yet acknowledged (R298). -/
def Tile.deviceOut (x : Tile) : Bool := x.pend.any (·.device) || x.released.any (·.device) || x.moves.any (·.device)

/-- A load whose pieces are known (R168, R228, R231, R298). -/
def State.loadPieces (s : State) (t : Nat) (rd : Reg) (size : Nat) (zx acquire : Bool) (ps : List Piece) (par : CacheParity) :
    State :=
  let x := s.tile t
  let device := ps.any Piece.isDevice
  let va := ((ps.head?).map (·.va)).getD 0
  if ps.any (fun p => (List.range p.len).any (fun i => s.inFlight t (p.dst.at i))) then s
  else if device && x.deviceOut then s
  else if x.mustCommit acquire device then
    match ps with
    | [p] =>
      if device then s.implicitTail t false (x.mkHeld (.ask .load p.dst size 0 0 0 rd 0 zx acquire false) p.va false true) false
      else s.implicitCommit t
    | _ => s.implicitCommit t
  else if x.observing then s
  else
    -- each piece follows the policy of its own slot (R228, R266)
    let here (p : Piece) : Bool := decide (s.cacheUse t p ≠ .uncached) && (s.lineOf t p).isSome
    let fills (p : Piece) : Bool := decide (s.cacheUse t p = .allocate) && !here p
    let direct := gets (ps.filter (fun p => !here p && !fills p))
    if ps.all here then
      let ls := ps.filterMap (s.lineOf t)
      let r := s.parityChecks t ls par
      if r.2 then
        let v := s.cachedValue t ps
        (((ls.foldl (fun s l => s.touchLine t l) s).modTile t (fun x =>
          x.setG rd (extend size zx (leNat (v.map (·.1)))) (v.any (·.2)))).retire t false)
      else r.1
    else if direct.isEmpty then
      -- the load awaits the fill; the tile goes on (R231)
      match ps.find? fills, x.miss with
      | some p, none =>
        let id := s.nextId
        let op : PendOp := ⟨id, .load, rd, 0, size, zx, List.replicate size 0, false, [], x.overlay ps, acquire, false, x.pc, va⟩
        ((s.bump.startMiss t p false true (some (id, ps)) none).modTile t (fun x => { x with pend := x.pend ++ [op] })).retire t false
      | _, _ => s
    else match ps.find? fills with
    | some p => s.startMiss t p false true none none
    | none =>
      -- past the cache: one request for each such piece; what the cache holds, and the tile's own bytes, over the answers
      let r := s.parityChecks t ((ps.filter here).filterMap (s.lineOf t)) par
      if !r.2 then r.1 else
      let s := r.1
      let cached := ((ps.filter here).map (fun p => (s.lineBytes t p).zipIdx.map (fun b => (p.off + b.2, b.1)))).flatten
      let o : Origin := ⟨device, x.pc, va⟩
      let id := s.nextId
      let s' := direct.foldl (fun s p => s.sendAsk t o .load p.dst p.len 0 0 0 0 0 true false false []) s
      let waits := (idsBetween s s').zip (direct.map (fun p => (p.off, p.len)))
      let s' := s'.modTile t (fun x => { x with pend := x.pend.filter (fun o => o.id < id) ++
        [⟨id, .load, rd, 0, size, zx, List.replicate size 0, false, waits, x.overlay ps ++ cached, acquire, device, x.pc, va⟩] })
      (s'.dropGrants (.tile t)).retire t false

/-- Scalar load (R167, R168). -/
def execLoad (t : Nat) (rd ra : Reg) (m : MemMode) (off : BitVec 13) (parity : CacheParity) (ecc : TileEcc) (s : State) :
    Host.Outcome State Fault Refusal :=
  .next (s.spelled t (.load t rd ra m off parity ecc) (s.issue t false [rd, ra] (fun s =>
    let x := s.tile t
    let size := 2 ^ m.size.val
    let a := x.addr ra off
    if m.zx && decide (m.size = 3) then s.trap t .illegalInsn none
    else if m.loc then
      if !s.inScratch t a size then s.trap t .tileMemAccess (some a)
      else if s.conflict t [⟨a, size⟩] [] then s
      else
        ((s.tileFound t [⟨a, size⟩] ecc).modTile t (fun x =>
          x.setG rd (extend size m.zx (leNat (memRead x.scratch a size))) (anyPoison x.poison a size))).retire t false
    else if x.acquiring || (m.mark && x.writesOut) then s
    else match s.access t a size false with
      | .cause c v => s.trap t c (some v)
      | .miss v => s.askXlate (.tile t) (s.pasidOf (x.context.getD 0)) (hostAddr v) false true
      | .held => s
      | .ok ps => s.loadPieces t rd size m.zx m.mark ps parity)))

/-! ## Stores (R168) -/

/-- The parts of a piece by line of a cache. -/
def Piece.byLine (p : Piece) (size : Nat) : List Piece :=
  let a := p.key.2
  (List.range ((a + p.len - 1) / size + 1 - a / size)).map (fun i =>
    let lo := Nat.max a ((a / size + i) * size)
    let hi := Nat.min (a + p.len) ((a / size + i + 1) * size)
    { p with off := p.off + (lo - a), va := p.va + (lo - a), len := hi - lo, dst := p.dst.at (lo - a) })

/-- The tile owns the line of a piece, and holds it. -/
def State.ownsLine (s : State) (t : Nat) (p : Piece) : Bool :=
  (s.lineOf t p).isSome && decide (s.sectSt (sectorOf p.key.2) = .m t)

/-- Write-back bytes reach their lines, which become dirty; another agent's reservation on them breaks (R228, R302). -/
def State.writeLines (s : State) (t : Nat) (ps : List Piece) (bs : List Byte) (pois : Bool) : State :=
  ps.foldl (fun s p =>
    let s := match s.lineOf t p with
      | some l => s.touchLine t l
      | none => s
    let s := s.copySees p.key.2 p.len
    (s.modTile t (fun x => x.updateLines (s.lineSize t) false p.key.2 ((bs.drop p.off).take p.len) pois true)).breakReservations
      p.key.2 p.len (some t)) s

/-- A write-back store: into lines that the tile owns; where it does not own one, it retires with the fetch of the first under way, and is
merged when the lines are here (R228, R231). What of the
store goes past the cache is sent beside it. One with the release mark, or behind a store fence, follows the tile's earlier accesses,
the dirty lines among them (R293, R294). -/
def State.storeCached (s : State) (t : Nat) (back : List Piece) (rest : List Held) (bs : List Byte) (pois mark : Bool)
    (par : CacheParity) : State :=
  let x := s.tile t
  let size := s.lineSize t
  let parts := (back.map (fun p => p.byLine size)).flatten
  let need := parts.find? (fun p => !s.ownsLine t p)
  if (mark || x.fencePending) && (x.writesOut || (mark && x.readsOut)) || parts.any (fun p => s.loadInFlight t p.dst p.len) then s
  else if parts.any (fun p => s.lockedFor (some t) p.key.2 p.len) || (need.isSome && x.miss.isSome) || parts.any (fun p =>
      (List.range p.len).any (fun i => x.storesTo (p.dst.at i))) then s
  else
    let flush := mark || x.fencePending
    let r := s.parityChecks t (parts.filterMap (s.lineOf t) ++ (if flush then x.dirtyLines else [])) par
    if !r.2 then r.1
    else
      let s := if flush then r.1.flushTile t else r.1
      s.putEffects t rest .good (fun s =>
        let s := if pois then s.taskFault? x.task .poisonedOutput (mkDetail 0x4A (some ((back.headD ⟨0, 0, 0, .device 0 true, none⟩).va)) 0 0)
          else s
        let s := match need with
          | some p => s.startMiss t p true false none (some (parts, bs, pois))
          | none => s.writeLines t parts bs pois
        (s.countBytes x.task (parts.foldl (fun n p => n + p.len) 0)).retire t false)

/-- Scalar store (R167, R168). -/
def execStore (t : Nat) (rb ra : Reg) (m : MemMode) (off : BitVec 13) (parity : CacheParity) (s : State) :
    Host.Outcome State Fault Refusal :=
  .next (s.spelled t (.store t rb ra m off parity) (s.issue t false [rb, ra] (fun s =>
    let x := s.tile t
    let size := 2 ^ m.size.val
    let a := x.addr ra off
    let bs := leBytes size (x.gr rb).toNat
    let pois := x.gp rb
    if m.zx then s.trap t .illegalInsn none
    else if m.loc then
      if !s.inScratch t a size then s.trap t .tileMemAccess (some a)
      else if x.meetsStable a size then s.trap t .stableWrite (some a)
      else if s.conflict t [] [⟨a, size⟩] then s
      else (s.modTile t (fun x => x.storeScratch a bs pois)).retire t false
    else if x.acquiring then s
    else match s.access t a size true with
      | .cause c v => s.trap t c (some v)
      | .miss v => s.askXlate (.tile t) (s.pasidOf (x.context.getD 0)) (hostAddr v) true true
      | .held => s
      | .ok ps =>
        let qs := mergePieces ps
        let back := if x.isProtected then [] else qs.filter (s.storeBack t)
        let rest := (qs.filter (fun p => !back.contains p)).map (fun p =>
          x.mkHeld (.write p.dst ((bs.drop p.off).take p.len) pois) p.va m.mark p.isDevice)
        if rest.any (·.device) && !x.isProtected && x.deviceOut then s
        else if back.isEmpty then s.putEffects t rest parity (fun s => (s.dropGrants (.tile t)).retire t false)
        else s.storeCached t back rest bs pois m.mark parity)))

/-! ## Reservations and atomics (R169) -/

/-- The old value of a tile-local location, and the access's checks: alignment, scratch, and for a write the stable region
and R187. -/
def State.localAtomic (s : State) (t : Nat) (ra : Reg) (m : AmoMode) (write : Bool) (ecc : TileEcc)
    (f : Nat → Nat → Bool → State → State) : State :=
  let x := s.tile t
  let size := if m.size64 then 8 else 4
  let a := (x.gr ra).toNat
  if a % size ≠ 0 then s.trap t .misaligned (some a)
  else if !s.inScratch t a size then s.trap t .tileMemAccess (some a)
  else if write && x.meetsStable a size then s.trap t .stableWrite (some a)
  else if s.conflict t [⟨a, size⟩] (if write then [⟨a, size⟩] else []) then s
  else
    let s := s.tileFound t [⟨a, size⟩] ecc
    f a (leNat (memRead x.scratch a size)) (anyPoison (s.tile t).poison a size) s

/-- The checks of an operation outside the tile (R169, R189, R435): a remote one that the fabric does not carry, alignment,
segment, host space, rights. -/
def State.outerAtomic (s : State) (t : Nat) (ra : Reg) (m : AmoMode) (read write remoteOk : Bool)
    (par : CacheParity) (f : Dest → Nat → Bool → State → State) : State :=
  let x := s.tile t
  let size := if m.size64 then 8 else 4
  let a := (x.gr ra).toNat
  let seg := if isHostVa a then none else findSeg x.segs a
  if x.acquiring || (m.aq && x.writesOut) then s
  else if !remoteOk && (seg.map (fun g => g.device != s.fab.self)).getD false then s.trap t .illegalInsn none
  else if a % size ≠ 0 then s.trap t .misaligned (some a)
  else if isHostVa a then s.trap t .hostAtomic (some a)
  else match seg with
    | none => s.trap t .segFault (some a)
    | some g =>
      if (read && !g.r) || (write && !g.w) then s.trap t .rights (some a)
      else if g.isDevice && x.deviceOut then s
      else
        -- the tile's own copy of the line is written back and invalidated first (R227)
        let la := g.local' a
        if g.device = s.fab.self then
          let r := s.parityChecks t (x.dirtyLines.filter (fun l => (sectorsOf la size).contains (l.line * s.lineSize t / 128))) par
          if !r.2 then r.1 else f (.device la true) a g.isDevice (r.1.dropOwn t la size)
        else f (.remote g.device la) a g.isDevice s

/-- Writes of the tile that precede a release, or that a load of the same place would have to see. -/
def State.amoStall (s : State) (t : Nat) (d : Dest) (release : Bool) : Bool :=
  let x := s.tile t
  s.inFlight t d || (x.ownByte d).isSome && !x.isProtected || release && !x.isProtected && (x.writesOut || x.readsOut)

/-- `lr` (R169, R302). -/
def execLr (t : Nat) (rd ra : Reg) (m : AmoMode) (ecc : TileEcc) (par : CacheParity) (s : State) : Host.Outcome State Fault Refusal :=
  .next (s.spelled t (.lr t rd ra m ecc par) (s.issue t false [rd, ra] (fun s =>
    let size := if m.size64 then 8 else 4
    if m.loc then
      s.localAtomic t ra m false ecc (fun a old p s =>
        ((s.clearReservation t).modTile t (fun x =>
          { x.setG rd (BitVec.ofNat 64 old) p with reservation := some (true, a / 64 * 64) })).retire t false)
    else s.outerAtomic t ra m true false false par (fun d va device s =>
      let x := s.tile t
      if s.amoStall t d m.rl then s
      else if x.isProtected && device then
        s.implicitTail t false (x.mkHeld (.ask .reserve d size 0 0 0 rd 0 true m.aq false) va false true) false
      else if x.mustCommit m.aq false then s.implicitCommit t
      else if x.observing then s
      else
        -- the tile's own held bytes are seen over the answer (R140)
        let own := (List.range size).filterMap (fun i => (x.ownByte (d.at i)).map (fun b => (i, b)))
        (((s.clearReservation t).sendAsk t ⟨device, x.pc, va⟩ .reserve d size 0 0 0 rd 0 true m.aq false own).retire t false)))))

/-- `sc` (R169, R302): outside the tile the home decides whether the reservation holds; in a protected unit it is the last effect of an
implicit commit, which keeps the reservation (R138, R139). -/
def execSc (t : Nat) (rd ra rb : Reg) (m : AmoMode) (par : CacheParity) (s : State) : Host.Outcome State Fault Refusal :=
  .next (s.spelled t (.sc t rd ra rb m par) (s.issue t false [rd, ra, rb] (fun s =>
    let size := if m.size64 then 8 else 4
    if m.loc then
      s.localAtomic t ra m true .clean (fun a _ _ s =>
        let x := s.tile t
        let hit := decide (x.reservation = some (true, a / 64 * 64))
        let s := if hit then s.modTile t (fun x => x.storeScratch a (leBytes size (x.gr rb).toNat) (x.gp rb)) else s
        ((s.clearReservation t).modTile t (fun x => x.setG rd (if hit then 0 else 1) false)).retire t false)
    else s.outerAtomic t ra m false true false par (fun d va device s =>
      let x := s.tile t
      if s.amoStall t d m.rl || x.pend.any (fun p => decide (p.kind = .reserve)) then s
      else
        let e := x.mkHeld (.ask .cond d size 0 0 (x.gr rb).toNat rd 0 true m.aq (x.gp rb)) va m.rl device
        if x.isProtected then s.implicitTail t false e true
        else s.putEffects t [e] par (fun s => s.retire t false)))))

/-- The new value of an atomic (R169): 0 add, 1 swap, 2 compare-and-swap. -/
def amoNew (op size cmp v old : Nat) : Nat :=
  match op with
  | 0 => (old + v) % 2 ^ (8 * size)
  | 1 => v % 2 ^ (8 * size)
  | _ => if old = cmp % 2 ^ (8 * size) then v % 2 ^ (8 * size) else old

/-- `amo.add`, `amo.swap`, `amo.cas` (R169). -/
def State.amo (s : State) (t : Nat) (rd ra rb : Reg) (m : AmoMode) (op : Nat) (ecc : TileEcc) (par : CacheParity) : State :=
  s.issue t false [rd, ra, rb] (fun s =>
    let size := if m.size64 then 8 else 4
    if m.loc then
      s.localAtomic t ra m true ecc (fun a old p s =>
        (s.modTile t (fun x =>
          let new := amoNew op size (x.gr rd).toNat (x.gr rb).toNat old
          let hit := decide (op ≠ 2) || decide (old = (x.gr rd).toNat % 2 ^ (8 * size))
          let y := if hit then x.storeScratch a (leBytes size new) (x.gp rb || (p && op == 0)) else x
          y.setG rd (BitVec.ofNat 64 old) p)).retire t false)
    else s.outerAtomic t ra m true true (decide (op ≠ 1) && m.size64) par (fun d va device s =>
      let x := s.tile t
      let e := x.mkHeld (.ask .atomic d size op (x.gr rd).toNat (x.gr rb).toNat rd 0 true m.aq (x.gp rb || (op == 2 && x.gp rd))) va m.rl
        device
      if s.amoStall t d m.rl then s
      else if x.isProtected then s.implicitTail t false e false
      else s.putEffects t [e] par (fun s => s.retire t false)))

def execAmoAdd (t : Nat) (rd ra rb : Reg) (m : AmoMode) (ecc : TileEcc) (par : CacheParity) (s : State) : Host.Outcome State Fault Refusal :=
  .next (s.spelled t (.amoAdd t rd ra rb m ecc par) (s.amo t rd ra rb m 0 ecc par))
def execAmoSwap (t : Nat) (rd ra rb : Reg) (m : AmoMode) (ecc : TileEcc) (par : CacheParity) (s : State) : Host.Outcome State Fault Refusal :=
  .next (s.spelled t (.amoSwap t rd ra rb m ecc par) (s.amo t rd ra rb m 1 ecc par))
def execAmoCas (t : Nat) (rd ra rb : Reg) (m : AmoMode) (ecc : TileEcc) (par : CacheParity) (s : State) : Host.Outcome State Fault Refusal :=
  .next (s.spelled t (.amoCas t rd ra rb m ecc par) (s.amo t rd ra rb m 2 ecc par))

end Sys2Proof.Machine
end

