-- ==== Sys2Proof/Machine/Sync.lean ====
section
/-! DEFINITION. Synchronisation instructions (R184 to R186, R295, R330, R336, R337, R346): counters, barriers, full/empty
words, local counters. -/

namespace Sys2Proof.Machine

/-! ## Shared forms -/

/-- Fields of the second word that an instruction does not use are 0, and COND is not 3 (R161, R184, R346). -/
def syncOk (m : SyncCtl) (fe peek remote cond : Bool) : Bool :=
  (fe || !m.loc) && (peek || !m.nw) && (m.pd == 0 || (peek && m.nw)) && (m.gdev == 0 || (remote && !m.loc))
    && (if cond then m.cond != 3#2 else m.cond == 0#2)

/-- A valid synchronisation instruction issues; another traps. -/
def State.sync (s : State) (t : Nat) (ok : Bool) (regs : List Reg) (f : State → State) : State :=
  s.issue t true regs (fun s => if ok then f s else s.trap t .illegalInsn none)

/-- The target device of GDEV (R184): none for this block. -/
def Tile.target (x : Tile) (g : Reg) : Option Nat := if g = 0 then none else some ((x.gr g).toNat % 2 ^ 16)

/-- The object lies in the vein's range and belonged to the launch's context at dispatch (R184, R330). -/
def State.objOk (s : State) (t n : Nat) : Bool :=
  match s.vein? (s.tile t).vein with
  | some v => decide (n < 2 ^ 14) && decide (v.flintFirst ≤ n) && decide (n < v.flintFirst + v.flintCount) && setHas (s.tile t).owned n
  | none => false

/-- An object operand (R184); of another device only its bits [63:14] are checked here (R346). -/
def State.object (s : State) (t : Nat) (ga : Reg) (dev : Option Nat) (f : Nat → State) : State :=
  let n := ((s.tile t).gr ga).toNat
  if (if dev.isSome then decide (n < 2 ^ 14) else s.objOk t n) then f n else s.trap t .object (some n)

/-- A tile begins or continues a wait inside the tile (R152), on a word where `a` names one: the program counter stays. -/
def State.waiting (s : State) (t : Nat) (k : WaitKind) (a : Option Nat) : State :=
  s.modTile t (fun x => { x with
    run := .waiting k, waitAddr := a
    waitSeq := match x.waitSeq with
      | some w => some w
      | none => some (0, s.now) })

/-- A wait ends: the sequencer is ungated and goes on (R152). -/
def Tile.resume (x : Tile) : Tile := { x with run := .running, waitSeq := none, waitAddr := none, gated := setDel x.gated 0 }

/-- A local wait may have ended: the instruction issues again (R152). -/
def Tile.poke (x : Tile) : Tile :=
  match x.run with
  | .waiting .lcWait => { x with run := .running, gated := setDel x.gated 0 }
  | .waiting .feTake | .waiting .fePeek => if x.pend.all (fun p => decide (p.kind = .ack)) then { x with run := .running, gated := setDel x.gated 0 } else x
  | _ => x

/-- The wait of the instruction is over. -/
def Tile.endWait (x : Tile) : Tile := { x with waitSeq := none, waitAddr := none }

/-- A wait at a home is requested (R334): the answer is a wake. -/
def State.register (s : State) (t n : Nat) (c : Cond) (k : WaitKind) (rd : Reg) : State :=
  let id := s.nextId
  let x := s.tile t
  (s.sendPkt (.tile t) x.context (.flintWait n c) x.task).modTile t (fun x => { x with
    run := .waiting k, waitSeq := some (id, s.now)
    pend := x.pend ++ [⟨id, .wait, rd, 0, 8, true, [], false, [], [], true, false, x.pc, n⟩] })

/-- A wait on something outside the tile: held effects commit first (R138, R139), and an acquire follows the tile's earlier
writes (R293). -/
def State.outerWait (s : State) (t : Nat) (f : State → State) : State :=
  let x := s.tile t
  if x.isProtected && !x.held.isEmpty then s.implicitCommit t
  else if x.acquiring || x.writesOut then s
  else f s

/-! ## Counters and barriers -/

/-- `sig.add` and `sig.sub` (R184, R295). -/
def State.sigOp (s : State) (t : Nat) (ga gb : Reg) (m : SyncCtl) (par : CacheParity) (sub : Bool) : State :=
  s.sync t (syncOk m false false true false) [ga, gb, m.gdev] (fun s =>
    let x := s.tile t
    let dev := x.target m.gdev
    s.object t ga dev (fun n =>
      s.putEffects t [x.mkHeld (.sig dev n sub ((x.gr gb).toNat % 2 ^ 32)) n true] par (fun s => s.retire t true)))

def execSigAdd (t : Nat) (ga gb : Reg) (m : SyncCtl) (par : CacheParity) (s : State) : Host.Outcome State Fault Refusal :=
  .next (s.spelled t (.sigAdd t ga gb m par) (s.sigOp t ga gb m par false))
def execSigSub (t : Nat) (ga gb : Reg) (m : SyncCtl) (par : CacheParity) (s : State) : Host.Outcome State Fault Refusal :=
  .next (s.spelled t (.sigSub t ga gb m par) (s.sigOp t ga gb m par true))

/-- COND of `sig.wait` (R184): 0 at least, 1 equal, 2 different. -/
def sigCond (c : BitVec 2) (v : Nat) : Cond := if c = 0 then .ge v else if c = 1 then .eq v else .ne v

def execSigWait (t : Nat) (rd ga gb : Reg) (m : SyncCtl) (s : State) : Host.Outcome State Fault Refusal :=
  .next (s.spelled t (.sigWait t rd ga gb m) (s.sync t (syncOk m false false false true) [rd, ga, gb] (fun s =>
    let x := s.tile t
    s.object t ga none (fun n =>
      s.outerWait t (fun s => s.register t n (sigCond m.cond ((x.gr gb).toNat % 2 ^ 32)) .sigWait rd)))))

/-- `bar.arrive` (R336, R346): protected, the phase is read at issue and the arrival is held; a remote one reads 0. -/
def execBarArrive (t : Nat) (rd ga : Reg) (m : SyncCtl) (par : CacheParity) (s : State) : Host.Outcome State Fault Refusal :=
  .next (s.spelled t (.barArrive t rd ga m par) (s.sync t (syncOk m false false true false) [rd, ga, m.gdev] (fun s =>
    let x := s.tile t
    let dev := x.target m.gdev
    s.object t ga dev (fun n =>
      if x.isProtected then
        let ph : Word := if dev.isNone && (s.objView n).phase then 1 else 0
        s.putEffects t [x.mkHeld (.arrive dev n none) n true] par (fun s => (s.modTile t (fun x => x.setG rd ph false)).retire t true)
      else s.putEffects t [x.mkHeld (.arrive dev n (some rd)) n true] par (fun s => s.retire t true)))))

def execBarWait (t : Nat) (ga gb : Reg) (m : SyncCtl) (s : State) : Host.Outcome State Fault Refusal :=
  .next (s.spelled t (.barWait t ga gb m) (s.sync t (syncOk m false false false false) [ga, gb] (fun s =>
    let x := s.tile t
    s.object t ga none (fun n =>
      s.outerWait t (fun s => s.register t n (.phaseNot ((x.gr gb).getLsbD 0)) .barWait 0)))))

/-- `lc.wait` (R184, R186). -/
def execLcWait (t : Nat) (lc : LcNo) (gb : Reg) (s : State) : Host.Outcome State Fault Refusal :=
  .next (s.spelled t (.lcWait t lc gb) (s.sync t true [gb] (fun s =>
    let x := s.tile t
    if (x.gr gb).toNat % 2 ^ 32 ≤ tblGet 0 x.lc lc.val then (s.modTile t Tile.endWait).retire t true else s.waiting t .lcWait none)))

/-! ## Full/empty words -/

/-- The checks of a tile-local full/empty word (R184, R122, R119, R134, R187). -/
def State.localWord (s : State) (t : Nat) (ga : Reg) (write : Bool) (f : Nat → State) : State :=
  let a := ((s.tile t).gr ga).toNat
  if a % 8 ≠ 0 then s.trap t .misaligned (some a)
  else if !s.inScratch t a 8 then s.trap t .tileMemAccess (some a)
  else if write && (s.tile t).meetsStable a 8 then s.trap t .stableWrite (some a)
  else if s.conflict t [⟨a, 8⟩] (if write then [⟨a, 8⟩] else []) then s
  else f a

/-- The checks of a full/empty word outside the tile (R184, R189, R253, R346): a remote one that the fabric does not carry, the
segment, its rights, its mark. -/
def State.outerWord (s : State) (t : Nat) (ga : Reg) (read write : Bool) (f : Nat → Segment → State) : State :=
  let x := s.tile t
  let a := (x.gr ga).toNat
  let seg := if isHostVa a then none else findSeg x.segs a
  if read && (seg.map (fun g => g.device != s.fab.self)).getD false then s.trap t .illegalInsn none
  else if a % 8 ≠ 0 then s.trap t .misaligned (some a)
  else match seg with
    | none => s.trap t (if isHostVa a then .notTagged else .segFault) (some a)
    | some g =>
      if (read && !g.r) || (write && !g.w) then s.trap t .rights (some a)
      else if !g.tagged then s.trap t .notTagged (some a)
      else f a g

/-- `fe.fill` (R184, R185, R346). -/
def execFeFill (t : Nat) (ga gb : Reg) (m : SyncCtl) (par : CacheParity) (s : State) : Host.Outcome State Fault Refusal :=
  .next (s.spelled t (.feFill t ga gb m par) (s.sync t (syncOk m true false true false) [ga, gb, m.gdev] (fun s =>
    let x := s.tile t
    if m.loc then
      s.localWord t ga true (fun a =>
        (s.modTile t (fun x =>
          let was := setHas x.full (a / 8)
          let x := x.storeScratch a (leBytes 8 (x.gr gb).toNat) (x.gp gb)
          { x with full := setIns x.full (a / 8), astat := if was then x.astat ||| 0x20#7 else x.astat })).retire t true)
    else s.outerWord t ga false true (fun a g =>
      let dst := match x.target m.gdev with
        | some d => Dest.remote d (g.local' a)
        | none => if g.device = s.fab.self then .device (g.local' a) true else .remote g.device (g.local' a)
      if g.isDevice && !x.isProtected && x.deviceOut then s
      else s.putEffects t [x.mkHeld (.fill dst (x.gr gb).toNat (x.gp gb)) a true g.isDevice] par (fun s => s.retire t true)))))

/-- The word that a tile-local take or peek returns. -/
def State.localGet (s : State) (t : Nat) (rd : Reg) (a : Nat) (take : Bool) (ecc : TileEcc) : State :=
  ((s.tileFound t [⟨a, 8⟩] ecc).modTile t (fun x =>
    let x := (x.setG rd (BitVec.ofNat 64 (leNat (memRead x.scratch a 8))) (setHas x.poison (a / 8))).endWait
    if take then { x with full := setDel x.full (a / 8) } else x)).retire t true

/-- `fe.take` (R184, R337, R138, R139). -/
def execFeTake (t : Nat) (rd ga : Reg) (m : SyncCtl) (ecc : TileEcc) (s : State) : Host.Outcome State Fault Refusal :=
  .next (s.spelled t (.feTake t rd ga m ecc) (s.sync t (syncOk m true false false false) [rd, ga] (fun s =>
    let x := s.tile t
    if m.loc then
      s.localWord t ga false (fun a => if setHas x.full (a / 8) then s.localGet t rd a true ecc else s.waiting t .feTake (some a))
    else s.outerWord t ga true true (fun a g =>
      let d : Dest := .device (g.local' a) true
      let e := x.mkHeld (.ask .take d 8 0 0 0 rd 0 true true false) a false g.isDevice
      if x.isProtected then s.implicitTail t true e false
      else if g.isDevice && x.deviceOut then s
      else s.outerWait t (fun s => (s.sendAsk t ⟨g.isDevice, x.pc, a⟩ .take d 8 0 0 0 rd 0 true true false []).modTile t (fun x =>
        { x with run := .waiting .feTake, waitSeq := some (s.nextId, s.now) }))))))

/-- `fe.peek` (R184, R295, R337): waiting, or with NW a plain load of the word and its state. -/
def execFePeek (t : Nat) (rd ga : Reg) (m : SyncCtl) (ecc : TileEcc) (s : State) : Host.Outcome State Fault Refusal :=
  .next (s.spelled t (.fePeek t rd ga m ecc) (s.sync t (syncOk m true true false false) [rd, ga] (fun s =>
    let x := s.tile t
    if m.loc then
      s.localWord t ga false (fun a =>
        let isFull := setHas x.full (a / 8)
        if m.nw then (s.modTile t (fun x => x.setP m.pd (if isFull then 1 else 0) false)).localGet t rd a false ecc
        else if isFull then s.localGet t rd a false ecc
        else s.waiting t .fePeek (some a))
    else s.outerWord t ga true false (fun a g =>
      let d : Dest := .device (g.local' a) true
      let o : Origin := ⟨g.isDevice, x.pc, a⟩
      if m.nw then
        if x.isProtected && g.isDevice then
          s.implicitTail t true (x.mkHeld (.ask .sample d 8 0 0 0 rd m.pd true false false) a false true) false
        else if x.mustCommit false false || (x.isProtected && (x.ownByte d).isSome && !x.held.isEmpty) then s.implicitCommit t
        else if x.acquiring || x.observing || s.amoStall t d false || (x.ownByte d).isSome || (g.isDevice && x.deviceOut) then s
        else (s.sendAsk t o .sample d 8 0 0 0 rd m.pd true false false []).retire t true
      else if g.isDevice && x.deviceOut then s
      else s.outerWait t (fun s => (s.sendAsk t o .peek d 8 0 0 0 rd 0 true true false []).modTile t (fun x =>
        { x with run := .waiting .fePeek, waitSeq := some (s.nextId, s.now) }))))))

end Sys2Proof.Machine
end

