-- ==== Sys2Proof/Machine/Move.lean ====
section
/-! DEFINITION. The tensor mover (R128 to R130, R182) and how a failed response or host read ends at a tile (R188, R275,
R411, R425, R443). -/

namespace Sys2Proof.Machine

/-! ## Results that reach a tile (R139, R147, R152) -/

/-- The result that a tile's wait or read brings, and where it goes: to the tile, to the checkpoint of a commit under way, or to the
checkpoint that a spare will start from (R139, R147). -/
def Checkpoint.result (c : Checkpoint) (p : PendOp) (v : Word) (bad full : Bool) : Checkpoint :=
  let c := if p.rd = 0 then c else { c with g := tblPut c.g p.rd.val v, gPoison := setPut c.gPoison p.rd.val bad }
  let c := if bad && p.rd != 0 then { c with astat := c.astat ||| 0x40#7 } else c
  if decide (p.kind = .sample) then
    { c with p := tblPut c.p p.pd.val (if full then 1 else 0), pPoison := setDel c.pPoison p.pd.val }
  else c

def Tile.result (x : Tile) (p : PendOp) (v : Word) (bad full : Bool) : Tile :=
  let x := x.setG p.rd v bad
  if decide (p.kind = .sample) then x.setP p.pd (if full then 1 else 0) false else x

/-- A checkpoint half of a tile changes: the one being written, or the valid one. -/
def Tile.modCkpt (x : Tile) (valid : Bool) (f : Checkpoint → Checkpoint) : Tile :=
  if (x.validHalf == valid) then { x with ckpt1 := x.ckpt1.map f } else { x with ckpt0 := x.ckpt0.map f }

/-- The tile that now serves the id of a tile that left service. -/
def State.successor (s : State) (t : Nat) : Option Nat :=
  let x := s.tile t
  if decide (x.role = .mapped) then none
  else (s.tiles.find? (fun e => e.1 != t && decide (e.2.role = .mapped) && decide (e.2.task = x.task) && e.2.logical == x.logical)).map (·.1)

/-- An operation whose result its instruction waits for (R152). -/
def PendKind.isWait : PendKind → Bool
  | .take | .peek | .wait => true
  | _ => false

/-- A value reaches a tile: its operation is over; a tile that waited for it is ungated, and
goes on behind the instruction (R152). -/
def State.deliver (s : State) (t : Nat) (p : PendOp) (v : Word) (bad full : Bool) : State :=
  let x := s.tile t
  let s := s.modTile t (fun x =>
    let x := { x with
      pend := x.pend.filter (fun q => q.id != p.id), gated := if p.kind.isWait then setDel x.gated 0 else x.gated }
    let x := x.result p v bad full
    if decide (x.run = .committing) then x.modCkpt false (fun c => c.result p v bad full) else x)
  let s := match s.successor t with
    | some u => s.modTile u (fun y => y.modCkpt true (fun c => c.result p v bad full))
    | none => s
  match x.run with
  | .waiting _ => if p.kind.isWait then (s.modTile t Tile.resume).retire t true else s
  | _ => s

/-! ## A failed host read -/

/-- A host read that failed, at a tile: a refused CXL.cache read traps with XLAT (R275, R424), a refused CXL.io read is
poisoned and the task reports REFUSED_P2P (R425), a timed-out one is poisoned (R411). Answers the state and whether poisoned
data is delivered. -/
def State.hostFailed (s : State) (t : Nat) (va : Nat) (d : Dest) (h : HostData) (pc : Nat) : State × Bool :=
  match h with
  | .data _ p => (match d with
    | .host _ true => if p then s.aerAdvisory 12 else s
    | _ => s, true)
  | .timedOut => (s.aer 14, true)
  | .refused =>
    match d with
    | .host pa true => (s.taskFault? (s.tile t).task .refusedP2p (mkDetail 0x4C (some pa) 0 0), true)
    | _ => (s.trapAt t .xlat (some va) pc, false)

/-! ## The descriptor (R182) -/

/-- A move's descriptor. -/
structure MoveDesc where
  outer : Nat
  local' : Nat
  size : List Nat
  outerStride : List Nat
  localStride : List Nat
  reservedOk : Bool
deriving DecidableEq, Repr

/-- The descriptor at a scratch address. -/
def readDesc (m : Mem) (a : Nat) : MoveDesc :=
  let f (o n : Nat) : Nat := leNat (memRead m (a + o) n)
  { outer := f 0x00 8, local' := f 0x08 4, size := [f 0x0C 4, f 0x10 2, f 0x12 2, f 0x14 2]
    outerStride := [f 0x18 8, f 0x20 8, f 0x28 8], localStride := [f 0x30 4, f 0x34 4, f 0x38 4]
    reservedOk := f 0x16 2 == 0 && f 0x3C 4 == 0 }

/-- The runs of a move in order: outer address and tile-local address of each. -/
def MoveDesc.runs (d : MoveDesc) : List (Nat × Nat) :=
  let n (i : Nat) : Nat := nth 0 d.size i
  let o (i : Nat) : Nat := nth 0 d.outerStride i
  let l (i : Nat) : Nat := nth 0 d.localStride i
  if n 0 = 0 then []
  else ((List.range (n 3)).map (fun c => ((List.range (n 2)).map (fun b => (List.range (n 1)).map (fun a =>
    ((d.outer + a * o 0 + b * o 1 + c * o 2) % 2 ^ 64, d.local' + a * l 0 + b * l 1 + c * l 2)))).flatten)).flatten

/-- Bytes of a run of `n` elements. -/
def runBytes (n f : Nat) : Nat := n * fmtWidth f / 8

/-- The innermost count suits a format (R80, R128). -/
def countOk (n f : Nat) : Bool :=
  match fmtWidth f with
  | 4 => n % 2 == 0
  | 6 => n % 4 == 0
  | _ => true

/-! ## Conversion in the mover (R128, R176) -/

/-- A conversion of the mover. -/
structure MoveCvt where
  src : Elem
  dst : Elem
  cvt : Cvt
deriving DecidableEq, Repr

def TmoveCvt (c : TmoveCtl) : Option MoveCvt :=
  match elemOf c.srcFmt.toNat, elemOf c.dstFmt.toNat, Rnd.ofCode c.rmode with
  | some a, some b, some m => some ⟨a, b, ⟨m, c.sat, c.ftz, false⟩⟩
  | _, _, _ => none

/-- The bits of packed bytes as a number. -/
def bitStream (bs : List (Byte × Bool)) : Nat := leNat (bs.map (·.1))

/-- One run converted: bytes with their poison flags. -/
def MoveCvt.run (c : MoveCvt) (s : Word) (n : Nat) (bs : List (Byte × Bool)) : Word × List (Byte × Bool) :=
  let w := c.src.width
  let v := c.dst.width
  let stream := bitStream bs
  let ps := (List.range n).map (fun i =>
    ((bs.drop (w * i / 8)).take ((w * i + w - 1) / 8 + 1 - w * i / 8)).any (·.2))
  let xs := (List.range n).map (fun i =>
    let x := c.src.decode (bits stream (w * i) w)
    match c.src, x with
    | .float f, .fin neg m e => if c.cvt.ftz && decide (m < 2 ^ f.mb) then .fin neg 0 0 else .fin neg m e
    | _, x => x)
  let r := encodeAll c.dst c.cvt s xs
  let out := packBytes v (r.2.map (·.1))
  (r.1, (List.range out.length).map (fun j =>
    (nth 0 out j, ((ps.drop (8 * j / v)).take ((8 * j + 7) / v + 1 - 8 * j / v)).any id)))

/-- All runs in order; without a conversion bytes pass as they are. -/
def convertRuns (c : Option MoveCvt) (n : Nat) : Word → List (List (Byte × Bool)) → Word × List (List (Byte × Bool))
  | s, [] => (s, [])
  | s, r :: rs =>
    let x := match c with
      | some c => c.run s n r
      | none => (s, r)
    let y := convertRuns c n x.1 rs
    (y.1, x.2 :: y.2)

/-- Bytes with flags written to scratch, word by word (R121). -/
def Tile.storeBytes (x : Tile) (a : Nat) (bs : List (Byte × Bool)) : Tile :=
  (pieces a bs.length).foldl (fun x p =>
    let part := (bs.drop p.1).take p.2.2
    x.storeScratch p.2.1 (part.map (·.1)) (part.any (·.2))) x

/-- Scratch bytes with their words' poison. -/
def Tile.readBytes (x : Tile) (a n : Nat) : List (Byte × Bool) :=
  (List.range n).map (fun i => (memGet x.scratch (a + i), setHas x.poison ((a + i) / 8)))

/-! ## Where the runs go -/

/-- A part of a run that one destination holds. -/
structure Part where
  pos : Nat
  va : Nat
  len : Nat
  reach : Reach
deriving DecidableEq, Repr

/-- The parts of the runs in order, with their positions in the concatenated outer bytes. -/
def State.moveParts (s : State) (t : Nat) (runs : List (Nat × Nat)) (len : Nat) (write : Bool) : List Part :=
  let x := s.tile t
  let c := x.context.getD 0
  (runs.zipIdx.map (fun r => (chunks4K r.1.1 len).map (fun p =>
    (⟨r.2 * len + p.1, p.2.1, p.2.2, s.reach (.tile t) c x.segs p.2.1 write⟩ : Part)))).flatten

/-- The places of a part, where it is reached. -/
def Part.dst (p : Part) : Option Dest :=
  match p.reach with
  | .to d _ => some d
  | _ => none

/-- The part goes through a Device segment (R298). -/
def Part.isDevice (p : Part) : Bool :=
  match p.reach with
  | .to _ (some g) => g.isDevice
  | _ => false

/-- Commit-buffer bytes of one run of an outbound move (R141): a header for each 4 KiB of it, and its data rounded up. -/
def runCost (len : Nat) : Nat :=
  len / 4096 * (16 + 4096) + if len % 4096 = 0 then 0 else 16 + roundUp (len % 4096) 16

/-- Consecutive positions with one poison flag. -/
def splitFlags : Nat → List (Byte × Bool) → List (Nat × List Byte × Bool)
  | _, [] => []
  | i, b :: bs =>
    match splitFlags (i + 1) bs with
    | [] => [(i, [b.1], b.2)]
    | (j, l, p) :: r => if p = b.2 then (i, b.1 :: l, p) :: r else (i, [b.1], b.2) :: (j, l, p) :: r

/-- What the mover waits for before it can start: a held placement, the host's copy of a device sector, the tile's own writes
on their way, or a load of the bytes to be written (R285, R294, R314). -/
def State.moveHold (s : State) (t : Nat) (ps : List Part) (write : Bool) : State × Bool :=
  if ps.any (fun p => decide (p.reach = .held)) then (s, true)
  else
    let devs := ps.filterMap (fun p => match p.dst with
      | some (.device a _) => some (a, p.len)
      | _ => none)
    if !write && devs.any (fun d => !(s.hostHeld d.1 d.2 false).isEmpty) then
      (devs.foldl (fun s d => s.recallHost d.1 d.2 false) s, true)
    else if ps.any (fun p => match p.dst with
        | some d => (List.range p.len).any (fun i => s.inFlight t (d.at i))
            || (write && !(s.tile t).isProtected && s.loadInFlight t d p.len)
        | none => false) then (s, true)
    else (s, false)

/-- The ranges of this block's memory among a move's parts. -/
def deviceRanges (ps : List Part) : List (Nat × Nat) :=
  ps.filterMap (fun p => match p.dst with
    | some (.device a _) => some (a, p.len)
    | _ => none)

/-- Draws of a move (R110). -/
def State.moveDraws (s : State) (t : Nat) (c : TmoveCtl) (n : Nat) : State :=
  if c.srcFmt != c.dstFmt && c.rmode == 2#2 then s.modTile t (fun x => { x with lfsr := lfsrSteps x.lfsr (24 * n) }) else s

/-- An inbound move starts: device bytes are read at their homes (R310), host bytes come with the completion, bytes of other
devices are asked for. -/
def State.startInbound (s : State) (t : Nat) (c : TmoveCtl) (d : MoveDesc) (ps : List Part) (total draws : Nat) : State :=
  let x := s.tile t
  let ctx := x.context.getD 0
  match ps.findSome? (fun p => match p.dst with
      | some (.device a true) => if s.rangePass x.context a p.len then none else some a
      | _ => none) with
  | some a =>
    let s := s.logRefused (.tile t) x.context a 0
    match x.task with
    | some k => s.stopLaunch k .accessDenied (s.refusedDetail (.tile t) a)
    | none => s
  | none =>
    let buf := (ps.map (fun p => match p.dst with
      | some (.device a _) => s.readFlagged a p.len
      | _ => List.replicate p.len (0, false))).flatten
    let hosts := ps.filterMap (fun p => match p.dst with
      | some (.host a io) => some (p.pos, p.len, p.va, Dest.host a io)
      | _ => none)
    let own := (ps.map (fun p => match p.dst with
      | some d => (List.range p.len).filterMap (fun i => (x.ownByte (d.at i)).map (fun b => (p.pos + i, b)))
      | none => [])).flatten
    let r := ps.foldl (fun (q : State × List (Nat × Nat × Nat)) p => match p.dst with
      | some (.remote dev a) =>
        (q.1.fabSend (mkFab dev (.tile t) ctx x.task 1 a (List.replicate p.len 0) false 0 0), q.2 ++ [(q.1.nextId, p.pos, p.len)])
      | _ => q) (s, [])
    let s := ps.foldl (fun s p => match p.dst with
      | some (.device a _) => (s.dropFresh a p.len).qcTouch (s.qcUseOf x.vein x.context a false) a p.len
      | _ => s) r.1
    let m : Move := ⟨s.nextId, c, d.local', d.size, d.localStride, x.pc, x.lfsr, buf.take total, hosts, r.2, own, ps.any Part.isDevice && !(hosts.isEmpty && r.2.isEmpty)⟩
    (((s.modTile t (fun x => { x with moves := x.moves ++ [m] })).bump.moveDraws t c draws).dropGrants (.tile t)).retire t true

/-- An outbound move starts: its source bytes are read and converted, and its writes are effects in program order (R129, R138). What a
run occupies of the commit buffer counts with its first effect (R141). -/
def State.startOutbound (s : State) (t : Nat) (c : TmoveCtl) (d : MoveDesc) (runs : List (Nat × Nat)) (ps : List Part)
    (srcLen len draws : Nat) (par : CacheParity) : State :=
  let x := s.tile t
  let slot := s.nextId
  let cvt := if c.srcFmt = c.dstFmt then none else TmoveCvt c
  let bytes := (convertRuns cvt (nth 0 d.size 0) x.lfsr (runs.map (fun r => x.readBytes r.2 srcLen))).2.flatten
  let es := (ps.map (fun p => match p.dst with
    | some dst =>
      let part := (bytes.drop p.pos).take p.len
      let held (i : Nat) (e : Effect) : Held :=
        { x.mkHeld e (p.va + i) false p.isDevice with move := some slot, cost := if (p.pos + i) % len = 0 then runCost len else 0 }
      match dst with
      | .remote dev a => [held 0 (.put dev a part)]
      | _ => (splitFlags 0 part).map (fun q => held q.1 (.write (dst.at q.1) q.2.1 q.2.2))
    | none => [])).flatten
  s.bump.putEffects t es par (fun s =>
    let m : Move := ⟨slot, c, d.local', d.size, d.localStride, x.pc, x.lfsr, [], [], [], [], false⟩
    (((s.modTile t (fun x => { x with moves := x.moves ++ [m] })).moveDraws t c draws).dropGrants (.tile t)).retire t true)

/-- A local counter counts one more, and a wait on it is looked at again (R129, R152). -/
def Tile.countLc (x : Tile) (lc : LcNo) : Tile :=
  ({ x with lc := tblPut x.lc lc.val ((tblGet 0 x.lc lc.val + 1) % 2 ^ 32) }).poke

/-- `tmove` (R182, R189): the causes of the words and of the descriptor's address come before those of its contents. -/
def execTmove (t : Nat) (ga : Reg) (c : TmoveCtl) (ecc : TileEcc) (found : DramFinding) (par : CacheParity) (s : State) : Host.Outcome State Fault Refusal :=
  let f := c.srcFmt.toNat
  let g := c.dstFmt.toNat
  let same := f == g
  let ok := !(c.feset && c.outbound) && c.rmode != 3#2 && (!same || (c.rmode == 0#2 && !c.sat && !c.ftz))
  .next (s.spelled t (.tmove t ga c ecc found par) (s.sync t ok [ga] (fun s =>
    let x := s.tile t
    let a := (x.gr ga).toNat
    if f = 0xF ∨ g = 0xF ∨ (!same && (decide (6 < f) || decide (6 < g))) then s.trap t .illegalFormat none
    else if a % 64 ≠ 0 then s.trap t .misaligned (some a)
    else if !s.inScratch t a 64 then s.trap t .tileMemAccess (some a)
    else if s.conflict t [⟨a, 64⟩] [] then s
    else
      let d := readDesc x.scratch a
      let n := nth 0 d.size 0
      let lf := if c.outbound then f else g
      let of' := if c.outbound then g else f
      let runs := d.runs
      let len := runBytes n of'
      let loc := runBytes n lf
      if !d.reservedOk || (d.size.drop 1).any (· == 0) then s.trap t .illegalInsn none
      else match runs.find? (fun r => !s.inScratch t r.2 loc) with
        | some r => s.trap t .tileMemAccess (some r.2)
        | none => match (if c.outbound then none else runs.find? (fun r => x.meetsStable r.2 loc)) with
          | some r => s.trap t .stableWrite (some r.2)
          | none =>
            let ps := s.moveParts t runs len c.outbound
            match ps.find? (fun p => decide (p.reach = .outside)) with
            | some p => s.trap t .segFault (some p.va)
            | none => match ps.find? (fun p => decide (p.reach = .noRight)) with
              | some p => s.trap t .rights (some p.va)
              | none =>
                if !countOk n f || !countOk n g then s.trap t .tmoveCount none
                else if runs.isEmpty then (s.modTile t (fun x => x.countLc c.lc)).retire t true
                else
                  let m : Move := ⟨0, c, d.local', d.size, d.localStride, x.pc, 0, [], [], [], [], false⟩
                  let r := m.localRange (fmtWidth lf)
                  if decide (16 ≤ x.moves.length) || s.conflict t (if c.outbound then [r] else []) (if c.outbound then [] else [r])
                    || x.acquiring || (!c.outbound && x.observing && !x.mustCommit false false)
                    || (ps.any Part.isDevice && !(c.outbound && x.isProtected) && x.deviceOut) then s
                  else match ps.find? (fun p => decide (p.reach = .miss)) with
                    | some p => s.askXlate (.tile t) (s.pasidOf (x.context.getD 0)) (hostAddr p.va) c.outbound true
                    | none =>
                      let h := s.moveHold t ps c.outbound
                      if h.2 then h.1
                      else
                        let s := s.modTile t (fun x => { x with gated := setDel x.gated 3 })
                        let s := s.tileFound t (⟨a, 64⟩ :: if c.outbound then [r] else []) ecc
                        let s := if c.outbound then s else s.bulkFound (deviceRanges ps) found
                        if c.outbound then s.startOutbound t c d runs ps loc len (n * runs.length) par
                        else if x.mustCommit false false then s.implicitCommit t
                        else s.startInbound t c d ps (len * runs.length) (n * runs.length))))

/-! ## TMOVE_COMPLETE (R129) -/

/-- Bytes put into the buffer of a move. -/
def putAt (buf : List (Byte × Bool)) (pos : Nat) (bs : List (Byte × Bool)) : List (Byte × Bool) :=
  buf.take pos ++ bs ++ buf.drop (pos + bs.length)

/-- The host bytes of a move in order. -/
def fillHosts (buf : List (Byte × Bool)) (hs : List (Nat × Nat × Nat × Dest)) (bs : List (Byte × Bool)) : List (Byte × Bool) :=
  match hs with
  | [] => buf
  | h :: r => fillHosts (putAt buf h.1 (bs.take h.2.1)) r (bs.drop h.2.1)

/-- The landed bytes reach tile memory; with FESET the words they reach become full (R129, R182). -/
def Tile.land (x : Tile) (m : Move) (buf : List (Byte × Bool)) : Tile :=
  let n := nth 0 m.size 0
  let d : MoveDesc := ⟨0, m.local', m.size, [0, 0, 0], m.localStride, true⟩
  let runs := d.runs
  let len := runBytes n m.ctl.srcFmt.toNat
  let cvt := if m.ctl.srcFmt = m.ctl.dstFmt then none else TmoveCvt m.ctl
  let parts := (convertRuns cvt n m.seed (runs.zipIdx.map (fun r => (buf.drop (r.2 * len)).take len))).2
  (runs.zip parts).foldl (fun x r =>
    let x := x.storeBytes r.1.2 r.2
    if m.ctl.feset then { x with full := (wordsOf r.1.2 r.2.length).foldl setIns x.full } else x) x

/-- A move ends: its counter counts, a waiting tile is looked at again, and an ended launch may be over. -/
def State.endMove (s : State) (t : Nat) (m : Move) : State :=
  let s := s.modTile t (fun x => { x with moves := x.moves.filter (fun y => y.slot != m.slot) }.countLc m.ctl.lc)
  match (s.tile t).task with
  | some k => s.settle k
  | none => s

/-- A move ends without landing. -/
def State.dropMove (s : State) (t : Nat) (m : Move) : State :=
  s.modTile t (fun x => { x with moves := x.moves.filter (fun y => y.slot != m.slot) })

/-- The bytes of a move's host parts: as supplied, or poisoned (R411, R425). -/
def Move.hostBytes (m : Move) (s : State) (h : HostData) : List (Byte × Bool) :=
  let n := m.hosts.foldl (fun a e => a + e.2.1) 0
  match h with
  | .data bs p => flagged (bs ++ s.openBytes (n - bs.length)) p
  | _ => flagged (s.openBytes n) true

/-- A completed inbound move whose remote parts have all answered. -/
def State.landMove (s : State) (t : Nat) (m : Move) (h : HostData) : State :=
  let rs := m.gets.filterMap (fun g => (tblFind s.rsps g.1).map (fun r => (g, r)))
  let s := { s with rsps := s.rsps.filter (fun e => m.gets.all (fun g => g.1 != e.1)) }
  match rs.find? (fun r => decide (r.2.st ≠ .ok)) with
  | some r => ((s.dropMove t m).tileFailed t r.2 m.pc)
  | none =>
    let bad := match m.hosts.head? with
      | some e => s.hostFailed t e.2.2.1 e.2.2.2 h m.pc
      | none => (s, true)
    if !bad.2 then bad.1.dropMove t m
    else
      let s := bad.1
      let buf := if m.hosts.isEmpty then m.buf else fillHosts m.buf m.hosts (m.hostBytes s h)
      let s := if m.hosts.isEmpty then s else { s with free := s.free + m.hosts.foldl (fun a e => a + e.2.1) 0 }
      let buf := rs.foldl (fun b r => putAt b r.1.2.1 (r.2.flagged.take r.1.2.2)) buf
      let buf := m.overlay.foldl (fun b o => putAt b o.1 [o.2]) buf
      (s.modTile t (fun x => x.land m buf)).endMove t m

/-- R129. -/
def execTmoveComplete (t slot : Nat) (host : HostData) (s : State) : Host.Outcome State Fault Refusal :=
  let x := s.tile t
  .next (match x.moves.find? (fun m => m.slot == slot) with
    | none => s
    | some m =>
      if m.ctl.outbound then
        (if x.isProtected || x.released.all (fun h => decide (h.move ≠ some slot)) then s.endMove t m else s)
      else if m.gets.all (fun g => (tblFind s.rsps g.1).isSome) && m.hosts.all (fun h => s.answersAt h.2.2.2 host) then s.landMove t m host
      else s)

end Sys2Proof.Machine
end

