-- ==== Sys2Proof/Machine/Spares.lean ====
section
/-! DEFINITION. Tiles leaving service and the spares that take their place (R57, R147, R234, R490, R491, R494, R495). -/

namespace Sys2Proof.Machine

/-- An eligible spare tile (R491). -/
def State.isSpare (s : State) (t : Nat) : Bool := decide ((s.tile t).role = .spare) && (s.tile t).healthy

/-- The lowest eligible spare of a quarry. -/
def State.spareIn (s : State) (q : Nat) : Option Nat := ((List.range 52).map (fun i => 52 * q + i)).find? (fun t => s.isSpare t)

/-- The spare for a tile of a quarry: its own quarry, then as SCOPE allows the quarry across the Y link, then any quarry, which
the spec leaves to the block (R57, R491). -/
def State.spareFor (s : State) (q : Nat) : Option Nat :=
  match s.spareIn q with
  | some t => some t
  | none =>
    if s.strata.str.scope = 0 then none
    else match s.spareIn (q ^^^ 4) with
      | some t => some t
      | none =>
        let cs := (List.range 8).filterMap (fun p => s.spareIn p)
        if cs.isEmpty then none else cs[s.openNat % cs.length]?

/-- Whether the choice among other quarries was the block's. -/
def State.spareChoice (s : State) (q : Nat) : State :=
  if (s.spareIn q).isNone && (s.spareIn (q ^^^ 4)).isNone && s.strata.str.scope ≠ 0 then s.used else s

/-- Logical ids served within a pool (R495). -/
def State.servedIn (s : State) (q : Option Nat) : Nat :=
  (s.tiles.filter (fun e => decide (e.2.role = .mapped) && (match q with
    | some q => quarryOf e.1 == q
    | none => true))).length

/-- The report of the last spare of the pool that a quarry's tiles draw on (R495). -/
def State.noteLastSpare (s : State) (q : Nat) : State :=
  if s.strata.str.scope = 0 then
    if (s.spareIn q).isNone then s.spareExhausted 0 q (s.servedIn (some q)) else s
  else if (List.range 8).all (fun p => (s.spareIn p).isNone) then s.spareExhausted 0 noQuarry (s.servedIn none) else s

/-- What of a tile's operations is still under way in its memory side: acknowledgements, and the value-returning operation of
a commit point (R139, R147). -/
def Tile.keepPend (x : Tile) : List PendOp :=
  x.pend.filter (fun p => decide (p.kind = .ack) || decide (x.run = .committing))

/-- A tile leaves service (R147, R234, R118): the unit's held effects and its unfinished operations are discarded, its data cache
is disposed of, and the memory side keeps what it drains. -/
def State.leaveService (s : State) (t : Nat) (role : Role) : State :=
  let s := s.disposeCache t
  let x := s.tile t
  let heldMica := x.held.filterMap (fun h => match h.eff with | .mica id => some id | _ => none)
  let gone := (x.micas.filter (fun m => m.2.2 || heldMica.contains m.1)).map (·.1)
  let s := gone.foldl (fun s id => s.micaRemove id) s
  let s := (((s.dropWait (.tile t)).dropStream (.tile t)).dropCode t).modTile t (fun x => { x with
    role := role, run := if x.task.isSome then .stopped else .none
    held := [], pend := x.keepPend, moves := [], matQueue := [], mmaRunning := none, accOps := [], miss := none
    micas := x.micas.filter (fun m => !gone.contains m.1), reservation := none, waitSeq := none, waitAddr := none
    fencePending := false, fullFence := false, observe := false, retireAsked := false, rotateAsked := false, icache := [], gated := [0, 1, 2, 3] })
  { s with homes := { s.homes with
      resv := s.homes.resv.filter (fun r => r.tile != t), locks := s.homes.locks.filter (fun l => l.2.1 != t) } }

/-- The valid checkpoint half. -/
def Tile.validCkpt (x : Tile) : Option Checkpoint := if x.validHalf then x.ckpt1 else x.ckpt0

/-- The launch that a spare takes over from a tile (R133, R139, R147). A checkpoint whose copy-out is under way is completed by
the memory side, so its half is the valid one. A halt whose checkpoint is replayed stays a halt. Its tile memory starts empty (R135, R147). -/
def Tile.takeOver (u x : Tile) (committing : Bool) : Tile :=
  { u with
    role := .mapped, run := .replaying, task := x.task, logical := x.logical, isProtected := x.isProtected
    gridFirst := x.gridFirst, gridCount := x.gridCount, vein := x.vein, context := x.context, args := x.args, seed := x.seed
    stable := x.stable, stableSrc := x.stableSrc, owned := x.owned, segs := x.segs, lastFiles := x.lastFiles
    ckpt0 := x.ckpt0, ckpt1 := x.ckpt1, validHalf := if committing then !x.validHalf else x.validHalf, ckptLost := false
    afterCommit := if committing || decide (x.run = .replaying) then x.afterCommit else 0, micas := x.micas.filter (fun m => !m.2.2)
    scratch := [], poison := [], full := [], unitCycles := 0, icache := [], iplru := [], dcache := [], plru := [], gated := setDel u.gated 0 }

/-- A spare serves a logical id from now on. -/
def State.mapTile (s : State) (u logical vein : Nat) : State :=
  let s := s.modTile u (fun x => { x with role := .mapped, logical := logical, vein := vein })
  { s with
    strata := { s.strata with str := { s.strata.str with tileMap := tblPut s.strata.str.tileMap logical u } }
    flt := { s.flt with unserved := setDel s.flt.unserved logical } }

/-- Logical ids of the structure that no tile serves take the healthy tiles that become free, in ascending order (R494). -/
def State.serveFree (s : State) : State :=
  s.flt.unserved.foldl (fun s l =>
    match s.strata.str.veins.find? (fun e => decide (e.2.tileFirst ≤ l) && decide (l < e.2.tileFirst + e.2.tileCount)) with
    | none => s
    | some v =>
      match (List.range 416).find? (fun t => s.isSpare t) with
      | some u => s.mapTile u l v.1
      | none => s) s

/-- A mapped tile is replaced by a spare, with its launch where it runs one (R146, R147). Answers the spare. -/
def State.replaceTile (s : State) (t : Nat) (role : Role) : State × Option Nat :=
  let x := s.tile t
  let q := quarryOf t
  match s.spareFor q with
  | none => (s, none)
  | some u =>
    let committing := decide (x.run = .committing)
    let s := (s.spareChoice q).leaveService t role
    let y := s.tile t
    let s := s.mapTile u x.logical x.vein
    let s := if x.task.isSome then s.modTile u (fun w => w.takeOver { y with run := x.run } committing) else s
    -- released Mica commands of the launch report to the spare (R213)
    let s := { s with mica := { s.mica with cmds := s.mica.cmds.map (fun (e : Nat × MicaCmd) =>
      (e.1, if e.2.tile = some t then { e.2 with tile := some u } else e.2)) } }
    let s := s.modTile t (fun w => { w with micas := [] })
    (s.noteLastSpare q, some u)

/-- A mapped tile is lost and no spare takes its place: its logical id is unserved (R494), which is reported as R495 says. -/
def State.unserve (s : State) (t : Nat) : State :=
  let x := s.tile t
  let s := s.leaveService t .retired
  { s with
    strata := { s.strata with str := { s.strata.str with tileMap := tblDel s.strata.str.tileMap x.logical } }
    flt := { s.flt with unserved := setIns s.flt.unserved x.logical } }.noteLastSpare (quarryOf t)

/-- A retired tile is counted in its quarry (R508). -/
def State.countRetired (s : State) (q : Nat) : State := s.modQuarry q (fun x => { x with retired := satAdd 8 x.retired 1 })

/-- The physical number of a spare in a log entry (R504). -/
def spareNo : Option Nat → Nat
  | some u => u
  | none => 0xFFFF

end Sys2Proof.Machine
end

