-- ==== Sys2Proof/Machine/Dram.lean ====
section
/-! DEFINITION. DRAM: patrol scrub, row and bank repair, refresh (R214, R217, R251 to R257, R490, R495), and
changes of granule owner tags (R261). -/

namespace Sys2Proof.Machine

/-! ## Commands -/

/-- PATROL_SCRUB (R254): the codeword at a LOCAL address. -/
def execPatrolScrub (addr : Nat) (ecc : Ecc) (words : List Nat) (s : State) : Host.Outcome State Fault Refusal :=
  let a := addr / 32 * 32
  .next (if s.blk.booted && decide (a < 2 ^ 40) && s.present (s.stackOf a) then s.dramFound a ecc words 1 else s)

/-- ROW_REPAIR (R255, R256): the spare row takes over; a bank that has used 24 of its spare rows is replaced. -/
def execRowRepair (stack bank row : Nat) (s : State) : Host.Outcome State Fault Refusal :=
  let key := rowKey bank row
  let x := s.quarry stack
  .next (if !setHas x.rowCopies key || x.rowsLeft bank = 0 then s
    else
      let left := x.rowsLeft bank - 1
      let s := s.modQuarry stack (fun x => { x with
        rowCopies := setDel x.rowCopies key, rowErrors := tblDel x.rowErrors key, rowSpares := tblPut x.rowSpares bank left })
      let s := s.log .rowRepair .notice stack noVein bank noCtx 0 row left
      let s := if left = 0 then s.spareExhausted 4 stack 65536 else s
      if left ≤ 8 then s.replaceBank stack bank else s)

/-- BANK_SWITCH (R217, R256): between two Mica commands of the stack, the spare takes over after its copy; a bank that has died
outright (`died`) is replaced at once. Words that could not be recovered carry poison in the spare. Where the die has no spare bank left, the
bank stays in service, its loss is reported, and those words read as poison (R256, R495). -/
def execBankSwitch (stack bank : Nat) (died : Bool) (lost : List Nat) (s : State) : Host.Outcome State Fault Refusal :=
  let x := s.quarry stack
  let die := bank / 64
  let left := x.banksLeft die - 1
  let poisoned (s : State) : State := { s with
    mem := { s.mem with poison := ((lost.filter (fun a => s.stackOf a == stack && s.bankOf a == bank)).map (· / 8)).foldl setIns s.mem.poison } }
  .next (if !(died || setHas x.bankCopies bank) || !(s.blk.booted && s.present stack && decide (bank < 1024))
      || (!died && (tblFind s.mica.running stack).isSome) then s
    else if x.banksLeft die = 0 then
      poisoned ((s.modQuarry stack (fun x => { x with bankCopies := setDel x.bankCopies bank })).replaceBank stack bank)
    else
      let s := s.modQuarry stack (fun x => { x with
        bankCopies := setDel x.bankCopies bank, bankNone := setDel x.bankNone bank, bankSpares := tblPut x.bankSpares die left
        rowSpares := tblDel x.rowSpares bank, bankErrors := tblDel x.bankErrors bank
        rowErrors := x.rowErrors.filter (fun e => e.1 / 65536 != bank), rowCopies := x.rowCopies.filter (fun k => k / 65536 != bank) })
      let s := { poisoned s with mica := { s.mica with residue := tblDel s.mica.residue (stack * 1024 + bank) } }
      let s := s.log .bankReplace .notice stack noVein bank noCtx 0 (3 - left) left
      if left = 0 then s.spareExhausted 5 stack 64 else s)

/-- DRAM_REFRESH (R214): a per-bank refresh is made; Mica resumes at its next column. -/
def execDramRefresh (stack bank : Nat) (s : State) : Host.Outcome State Fault Refusal :=
  .next (if s.blk.booted && s.present stack && decide (bank < 1024) then
      s.modQuarry stack (fun x => { x with refreshes := x.refreshes + 1 })
    else s)

/-! ## Owner tags change (R261) -/

/-- A request to a granule is past its check and not yet completed. -/
def State.granBusy (s : State) (g : Nat) : Bool :=
  s.pkts.any (fun e => e.2.begun && (match e.2.req with
    | .read a n _ | .readOwn a n => decide (granOf a ≤ g) && decide (g ≤ granOf (a + n - 1))
    | .write a bs _ _ => decide (granOf a ≤ g) && decide (g ≤ granOf (a + bs.length - 1))
    | .writeBack x _ _ | .stash x _ _ | .drop x | .offer x => granOf (128 * x) == g
    | .lr a _ | .sc a _ _ _ | .amo a _ _ _ _ _ | .feFill a _ _ | .feTake a | .fePeek a _ => granOf a == g
    | _ => false))

/-- A tag change takes effect: copies written back and dropped, a granule that leaves 0x0000 zero-filled. -/
def State.changeTag (s : State) (g : Nat) (tag : BitVec 16) : State :=
  let s := s.recallGranule g
  let s := if s.tagOf g = 0 && tag ≠ 0 then s.zeroGranule g else s
  { s with mem := { s.mem with tags := if tag = 0 then tblDel s.mem.tags g else tblPut s.mem.tags g tag, changes := tblDel s.mem.changes g } }

/-- A segment slot of a context is filled or emptied (R264, R267). -/
def State.putSlot (s : State) (c slot : Nat) (d : Segment) : State :=
  match s.ctx? c with
  | some x => s.setCtx c { x with segs := if d.gran = 0 then tblDel x.segs slot else tblPut x.segs slot d }
  | none => s

/-- The admin command that asked for the changes completes with the last of them; work dispatched from then on sees a new segment
set (R267). -/
def State.changesDone (s : State) : State :=
  match s.adm.running with
  | some k =>
    match s.task? k with
    | some x =>
      match x.admin, x.phase with
      | some (.setSegment c slot d), .running => if s.mem.changes.isEmpty then (s.putSlot c slot d).finish k else s
      | some (.destroyContext _), .running => if s.mem.changes.isEmpty then s.finish k else s
      | _, _ => s
    | none => s
  | none => s

/-- GRANULE_TAG_CHANGE. Sectors that the host holds are recalled first (R314). -/
def execGranuleTagChange (g : Nat) (s : State) : Host.Outcome State Fault Refusal :=
  .next (match tblFind s.mem.changes g with
    | none => s
    | some tag =>
      if s.granBusy g then s
      else
        let held := ((s.homes.dir.filter (fun e => e.1 / 4096 == g)).map (fun e => [0, 1, 2, 3].map (fun i => 4 * e.1 + i))).flatten.filter
          (fun x => setHas (s.dirEntry (x * 128)).presence 416 && decide (s.sectSt x ≠ .i))
        if held.isEmpty then (s.changeTag g tag).changesDone else held.foldl (fun s x => s.askHost x .inv 0) s)

end Sys2Proof.Machine
end

