-- ==== Sys2Proof/Machine/Flags.lean ====
section
/-! DEFINITION. Binary32 arithmetic of the vector unit with its four conditions (R114, R115, R157): exact values, one
rounding, NaNs without signalling or payload (R79). -/

namespace Sys2Proof.Machine

/-- The value of a binary32 word; with FTZ a subnormal input reads as a zero of its sign (R114). -/
def fpIn (ftz : Bool) (w : Word32) : Num :=
  match fmtFP32.decode w.toNat with
  | .fin neg m e => if ftz && decide (m < 2 ^ 23) then .fin neg 0 0 else .fin neg m e
  | x => x

/-- The canonical NaN (R107). -/
def fpNaN : Word32 := 0x7FC00000

/-- The result of an operation on a lane: the word, its conditions, and whether IEEE 754-2019 or the spec leaves its
invalid condition open. -/
structure FpRes where
  word : Word32
  conds : Conds := {}
  openInv : Bool := false
deriving DecidableEq, Repr

/-- How the vector unit rounds (R114). -/
def fpCvt (ftz : Bool) : Cvt := ⟨.rne, false, ftz, Config.tinyAfterRounding⟩

/-- A value written as binary32. -/
def fpOut (ftz : Bool) (x : Num) : FpRes :=
  let r := fmtFP32.encode (fpCvt ftz) 0 x
  { word := BitVec.ofNat 32 r.1, conds := r.2 }

/-- An invalid operation. -/
def fpInvalid : FpRes := { word := fpNaN, conds := { inv := true } }

/-- A NaN operand. -/
def fpQuiet : FpRes := { word := fpNaN }

/-- The signed integer of a magnitude. -/
def signed (neg : Bool) (m : Nat) : Int := if neg then -(m : Int) else m

/-- The exact sum of two finite values; a zero sum of unlike signs is +0. -/
def addFin (n1 : Bool) (m1 : Nat) (e1 : Int) (n2 : Bool) (m2 : Nat) (e2 : Int) : Num :=
  if m1 = 0 ∧ m2 = 0 then .fin (n1 && n2) 0 0
  else
    let e := if e1 < e2 then e1 else e2
    let v := signed n1 (m1 * pow2 (e1 - e)) + signed n2 (m2 * pow2 (e2 - e))
    .fin (decide (v < 0)) v.natAbs e

/-- Exact sum; `none` where it is invalid. -/
def addNum (a b : Num) : Option Num :=
  match a, b with
  | .nan, _ => some .nan
  | _, .nan => some .nan
  | .inf x, .inf y => if x = y then some (.inf x) else none
  | .inf x, _ => some (.inf x)
  | _, .inf y => some (.inf y)
  | .fin n1 m1 e1, .fin n2 m2 e2 => some (addFin n1 m1 e1 n2 m2 e2)

/-- Exact product; `none` where it is invalid. A zero takes the sign that the operands' signs give, also in a block of integers (DESIGN
CHOICE, assumption 64). -/
def mulNum (a b : Num) : Option Num :=
  match a, b with
  | .nan, _ => some .nan
  | _, .nan => some .nan
  | .inf x, .inf y => some (.inf (x ^^ y))
  | .inf x, .fin y m _ => if m = 0 then none else some (.inf (x ^^ y))
  | .fin x m _, .inf y => if m = 0 then none else some (.inf (x ^^ y))
  | .fin n1 m1 e1, .fin n2 m2 e2 => some (.fin (n1 ^^ n2) (m1 * m2) (e1 + e2))

/-- The negated value. -/
def Num.neg : Num → Num
  | .fin n m e => .fin (!n) m e
  | .inf n => .inf (!n)
  | .nan => .nan

/-- Whether a value is NaN. -/
def Num.isNaN : Num → Bool
  | .nan => true
  | _ => false

/-- A binary operation by its exact result. -/
def fpExact (ftz : Bool) (r : Option Num) : FpRes :=
  match r with
  | none => fpInvalid
  | some x => fpOut ftz x

def fpAdd (ftz : Bool) (a b : Word32) : FpRes := fpExact ftz (addNum (fpIn ftz a) (fpIn ftz b))
def fpSub (ftz : Bool) (a b : Word32) : FpRes := fpExact ftz (addNum (fpIn ftz a) (fpIn ftz b).neg)
def fpMul (ftz : Bool) (a b : Word32) : FpRes := fpExact ftz (mulNum (fpIn ftz a) (fpIn ftz b))

/-- ±(a × b) ± c, rounded once (R175). IEEE 754-2019 leaves open whether 0 × ∞ with a NaN addend is invalid. -/
def fpFma (ftz negP negC : Bool) (a b c : Word32) : FpRes :=
  let x := fpIn ftz a
  let y := fpIn ftz b
  let z := fpIn ftz c
  let z := if negC then z.neg else z
  match mulNum x y with
  | none => if z.isNaN then { word := fpNaN, openInv := true } else fpInvalid
  | some p => fpExact ftz (addNum (if negP then p.neg else p) z)

/-- The order of two values that are not NaN, with −0 below +0: whether a ≤ b. -/
def numLe (zeros : Bool) (a b : Num) : Bool :=
  match a, b with
  | .inf true, _ => true
  | _, .inf false => true
  | .inf false, _ => false
  | _, .inf true => false
  | .fin n1 m1 e1, .fin n2 m2 e2 =>
    if m1 = 0 ∧ m2 = 0 then !zeros || n1 || !n2
    else
      let e := if e1 < e2 then e1 else e2
      decide (signed n1 (m1 * pow2 (e1 - e)) ≤ signed n2 (m2 * pow2 (e2 - e)))
  | _, _ => false

/-- minimumNumber and maximumNumber (R175): a NaN loses to a number. -/
def fpMin (ftz : Bool) (a b : Word32) : FpRes :=
  let x := fpIn ftz a
  let y := fpIn ftz b
  if x.isNaN then (if y.isNaN then fpQuiet else fpOut ftz y)
  else if y.isNaN then fpOut ftz x
  else fpOut ftz (if numLe true x y then x else y)
def fpMax (ftz : Bool) (a b : Word32) : FpRes :=
  let x := fpIn ftz a
  let y := fpIn ftz b
  if x.isNaN then (if y.isNaN then fpQuiet else fpOut ftz y)
  else if y.isNaN then fpOut ftz x
  else fpOut ftz (if numLe true x y then y else x)

/-- Integer square root of `v` below 2^(2n), bit by bit. -/
def isqrt (v : Nat) : Nat → Nat → Nat
  | 0, r => r
  | i + 1, r => if (r + 2 ^ i) * (r + 2 ^ i) ≤ v then isqrt v i (r + 2 ^ i) else isqrt v i r

/-- Square root, correctly rounded (R175): 60 extra bits of an even exponent, and a sticky bit. -/
def fpSqrt (ftz : Bool) (a : Word32) : FpRes :=
  match fpIn ftz a with
  | .nan => fpQuiet
  | .inf neg => if neg then fpInvalid else fpOut ftz (.inf false)
  | .fin neg m e =>
    if m = 0 then fpOut ftz (.fin neg 0 0)
    else if neg then fpInvalid
    else
      let odd := decide (e % 2 ≠ 0)
      let v := m * 2 ^ 60 * (if odd then 2 else 1)
      let h := (e - 60 - (if odd then 1 else 0)) / 2
      let r := isqrt v 45 0
      fpOut ftz (.fin false (2 * r + (if r * r = v then 0 else 1)) (h - 1))

/-- Sign cleared, sign flipped: no conditions (R175). A NaN result is the canonical NaN (R114). -/
def fpSign (ftz : Bool) (f : Bool → Bool) (a : Word32) : FpRes :=
  match fpIn ftz a with
  | .nan => fpQuiet
  | .inf neg => { word := BitVec.ofNat 32 (fmtFP32.infCode (f neg)) }
  | .fin neg m _ =>
    { word := BitVec.ofNat 32 (fmtFP32.sign (f neg) + (if m = 0 then 0 else a.toNat % 2 ^ 31)) }

/-- A comparison (R175): the predicate bit, its conditions. Whether `fclt` and `fcle` of a NaN are invalid is open: IEEE 754
has both forms and the spec names neither. -/
structure FpCmp where
  holds : Bool
  openInv : Bool := false
deriving DecidableEq, Repr

def fpEq (ftz : Bool) (a b : Word32) : FpCmp :=
  let x := fpIn ftz a
  let y := fpIn ftz b
  { holds := !x.isNaN && !y.isNaN && numLe false x y && numLe false y x }
def fpLt (ftz : Bool) (a b : Word32) : FpCmp :=
  let x := fpIn ftz a
  let y := fpIn ftz b
  { holds := !x.isNaN && !y.isNaN && !numLe false y x, openInv := x.isNaN || y.isNaN }
def fpLe (ftz : Bool) (a b : Word32) : FpCmp :=
  let x := fpIn ftz a
  let y := fpIn ftz b
  { holds := !x.isNaN && !y.isNaN && numLe false x y, openInv := x.isNaN || y.isNaN }
def fpUn (ftz : Bool) (a b : Word32) : FpCmp := { holds := (fpIn ftz a).isNaN || (fpIn ftz b).isNaN }

end Sys2Proof.Machine
end

