-- ==== Sys2Proof/Machine/Matrix.lean ====
section
/-! DEFINITION. The matrix unit: anchored and FP32 accumulation (R89 to R103), conversion out (R104 to R113), matrix
instructions and the events of their queue (R123 to R126, R179 to R181). -/

namespace Sys2Proof.Machine

/-! ## Accumulator entries -/

/-- The tag of a special value (R89): 1 NaN, 2 +Inf, 3 −Inf. -/
def tagOf' : Num → BitVec 2
  | .nan => 1
  | .inf false => 2
  | .inf true => 3
  | .fin _ _ _ => 0

/-- The merge of R93. -/
def mergeTag (a b : BitVec 2) : BitVec 2 := if b = 0 then a else if a = 0 then b else if a = b then a else 1

/-- The special value of a tag. -/
def tagNum (t : BitVec 2) : Num := if t = 1 then .nan else if t = 2 then .inf false else .inf true

/-- One integer added to an entry (R92). -/
def AccEntry.add (e : AccEntry) (q : Int) : AccEntry :=
  let top : Int := 2 ^ 127 - 1
  let bot : Int := -(2 ^ 127)
  if top < q.natAbs then { e with n := if q < 0 then bot else top, ovf := true }
  else
    let v := e.n + q
    if v < bot then { e with n := bot, ovf := true }
    else if top < v then { e with n := top, ovf := true }
    else { e with n := v }

/-- One exact term added to an anchored entry (R91 to R93). -/
def AccEntry.term (e : AccEntry) (anchor : Int) (t : Num) : AccEntry :=
  match t with
  | .fin neg m x => e.add (signed neg (roundUnits .rne 0 m x anchor).1)
  | _ => { e with tag := mergeTag e.tag (tagOf' t) }

/-- The binary32 value of an FP32-mode entry (R102). -/
def AccEntry.fp (e : AccEntry) : Num := fmtFP32.decode (e.n.toNat % 2 ^ 32)

/-- One exact block value added to an FP32-mode entry, rounded once (R102). -/
def AccEntry.addFp (e : AccEntry) (t : Num) : AccEntry :=
  match addNum e.fp t with
  | none => { e with n := fpNaN.toNat }
  | some v =>
    let r := fmtFP32.encode ⟨.rne, false, false, false⟩ 0 v
    { e with n := (r.1 : Int), ovf := e.ovf || r.2.ovf }

/-- The file is in AUTO with its anchor unresolved (R95, R96). -/
def AccFile.unresolved (f : AccFile) : Bool := !f.fp32 && f.anchor == 0x8000#16

/-- The entries of a file, made anew; an entry equal to a cleared one is not listed. -/
def AccFile.build (f : AccFile) (g : Nat → AccEntry → AccEntry) : AccFile :=
  { f with entries := (List.range 4096).filterMap (fun i =>
      let e := g i (tblGet {} f.entries i)
      if decide (e = {}) then none else some (i, e)) }

/-! ## Operands of a product (R80 to R87, R180) -/

/-- Operand classes (R88, R180). -/
inductive OpClass where
  | mx | scaled | half | bad
deriving DecidableEq, Repr

def opClass (code : Nat) : OpClass :=
  if code = 0x3 || code = 0x4 || (decide (0x7 ≤ code) && decide (code ≤ 0xC)) then .mx
  else if code = 0x5 || code = 0x6 || code = 0xD || code = 0xE then .scaled
  else if code = 0x1 || code = 0x2 then .half
  else .bad

/-- The pairs of R88; sparse ones with R86. -/
def pairOk (a b : Nat) (sparse : Bool) : Bool :=
  let wa := fmtWidth a
  let wb := fmtWidth b
  match opClass a, opClass b with
  | .mx, .mx => !sparse || (wa == 4 && wb == 4) || (wb == 8 && (wa == 4 || wa == 8))
  | .scaled, .scaled => true
  | .half, .half => !sparse
  | _, _ => false

/-- Formats with a scale array (R82, R179). -/
def hasScales (code : Nat) : Bool := decide (0x7 ≤ code) && decide (code ≤ 0xE)

/-- emax of an MX element (R95). -/
def mxEmax (code : Nat) : Int :=
  match code with
  | 0x7 | 0x8 => 2
  | 0x9 => 4
  | 0x3 | 0xA => 8
  | 0x4 | 0xB => 15
  | _ => 0

/-- The element that stands at a code in an operand array. -/
def elemAt (x : Tile) (code base : Nat) (run i : Nat) : Num :=
  match elemOf code with
  | some el => el.decode (unpackAt el.width (fun j => memGet x.scratch (base + run + j)) i)
  | none => .nan

/-- Element (row, k) of a dense operand of 64 rows in block-major order (R180). -/
def denseAt (x : Tile) (code base row k : Nat) : Num :=
  let w := fmtWidth code
  elemAt x code base (k / 32 * (256 * w) + row * (4 * w)) (k % 32)

/-- Element (column, k) of a 2:4 operand: the survivors whose metadata name the position, summed before the product (R86, R87; with an
infinite activation a DESIGN CHOICE, assumption 64). -/
def sparseAt (x : Tile) (code base meta' col k : Nat) : Num :=
  let w := fmtWidth code
  let b := k / 32
  let g := k % 32 / 4
  let nib := (memGet x.scratch (meta' + 256 * b + 4 * col + g / 2)).toNat / (if g % 2 = 0 then 1 else 16) % 16
  let sv (j : Nat) : Num := elemAt x code base (b * (128 * w) + col * (2 * w)) (2 * g + j)
  let p0 := decide (nib % 4 = k % 4)
  let p1 := decide (nib / 4 = k % 4)
  if p0 && p1 then (addNum (sv 0) (sv 1)).getD .nan else if p0 then sv 0 else if p1 then sv 1 else Num.zero

/-- A row's MX scale code in a block (R81, R82, R180). -/
def mxScale (x : Tile) (code base row b : Nat) : Nat :=
  if hasScales code then (memGet x.scratch (base + 64 * b + row)).toNat else 0x7F

/-- A channel's scale (R82, R83). -/
def intScale (x : Tile) (code base row : Nat) : Num :=
  if hasScales code then fmtFP32.decode (leNat (memRead x.scratch (base + 4 * row) 4)) else .fin false 1 0

/-- The exact value of a scale code; 0xFF is NaN (R81). -/
def scaleBy (code : Nat) (t : Num) : Num :=
  if code = 0xFF then .nan
  else match t with
    | .fin n m e => .fin n m (e + code - 127)
    | x => x

/-- The exact sum of values; NaN where it is invalid (R93). -/
def sumNum : List Num → Num
  | [] => Num.zero
  | x :: xs => xs.foldl (fun a b => (addNum a b).getD .nan) x

/-- Weight element (column, k). -/
def MmaOp.bAt (o : MmaOp) (x : Tile) (n k : Nat) : Num :=
  if o.sparse then sparseAt x o.m.fmtB.toNat o.bBase o.meta' n k else denseAt x o.m.fmtB.toNat o.bBase n k

/-- The element products of block `b` for entry (m, n). -/
def MmaOp.products (o : MmaOp) (x : Tile) (m n b : Nat) : List Num :=
  (List.range 32).map (fun i =>
    (mulNum (denseAt x o.m.fmtA.toNat o.aBase m (32 * b + i)) (o.bAt x n (32 * b + i))).getD .nan)

/-- The block value with its scales (R90, R102). -/
def MmaOp.blockValue (o : MmaOp) (x : Tile) (m n b : Nat) : Num :=
  let fa := o.m.fmtA.toNat
  let fb := o.m.fmtB.toNat
  let sum := sumNum (o.products x m n b)
  match opClass fa with
  | .mx => scaleBy (mxScale x fb o.bScale n b) (scaleBy (mxScale x fa o.aScale m b) sum)
  | .scaled =>
    ((mulNum sum (intScale x fa o.aScale m)).bind (fun p => mulNum p (intScale x fb o.bScale n))).getD .nan
  | _ => sum

/-- The terms of entry (m, n) in ascending K (R90). -/
def MmaOp.terms (o : MmaOp) (x : Tile) (m n : Nat) : List Num :=
  let blocks := List.range (o.k / 32)
  match opClass o.m.fmtA.toNat with
  | .half => (blocks.map (o.products x m n)).flatten
  | _ => blocks.map (o.blockValue x m n)

/-! ## AUTO (R95) -/

/-- The largest of some exponents. -/
def maxInt (l : List Int) : Option Int := l.foldl (fun a v => match a with
  | none => some v
  | some w => some (if w < v then v else w)) none

/-- floor(log2 |x|) of a non-zero finite value. -/
def Num.log2 : Num → Option Int
  | .fin _ m e => if m = 0 then none else some (ilog2 m e)
  | _ => none

/-- E of one operand (R95); `none` where every MX scale code is 0xFF. -/
def operandE (x : Tile) (code k scale : Nat) (el : Nat → Nat → Num) : Option Int :=
  let rows := List.range 64
  match opClass code with
  | .mx =>
    maxInt ((rows.map (fun r => (List.range (k / 32)).filterMap (fun b =>
      let c := mxScale x code scale r b
      if c = 0xFF then none else some ((c : Int) - 127 + mxEmax code)))).flatten)
  | .half =>
    some ((maxInt ((rows.map (fun r => (List.range k).filterMap (fun i => (el r i).log2))).flatten)).getD
      (if code = 0x1 then 15 else 127))
  | _ =>
    match maxInt (rows.filterMap (fun r => (intScale x code scale r).log2)) with
    | some e => some (e + if fmtWidth code = 4 then 3 else 7)
    | none => some 0

/-- The anchor that an `mma` gives to an AUTO file. -/
def MmaOp.autoAnchor (o : MmaOp) (x : Tile) : Option (BitVec 16) :=
  let fa := o.m.fmtA.toNat
  let fb := o.m.fmtB.toNat
  match operandE x fa o.k o.aScale (denseAt x fa o.aBase), operandE x fb o.k o.bScale (o.bAt x) with
  | some a, some b => some (BitVec.ofInt 16 (a + b - 96))
  | _, _ => none

/-- An `mma` adds its terms into its file (R90 to R96, R102). -/
def MmaOp.run (o : MmaOp) (x : Tile) (f : AccFile) : AccFile :=
  let f := if f.unresolved then { f with anchor := (o.autoAnchor x).getD 0x8000#16 } else f
  if f.fp32 then
    f.build (fun i e => (List.range (o.k / 32)).foldl (fun e b => e.addFp (o.blockValue x (i / 64) (i % 64) b)) e)
  else if f.unresolved then f.build (fun _ e => { e with tag := 1 })
  else f.build (fun i e => (o.terms x (i / 64) (i % 64)).foldl (fun e t => e.term f.anchor.toInt t) e)

/-! ## Raw images (R97, R98) -/

/-- The image of a file. -/
def AccFile.image (f : AccFile) : List Byte :=
  let n (i : Nat) : Nat := if f.unresolved then 0 else fromInt 128 (tblGet {} f.entries i).n
  let fl (i : Nat) : Nat := (tblGet ({} : AccEntry) f.entries i).tag.toNat + 4 * b2n (tblGet ({} : AccEntry) f.entries i).ovf
  ((List.range 4096).map (fun i => leBytes 16 (n i))).flatten
    ++ (List.range 2048).map (fun j => BitVec.ofNat 8 (fl (2 * j) + 16 * fl (2 * j + 1)))
    ++ leBytes 2 f.anchor.toNat ++ leBytes 1 (b2n f.fp32) ++ leBytes 13 0

/-- The file that an image in memory holds. -/
def imageFile (m : Mem) (a : Nat) : AccFile :=
  let anchor := BitVec.ofNat 16 (leNat (memRead m (a + 0x10800) 2))
  let fp := (memGet m (a + 0x10802)).getLsbD 0
  let f : AccFile := { anchor := anchor, fp32 := fp }
  f.build (fun i _ =>
    let w := leNat (memRead m (a + 16 * i) 16)
    let fl := (memGet m (a + 0x10000 + i / 2)).toNat / (if i % 2 = 0 then 1 else 16)
    { n := if fp then (w % 2 ^ 32 : Nat) else if anchor = 0x8000#16 then 0 else toSigned 128 w
      ovf := bit fl 2, tag := BitVec.ofNat 2 fl })

/-- The exact value of an entry of an anchored file. -/
def AccEntry.value (e : AccEntry) (anchor : Int) : Num :=
  if e.tag = 0 then .fin (decide (e.n < 0)) e.n.natAbs anchor else tagNum e.tag

/-- An image merged into a file (R96, R97). The exponent of a subnormal FP32 image value is that of its leading bit, and the tag of
an image entry whose anchor is 0x8000 adds its special value to an FP32 entry (DESIGN CHOICE, assumption 64). -/
def AccFile.merge (f g : AccFile) : AccFile :=
  let flags (e h : AccEntry) : AccEntry := { e with ovf := e.ovf || h.ovf, tag := mergeTag e.tag h.tag }
  let at' (i : Nat) : AccEntry := tblGet {} g.entries i
  if f.fp32 then
    f.build (fun i e =>
      let h := at' i
      let e := { e with ovf := e.ovf || h.ovf }
      if g.fp32 then e.addFp h.fp
      else if g.unresolved then (if h.tag = 0 then e else e.addFp (tagNum h.tag))
      else e.addFp (h.value g.anchor.toInt))
  else if g.unresolved then f.build (fun i e => flags e (at' i))
  else
    let emax := maxInt ((List.range 4096).filterMap (fun i => (at' i).fp.log2))
    let f := if f.unresolved then
        if g.fp32 then
          match emax with
          | some e => { f with anchor := BitVec.ofInt 16 (e - 96) }
          | none => f
        else { f with anchor := g.anchor }
      else f
    f.build (fun i e =>
      let h := at' i
      let e := flags e h
      if g.fp32 then
        match h.fp with
        | .fin _ 0 _ => e
        | v => e.term f.anchor.toInt v
      else if g.anchor = f.anchor then e.add h.n
      else e.term f.anchor.toInt (.fin (decide (h.n < 0)) h.n.natAbs g.anchor.toInt))

/-! ## Conversion out (R104 to R113) -/

/-- Targets of `acc.cvt` (R104). -/
def cvtTarget (code : Nat) : Option Fmt :=
  if code = 0x5 ∨ code = 0x6 then none
  else match elemOf code with
    | some (.float f) => some f
    | _ => none

/-- A target with a shared scale. -/
def mxTarget (code : Nat) : Bool := decide (0x7 ≤ code) && decide (code ≤ 0xB)

/-- The exact value that an entry converts from. -/
def AccFile.source (f : AccFile) (i : Nat) : Num :=
  let e := tblGet {} f.entries i
  if f.fp32 then e.fp
  else if e.tag ≠ 0 then tagNum e.tag
  else if f.unresolved then Num.zero
  else e.value f.anchor.toInt

/-- Whether the conversion of an entry reports its overflow (R104, R96). -/
def AccFile.reports (f : AccFile) (i : Nat) : Bool :=
  let e := tblGet {} f.entries i
  e.ovf && (!f.unresolved || decide (e.tag ≠ 0))

/-- An entry written to a target without a shared scale; an FP32 value to an FP32 target is unchanged (R104). -/
def AccFile.plain (f : AccFile) (fmt : Fmt) (c : Cvt) (i draw : Nat) : Nat :=
  if f.fp32 && decide (fmt = fmtFP32) then
    let w := (tblGet ({} : AccEntry) f.entries i).n.toNat % 2 ^ 32
    if c.ftz && decide (bits w 23 8 = 0) then w / 2 ^ 31 * 2 ^ 31 else w
  else (fmt.encode c draw (f.source i)).1

/-- One block of an MX target: its scale code and its element codes (R112). -/
def mxBlock (fmt : Fmt) (emax : Int) (c : Cvt) (vs : List (Num × Nat)) : Nat × List Nat :=
  let inScale := decide (fmt.specials = .none) && vs.any (fun v => match v.1 with
    | .nan => true
    | .inf _ => !c.sat
    | _ => false)
  let top := maxInt (vs.filterMap (fun v => v.1.log2))
  let special (v : Num) : Nat := (fmt.encode c 0 v).1
  if inScale then (0xFF, vs.map (fun _ => 0))
  else match top with
    | none => (0, vs.map (fun v => match v.1 with
        | .fin _ _ _ => 0
        | x => special x))
    | some l =>
      let x : Int := l - emax + 127
      let x : Int := if x < 0 then 0 else if 254 < x then 254 else x
      (x.toNat, vs.map (fun v => match v.1 with
        | .fin n m e => (fmt.encodeFin { c with sat := true } v.2 n m (e - (x - 127))).1
        | y => special y))

/-- The draws of a conversion, one for each element in row-major order (R110). -/
def drawList : Word → Nat → Word × List Nat
  | s, 0 => (s, [])
  | s, n + 1 =>
    let d := draw s
    let r := drawList d.1 n
    (r.1, d.2 :: r.2)

/-- The rows that `acc.cvt` converts. -/
def cvtRows (m : CvtCtl) : Nat := m.rowsM1.toNat + 1

/-- The element codes, row by row, and the scale bytes (R113, R181). -/
def AccFile.convert (f : AccFile) (code : Nat) (fmt : Fmt) (m : CvtCtl) (c : Cvt) (draws : List Nat) : List Nat × List Nat :=
  let first := m.rowFirst.toNat
  let rows := cvtRows m
  let d (r n : Nat) : Nat := nth 0 draws (64 * (r - first) + n)
  if mxTarget code then
    if m.colblk then
      let blocks := (List.range (rows / 32)).map (fun j => (List.range 64).map (fun n =>
        mxBlock fmt (mxEmax code) c ((List.range 32).map (fun i =>
          (f.source (64 * (first + 32 * j + i) + n), d (first + 32 * j + i) n)))))
      let scales := (blocks.map (fun b => b.map (·.1))).flatten
      let codes := (List.range rows).map (fun r => (List.range 64).map (fun n =>
        nth 0 (nth (0, []) (nth [] blocks (r / 32)) n).2 (r % 32)))
      (codes.flatten, scales)
    else
      let blocks := (List.range rows).map (fun r => [0, 1].map (fun j =>
        mxBlock fmt (mxEmax code) c ((List.range 32).map (fun i =>
          (f.source (64 * (first + r) + 32 * j + i), d (first + r) (32 * j + i))))))
      ((blocks.map (fun b => (b.map (·.2)).flatten)).flatten, (blocks.map (fun b => b.map (·.1))).flatten)
  else
    (((List.range rows).map (fun r => (List.range 64).map (fun n =>
      f.plain fmt c (64 * (first + r) + n) (d (first + r) n)))).flatten, [])

/-! ## Issue of matrix instructions -/

/-- A valid matrix instruction issues; it ungates the unit (R461). -/
def State.mat (s : State) (t : Nat) (ok : Bool) (regs : List Reg) (f : State → State) : State :=
  s.issue t true regs (fun s =>
    if ok then f (s.modTile t (fun x => { x with gated := setDel x.gated 1 })) else s.trap t .illegalInsn none)

/-- The file of a MAT instruction. -/
def MatOp.file : MatOp → AccNo
  | .mma o => o.m.acc
  | .acc o => o.acc

/-- A MAT instruction that has started still works on the file. -/
def Tile.fileRuns (x : Tile) (a : AccNo) : Bool :=
  (x.mmaRunning.map (fun o => o.m.acc == a)).getD false || x.accOps.any (fun o => o.acc == a)

/-- No MAT instruction, queued or started, is left on the file (R125). -/
def Tile.fileFree (x : Tile) (a : AccNo) : Bool := x.matQueue.all (fun o => o.file != a) && !x.fileRuns a

/-- The first queued instruction that may start, with the queue without it: no earlier one of its file is queued or at work (R125). -/
def Tile.nextMat (x : Tile) (p : MatOp → Bool) : List MatOp → List MatOp → Option (MatOp × List MatOp)
  | _, [] => none
  | before, o :: rest =>
    if p o && !x.fileRuns o.file && before.all (fun q => q.file != o.file) then some (o, before ++ rest)
    else x.nextMat p (before ++ [o]) rest

/-- The first range that reaches past scratch. -/
def State.pastScratch (s : State) (t : Nat) (rs : List Range) : Option Range :=
  rs.find? (fun r => decide (r.len ≠ 0) && !s.inScratch t r.base r.len)

/-- `mma`, `mma.sp` (R179, R180): the operands are named at issue and read when the grid runs. -/
def State.mma (s : State) (t : Nat) (ga gb : Reg) (m : MmaCtl) (sparse : Bool) : State :=
  let fa := m.fmtA.toNat
  let fb := m.fmtB.toNat
  let ok := (hasScales fa || m.gsa == 0) && (hasScales fb || m.gsb == 0) && (sparse || m.gmd == 0)
  s.mat t ok [ga, gb, m.gsa, m.gsb, m.gmd] (fun s =>
    let x := s.tile t
    let o : MmaOp := ⟨m, sparse, (x.gr ga).toNat, (x.gr gb).toNat, (x.gr m.gsa).toNat, (x.gr m.gsb).toNat, (x.gr m.gmd).toNat, x.pc⟩
    if !pairOk fa fb sparse then s.trap t .illegalFormat none
    else match o.reads.find? (fun r => decide (r.len ≠ 0) && r.base % 64 != 0) with
      | some r => s.trap t .misaligned (some r.base)
      | none => match s.pastScratch t o.reads with
        | some r => s.trap t .tileMemAccess (some r.base)
        | none =>
          if s.conflict t o.reads [] || decide (4 ≤ x.matQueue.length) then s
          else s.wide t (fun x => { x with matQueue := x.matQueue ++ [.mma o] }))

def execMma (t : Nat) (ga gb : Reg) (m : MmaCtl) (s : State) : Host.Outcome State Fault Refusal := .next (s.spelled t (.mma t ga gb m) (s.mma t ga gb m false))
def execMmaSp (t : Nat) (ga gb : Reg) (m : MmaCtl) (s : State) : Host.Outcome State Fault Refusal := .next (s.spelled t (.mmaSp t ga gb m) (s.mma t ga gb m true))

/-- A file written. -/
def Tile.setAcc (x : Tile) (a : AccNo) (f : AccFile) : Tile := { x with accs := tblPut x.accs a.val f }
def Tile.acc (x : Tile) (a : AccNo) : AccFile := tblGet {} x.accs a.val

/-- The file that `acc.anchor` leaves (R94): mode and anchor set, every entry cleared. -/
def AccFile.cleared (fp32 : Bool) (anchor : BitVec 16) : AccFile := { entries := [], anchor := anchor, fp32 := fp32, poisoned := false }

/-- A MAT instruction other than `mma` starts: what it does to its file and to tile memory; ranges that it reads or writes stay its
own until it ends (R126, R187). -/
def Tile.startAcc (x : Tile) (o : AccOp) : Tile :=
  let f := x.acc o.acc
  let base (rs : List Range) : Nat := (rs.headD ⟨0, 0⟩).base
  match o.work with
  | .anchor fp32 anchor => x.setAcc o.acc (.cleared fp32 anchor)
  | .load addTo =>
    let a := base o.reads
    let g := imageFile x.scratch a
    let p := anyPoison x.poison a 67600
    let f' := if addTo then { f.merge g with poisoned := f.poisoned || p } else { g with poisoned := p }
    let y := (x.setAcc o.acc f').markPoison (p && !f.poisoned)
    { y with accOps := y.accOps ++ [o] }
  | .store =>
    let y := x.storeScratch (base o.writes) f.image f.poisoned
    { y with accOps := y.accOps ++ [o] }
  | .cvt m =>
    match cvtTarget m.fmt.toNat, Rnd.ofCode m.rmode with
    | some fmt, some mode =>
      let n := 64 * cvtRows m
      let draws := if decide (mode = .stoch) then (drawList o.seed n).2 else []
      let r := f.convert m.fmt.toNat fmt m ⟨mode, m.sat, m.ftz, false⟩ draws
      let past := (List.range n).any (fun i => f.reports (64 * m.rowFirst.toNat + i))
      let y := (x.storeScratch (base o.writes) (packBytes (1 + fmt.eb + fmt.mb) r.1) f.poisoned).storeScratch (base (o.writes.drop 1))
        (r.2.map (BitVec.ofNat 8)) f.poisoned
      { y with astat := if past then y.astat ||| 0x10#7 else y.astat, accOps := y.accOps ++ [o] }
    | _, _ => x

/-- Every queued MAT instruction other than `mma` whose scoreboard wait has ended starts (R125). -/
def Tile.pumpMat (x : Tile) : Nat → Tile
  | 0 => x
  | n + 1 =>
    match x.nextMat (fun o => match o with | .acc _ => true | .mma _ => false) [] x.matQueue with
    | some (.acc o, rest) => ({ x with matQueue := rest }.startAcc o).pumpMat n
    | _ => x

/-- Everything that may start does; the queue holds at most four. -/
def State.matPump (s : State) (t : Nat) : State := s.modTile t (fun x => x.pumpMat 4)

/-- A MAT instruction other than `mma` is accepted by the matrix queue and retires (R118, R125); a full queue stalls it (R192). -/
def State.queueAcc (s : State) (t : Nat) (acc : AccNo) (work : AccWork) (reads writes : List Range) : State :=
  if 4 ≤ (s.tile t).matQueue.length then s
  else
    let o : AccOp := ⟨s.nextId, acc, work, reads, writes, (s.tile t).lfsr⟩
    ((s.bump.modTile t (fun x => { x with matQueue := x.matQueue ++ [.acc o] })).matPump t).retire t true

/-- `acc.anchor` (R94). -/
def execAccAnchor (t : Nat) (acc : AccNo) (fp32 : Bool) (anchor : BitVec 16) (s : State) : Host.Outcome State Fault Refusal :=
  .next (s.spelled t (.accAnchor t acc fp32 anchor) (s.mat t (!fp32 || anchor == 0) [] (fun s =>
    s.queueAcc t acc (.anchor fp32 anchor) [] [])))

/-- `acc.load` (R96 to R98). -/
def execAccLoad (t : Nat) (ga : Reg) (acc : AccNo) (addTo : Bool) (ecc : TileEcc) (s : State) : Host.Outcome State Fault Refusal :=
  .next (s.spelled t (.accLoad t ga acc addTo ecc) (s.mat t true [ga] (fun s =>
    let x := s.tile t
    let a := (x.gr ga).toNat
    let r : Range := ⟨a, 67600⟩
    if !s.inScratch t a 67600 then s.trap t .tileMemAccess (some a)
    else if s.conflict t [r] [] || decide (4 ≤ x.matQueue.length) then s
    else (s.tileFound t [r] ecc).queueAcc t acc (.load addTo) [r] [])))

/-- The checks of a matrix instruction's destination ranges: the cause, if any (R134, R181). -/
def State.writeCause (s : State) (t : Nat) (ws : List Range) : Option (Trap × Nat) :=
  match s.pastScratch t ws with
  | some r => some (.tileMemAccess, r.base)
  | none => (ws.find? (fun r => decide (r.len ≠ 0) && (s.tile t).meetsStable r.base r.len)).map (fun r => (.stableWrite, r.base))

/-- `acc.store` (R98). -/
def execAccStore (t : Nat) (ga : Reg) (acc : AccNo) (s : State) : Host.Outcome State Fault Refusal :=
  .next (s.spelled t (.accStore t ga acc) (s.mat t true [ga] (fun s =>
    let x := s.tile t
    let a := (x.gr ga).toNat
    let r : Range := ⟨a, 67600⟩
    match s.writeCause t [r] with
    | some (c, v) => s.trap t c (some v)
    | none =>
      if s.conflict t [] [r] then s else s.queueAcc t acc .store [] [r])))

/-- `acc.cvt` (R104 to R113, R181). -/
def execAccCvt (t : Nat) (ga gb : Reg) (m : CvtCtl) (s : State) : Host.Outcome State Fault Refusal :=
  let code := m.fmt.toNat
  let ok := (Rnd.ofCode m.rmode).isSome && decide (m.rowFirst.toNat + m.rowsM1.toNat ≤ 63) &&
    (if mxTarget code then gb != 0
     else if (cvtTarget code).isSome then gb == 0 && !m.colblk else true)
  .next (s.spelled t (.accCvt t ga gb m) (s.mat t ok [ga, gb] (fun s =>
    let x := s.tile t
    let rows := cvtRows m
    let blockOk := !m.colblk || ((m.rowFirst == 0 || m.rowFirst == 32) && (rows == 32 || rows == 64))
    match cvtTarget code, Rnd.ofCode m.rmode with
    | some fmt, some mode =>
      if !blockOk then s.trap t .illegalFormat none
      else
        let w := 1 + fmt.eb + fmt.mb
        let el : Range := ⟨(x.gr ga).toNat, 8 * w * rows⟩
        let sc : Range := ⟨(x.gr gb).toNat, if !mxTarget code then 0 else if m.colblk then 64 * (rows / 32) else 2 * rows⟩
        match s.writeCause t [el, sc] with
        | some (c, v) => s.trap t c (some v)
        | none =>
          if s.conflict t [] [el, sc] || decide (4 ≤ x.matQueue.length) then s
          else
            -- the conversion's draws are taken in program order (R110)
            (s.queueAcc t m.acc (.cvt m) [] [el, sc]).modTile t (fun x =>
              if decide (mode = .stoch) then { x with lfsr := (drawList x.lfsr (64 * rows)).1 } else x)
    | _, _ => s.trap t .illegalFormat none)))

/-- `acc.wait` (R125, R179): it retires once no matrix operation on the named files is left; the program waits for that
(DESIGN CHOICE, assumption 15). -/
def execAccWait (t : Nat) (files : BitVec 4) (s : State) : Host.Outcome State Fault Refusal :=
  .next (s.spelled t (.accWait t files) (s.mat t true [] (fun s =>
    if ([0, 1, 2, 3] : List AccNo).all (fun a => !files.getLsbD a.val || (s.tile t).fileFree a) then s.retire t true else s)))

/-! ## Events of the matrix queue -/

/-- The launch of a tile may have ended (R137). -/
def State.settleTile (s : State) (t : Nat) : State :=
  match (s.tile t).task with
  | some k => s.settle k
  | none => s

/-- MMA_START (R125): the first queued `mma` whose file no earlier instruction works on leaves the queue, where the grid is free. -/
def execMmaStart (t : Nat) (s : State) : Host.Outcome State Fault Refusal :=
  let x := s.tile t
  .next (match x.mmaRunning, x.nextMat (fun o => match o with | .mma _ => true | .acc _ => false) [] x.matQueue with
    | none, some (.mma o, rest) =>
      (s.modTile t (fun x => { x with matQueue := rest, mmaRunning := some o, gated := setDel x.gated 1 })).matPump t
    | _, _ => s)

/-- MMA_COMPLETE (R125): its terms are added to its file; a poisoned operand word poisons the file (R121). Instructions that waited
for the file start. -/
def execMmaComplete (t : Nat) (ecc : TileEcc) (s : State) : Host.Outcome State Fault Refusal :=
  .next (match (s.tile t).mmaRunning with
    | none => s
    | some o =>
      let s := s.tileFound t o.reads ecc
      let x := s.tile t
      let f := x.acc o.m.acc
      let p := o.reads.any (fun r => anyPoison x.poison r.base r.len)
      let g := { o.run x f with poisoned := f.poisoned || p }
      ((s.modTile t (fun x => { (x.setAcc o.m.acc g).markPoison (p && !f.poisoned) with mmaRunning := none })).matPump t).settleTile t)

/-- ACC_OP_COMPLETE (R126): the operation ends, and instructions that waited for its file or its ranges may start or issue. -/
def execAccOpComplete (t slot : Nat) (s : State) : Host.Outcome State Fault Refusal :=
  .next (if (s.tile t).accOps.any (fun o => o.slot == slot) then
      ((s.modTile t (fun x => { x with accOps := x.accOps.filter (fun o => o.slot != slot) })).matPump t).settleTile t
    else s)

end Sys2Proof.Machine
end

