-- ==== Sys2Proof/Machine/Mica.lean ====
section
/-! DEFINITION. Mica in-bank arithmetic (R195 to R222): the command block, its checks and its weight layout; issue by a tile
or a queue; streaming, block sums, results. -/

namespace Sys2Proof.Machine

/-! ## The command block (R203) -/

/-- A block of 64 bytes. -/
def parseMica (b : List Byte) : MicaBlock :=
  let f (o n : Nat) : Nat := leNat ((b.drop o).take n)
  { weightVa := f 0x00 8, scaleVa := f 0x08 8, actVa := f 0x10 8, actScale := f 0x18 8, outVa := f 0x20 8, m := f 0x28 4
    weightPitch := f 0x2C 4, scalePitch := f 0x30 4, k := f 0x34 2, anchor := BitVec.ofNat 16 (f 0x36 2)
    stackMask := BitVec.ofNat 8 (f 0x38 1), wfmt := f 0x39 1 % 16, afmt := f 0x3A 1 % 16, out := BitVec.ofNat 8 (f 0x3B 1)
    flags := BitVec.ofNat 8 (f 0x3C 1)
    reservedOk := decide (f 0x39 1 < 16) && decide (f 0x3A 1 < 16) && decide (f 0x3C 1 < 8) && f 0x3D 3 == 0 }

def MicaBlock.mode (b : MicaBlock) : Nat := b.out.toNat % 4
def MicaBlock.outFmt (b : MicaBlock) : Nat := bits b.out.toNat 2 4
def MicaBlock.actLocal (b : MicaBlock) : Bool := b.flags.getLsbD 0
def MicaBlock.outLocal (b : MicaBlock) : Bool := b.flags.getLsbD 1

/-- Operand classes of R196. -/
inductive MicaClass where
  | mx | scaled | trit
deriving DecidableEq, Repr

/-- The class of a pair, if the pair is one of R196. -/
def micaClass (w a : Nat) : Option MicaClass :=
  let mxAct := a == 0xA || a == 0x3 || a == 0xC
  let intAct := a == 0xE || a == 0x5
  if w = 0x7 ∨ w = 0xA ∨ w = 0x3 ∨ w = 0xC then (if mxAct then some .mx else none)
  else if w = 0xD ∨ w = 0x6 ∨ w = 0xE ∨ w = 0x5 then (if intAct then some .scaled else none)
  else if w = 0xF then (if intAct || a == 0x3 then some .trit else none)
  else none

/-- Bytes of a weight row (R201). -/
def MicaBlock.rowBytes (b : MicaBlock) : Nat :=
  if b.wfmt = 0xF then 13 * b.k / 64
  else if b.wfmt = 0x7 ∨ b.wfmt = 0xD ∨ b.wfmt = 0x6 then b.k / 2
  else b.k

/-- Slot length (R201). -/
def MicaBlock.slotLen (b : MicaBlock) : Nat := roundUp b.rowBytes 32

/-- Bank streams: 1,024 for each member (R201). -/
def MicaBlock.streams (b : MicaBlock) : Nat := 1024 * b.members.length

/-- Scale bytes of a weight row (R202). -/
def MicaBlock.scaleBytes (b : MicaBlock) : Nat :=
  match b.wfmt with
  | 0x7 | 0xA | 0xC | 0xF => b.k / 32
  | 0xD | 0xE => 4
  | _ => 0

/-- Granules of each member's part (R201). -/
def MicaBlock.partGranules (b : MicaBlock) : Nat :=
  let slots := (b.m + b.streams - 1) / b.streams
  (slots * b.slotLen + 2047) / 2048

/-- Device-virtual address of byte `i` of row `r`'s slot (R201). -/
def MicaBlock.weightAddr (b : MicaBlock) (r i : Nat) : Nat :=
  let j := r % b.streams
  let a := r / b.streams * b.slotLen + i
  b.weightVa + j / 1024 * b.weightPitch * 2 ^ 21 + a / 2048 * 2 ^ 21 + j % 1024 * 2048 + a % 2048

/-- Device-virtual address of row `r`'s scales (R202). -/
def MicaBlock.scaleAddr (b : MicaBlock) (r : Nat) : Nat :=
  let j := r % b.streams
  b.scaleVa + j / 1024 * b.scalePitch + (r / b.streams * 1024 + j % 1024) * b.scaleBytes

/-- The member position that holds a row (R201). -/
def MicaBlock.memberOf (b : MicaBlock) (r : Nat) : Nat := r % b.streams / 1024

/-- Rows of a member position. -/
def MicaBlock.rowsOf (b : MicaBlock) (i : Nat) : List Nat := (List.range b.m).filter (fun r => b.memberOf r == i)

/-- Terms of a row (R196). -/
def MicaBlock.terms (b : MicaBlock) : Nat := if b.wfmt = 0xF then b.k / 64 else b.k / 32

/-- Bytes of the activation-scale array (R203). -/
def MicaBlock.actScaleLen (b : MicaBlock) : Nat := if mxAct b.afmt then b.k / 32 else 0

/-! ## Checks (R199, R201, R204) -/

/-- A range lies in segments of this block, each byte's segment meeting a condition. -/
def State.inSegs (s : State) (segs : Tbl Segment) (ok : Segment → Bool) (va n : Nat) : Bool :=
  decide (n = 0) || (!isHostVa va && !isHostVa (va + n - 1) && segCover segs (fun g => g.device == s.fab.self && ok g) va n)

/-- Every granule of a segment has local interleave (R199). -/
def State.localSeg (s : State) (g : Segment) : Bool :=
  (List.range g.gran).all (fun i => !s.striped (granOf (g.local' (g.vbase + i * 2 ^ 21))))

/-- Member position `i` of stack `q` has its part where R199 and R201 want it. -/
def State.partOk (s : State) (segs : Tbl Segment) (b : MicaBlock) (i q : Nat) : Bool :=
  (List.range b.partGranules).all (fun j =>
    let va := b.weightVa + (i * b.weightPitch + j) * 2 ^ 21
    match (if isHostVa va then none else findSeg segs va) with
    | some g => g.mica && g.device == s.fab.self && s.localSeg g && s.stackOf (g.local' va) == q
    | none => false)

/-- The ranges outside the tile that a command reads, but for its weights: scales by member, activations and their scales. -/
def MicaBlock.outerReads (b : MicaBlock) : List (Nat × Nat) :=
  let scales := (List.range b.members.length).map (fun i =>
    (b.scaleVa + i * b.scalePitch, b.scaleBytes * (match (b.rowsOf i).getLast? with
      | some r => r / b.streams * 1024 + r % 1024 + 1
      | none => 0)))
  scales ++ (if b.actLocal then [] else [(b.actVa, b.k), (b.actScale, b.actScaleLen)])

/-- What fails in a command block, in the order of R189: the cause and the address it names. A SCALE_PITCH that is no multiple of 64 is
MISALIGNED with the pitch as its address (DESIGN CHOICE, assumption 73). -/
def State.micaCause (s : State) (t : Option Nat) (segs : Tbl Segment) (b : MicaBlock) : Option (Trap × Option Nat) :=
  let mode := b.mode
  let fieldsOk := b.reservedOk && decide (1 ≤ b.m) && decide (b.m ≤ 1048576) && decide (1 ≤ b.weightPitch)
    && decide (b.weightPitch ≤ 65536) && decide (64 ≤ b.k) && decide (b.k ≤ 16384) && b.k % 64 == 0 && b.anchor != 0x8000#16
    && b.stackMask != 0 && b.members.all (fun q => s.present q) && mode != 3 && (mode == 0 || b.outFmt == 0)
    && (t.isSome || (!b.actLocal && !b.outLocal))
  let scaleOk := (b.scaleBytes != 0 || b.scaleVa == 0) &&
    (if mxAct b.afmt then true else if b.afmt = 0xE then decide (b.actScale < 2 ^ 32) else b.actScale == 0)
  let formatsOk := (micaClass b.wfmt b.afmt).isSome && (mode != 0 || decide (b.outFmt ≤ 4)) && scaleOk
  let localReads := match t with
    | some _ => b.localReads
    | none => []
  let localWrites := match t with
    | some _ => b.localWrites
    | none => []
  if !fieldsOk then some (.illegalInsn, none)
  else if !formatsOk then some (.illegalFormat, none)
  else match ([(b.weightVa, 2 ^ 21), (b.scaleVa, 64), (b.actVa, 64), (b.outVa, 64), (b.scalePitch, 64)]).find? (fun p => p.1 % p.2 != 0) with
    | some p => some (.misaligned, some p.1)
    | none => match (localReads ++ localWrites).find? (fun r => match t with
          | some t => !s.inScratch t r.base r.len
          | none => false) with
      | some r => some (.tileMemAccess, some r.base)
      | none => match localWrites.find? (fun r => match t with
            | some t => (s.tile t).meetsStable r.base r.len
            | none => false) with
        | some r => some (.stableWrite, some r.base)
        | none =>
          let parts := b.members.zipIdx
          let all := b.outerReads ++ (if b.outLocal then [] else [(b.outVa, b.outLen)])
          match parts.find? (fun p => !s.partOk segs b p.2 p.1) with
          | some p => some (.segFault, some (b.weightVa + p.2 * b.weightPitch * 2 ^ 21))
          | none =>
            if b.weightPitch < b.partGranules then some (.segFault, some b.weightVa)
            else match all.find? (fun r => !s.inSegs segs (fun _ => true) r.1 r.2) with
              | some r => some (.segFault, some r.1)
              | none =>
                match parts.find? (fun p => !s.inSegs segs (fun g => g.r) (b.weightVa + p.2 * b.weightPitch * 2 ^ 21) (b.partGranules * 2 ^ 21)) with
                | some p => some (.rights, some (b.weightVa + p.2 * b.weightPitch * 2 ^ 21))
                | none => match b.outerReads.find? (fun r => !s.inSegs segs (fun g => g.r) r.1 r.2) with
                  | some r => some (.rights, some r.1)
                  | none =>
                    if !b.outLocal && !s.inSegs segs (fun g => g.w) b.outVa b.outLen then some (.rights, some b.outVa) else none

/-! ## Issue (R183, R213, R220, R221) -/

/-- A command before it runs. Activations in tile memory, which no later instruction may write (R187), are taken with it. -/
def mkMica (b : MicaBlock) (context : Nat) (segs : Tbl Segment) (tile task : Option Nat) (lc : Nat) (acts : List (Byte × Bool)) :
    MicaCmd :=
  { block := b, context := context, segs := segs, tile := tile, issuer := tile, ahead := 0, limit := 0, task := task, lc := lc
    acts := acts, before := [], beforePoison := [], started := [], refused := false, acc := [], nextTerm := [], poisonRows := [], done := [] }

/-- The activation elements, then their scale bytes, in a tile's memory. -/
def Tile.micaActs (x : Tile) (b : MicaBlock) : List (Byte × Bool) :=
  if b.actLocal then x.readBytes b.actVa b.k ++ x.readBytes b.actScale b.actScaleLen else []

/-- `mica.gemv` (R183, R189): a command into tile memory is issued at once, one into memory is an effect (R138). -/
def execMicaGemv (t : Nat) (ga : Reg) (lc : LcNo) (ecc : TileEcc) (par : CacheParity) (s : State) : Host.Outcome State Fault Refusal :=
  .next (s.spelled t (.micaGemv t ga lc ecc par) (s.sync t true [ga] (fun s =>
    let x := s.tile t
    let a := (x.gr ga).toNat
    if a % 64 ≠ 0 then s.trap t .misaligned (some a)
    else if !s.inScratch t a 64 then s.trap t .tileMemAccess (some a)
    else if s.conflict t [⟨a, 64⟩] [] then s
    else
      let b := parseMica (memRead x.scratch a 64)
      match s.micaCause (some t) x.segs b with
      | some (c, v) => s.trap t c v
      | none =>
        let id := s.nextId
        let out := x.mkHeld (.mica id) b.outVa false
        if decide (4 ≤ x.micas.length) || s.conflict t b.localReads b.localWrites || (if b.outLocal then s.micaNoRoom b else s.effectsWait t [out]) then s
        else
          let r := if !b.outLocal && !x.isProtected && x.fencePending then s.flushRead t par else (s, true)
          if !r.2 then r.1
          else
            let s := r.1.tileFound t (⟨a, 64⟩ :: b.localReads) ecc
            let cmd := mkMica b (x.context.getD 0) x.segs (some t) x.task lc.val ((s.tile t).micaActs b)
            let s := { s with mica := { s.mica with cmds := tblPut s.mica.cmds id cmd } }.bump
            let note (s : State) : State := s.modTile t (fun x => { x with micas := x.micas ++ [(id, lc.val, b.outLocal)] })
            if b.outLocal then (note (s.micaEnqueue id x.released.length)).retire t true
            else s.putEffects t [out] .good (fun s => (note s).retire t true))))

/-- QUEUE_MICA_GEMV (R221): the sequencer issues the command of a dispatched task; it waits while a member's queue is full. -/
def execQueueMicaGemv (k : Nat) (s : State) : Host.Outcome State Fault Refusal :=
  .next (match s.task? k with
    | some x =>
      match x.body, x.phase with
      | .mica b, .dispatched =>
        let id := s.nextId
        let s' := { s with mica := { s.mica with cmds := tblPut s.mica.cmds id (mkMica b x.context x.segs none (some k) 0 []) } }.bump
        if s'.micaFull id then s else (s'.micaEnqueue id 0).setTask k { x with phase := .running }
      | _, _ => s
    | none => s)

/-! ## MICA_STREAM_START (R205, R209, R213, R215) -/

/-- Device ranges of a device-virtual range under a command's segments. -/
def MicaCmd.device (c : MicaCmd) (va n : Nat) : List (Nat × Nat) :=
  (chunks4K va n).filterMap (fun p => (findSeg c.segs p.2.1).map (fun g => (g.local' p.2.1, p.2.2)))

/-- Latest bytes of a device-virtual range with their P bits (R209). -/
def State.micaRead (s : State) (c : MicaCmd) (va n : Nat) : List (Byte × Bool) :=
  ((c.device va n).map (fun p => s.readFlagged p.1 p.2)).flatten

/-- The activation elements, then their scale bytes, as a command has them or from device memory. -/
def State.micaActs (s : State) (c : MicaCmd) : List (Byte × Bool) :=
  let b := c.block
  if b.actLocal then c.acts else s.micaRead c b.actVa b.k ++ s.micaRead c b.actScale b.actScaleLen

/-- The granules that the bank streams of a command read (R205). -/
def MicaCmd.weightGranules (c : MicaCmd) : List Nat :=
  let b := c.block
  let read (i j : Nat) : Bool := (b.rowsOf i).any (fun r =>
    let a := r / b.streams * b.slotLen
    decide (a / 2048 ≤ j) && decide (j ≤ (a + b.slotLen - 1) / 2048))
  ((List.range b.members.length).map (fun i => ((List.range b.partGranules).filter (read i)).filterMap (fun j =>
    let va := b.weightVa + (i * b.weightPitch + j) * 2 ^ 21
    (findSeg c.segs va).map (fun g => granOf (g.local' va))))).flatten

/-- A command ends refused: its results are not written (R205, R260). -/
def State.micaRefuse (s : State) (id : Nat) (c : MicaCmd) (a kind : Nat) : State :=
  let s := (s.micaRemove id).logRefused (.mica id) (some c.context) a kind
  match c.tile, c.task with
  | some t, some k =>
    let s := s.modTile t (fun x => { x with micas := x.micas.filter (fun m => m.1 != id) })
    s.stopLaunch k .accessDenied (s.refusedDetail (.mica id) a)
  | some t, none => s.modTile t (fun x => { x with micas := x.micas.filter (fun m => m.1 != id) })
  | none, some k => s.failTask k .accessDenied (s.refusedDetail (.mica id) a)
  | none, none => s

/-- The first device address that the owner tags refuse to a command, with the request kind. -/
def State.micaRefused (s : State) (c : MicaCmd) : Option (Nat × Nat) :=
  match c.weightGranules.find? (fun g => !s.tagPass (some c.context) g) with
  | some g => some (g * 2 ^ 21, 4)
  | none =>
    ((c.block.outerReads.map (fun r => c.device r.1 r.2)).flatten.find? (fun p => !s.rangePass (some c.context) p.1 p.2)).map
      (fun p => (p.1, 0))

/-- A stack's member of a command has no row left: the stack is free. -/
def State.micaMemberDone (s : State) (stack id : Nat) : State :=
  match tblFind s.mica.cmds id with
  | none => s
  | some c =>
    { s with mica := { s.mica with
        running := tblDel s.mica.running stack
        cmds := tblPut s.mica.cmds id { c with done := setIns c.done stack } } }

/-- Every term of a member position's rows has been added. -/
def MicaCmd.memberFinished (c : MicaCmd) (i : Nat) : Bool :=
  (c.block.rowsOf i).all (fun r => tblGet 0 c.nextTerm r == c.block.terms)

/-- A stack takes its next command. The issuing tile's released effects are globally observed first (R213). A command that waited at its
issuer for the place leaves (R215). -/
def execMicaStreamStart (stack : Nat) (f : DramFinding) (s : State) : Host.Outcome State Fault Refusal :=
  .next (State.micaWake (match tblGet [] s.mica.queue stack, tblFind s.mica.running stack with
    | id :: rest, none =>
      match tblFind s.mica.cmds id with
      | none => { s with mica := { s.mica with queue := tblPut s.mica.queue stack rest } }
      | some c =>
        let waits := s.sourcesHeld || match c.issuer with
          | some t => decide (0 < c.ahead) || (s.tile t).pend.any (fun p => !p.reads && decide (p.id < c.limit))
          | none => false
        let held := (c.block.outerReads.map (fun r => c.device r.1 r.2)).flatten.filter (fun p => !(s.hostHeld p.1 p.2 false).isEmpty)
        if waits && c.started.isEmpty then s
        else if !held.isEmpty then held.foldl (fun s p => s.recallHost p.1 p.2 false) s
        else match (if c.started.isEmpty then s.micaRefused c else none) with
          | some p => s.micaRefuse id c p.1 p.2
          | none =>
            let s := if c.started.isEmpty then s.bulkFound (c.block.outerReads.map (fun r => c.device r.1 r.2)).flatten f else s
            let c := { c with started := setIns c.started stack, acts := if c.started.isEmpty then s.micaActs c else c.acts
                              before := if c.started.isEmpty then s.mem.bytes else c.before
                              beforePoison := if c.started.isEmpty then s.mem.poison else c.beforePoison }
            let s := { s with mica := { s.mica with
              queue := tblPut s.mica.queue stack rest
              running := tblPut s.mica.running stack id
              cmds := tblPut s.mica.cmds id c } }
            let s := (c.block.outerReads.map (fun r => c.device r.1 r.2)).flatten.foldl (fun s p => s.dropFresh p.1 p.2) s
            if c.memberFinished ((c.block.members.findIdx? (· == stack)).getD 0) then s.micaMemberDone stack id else s
    | _, _ => s))

/-! ## MICA_BLOCK_SUM (R81 to R85, R90 to R93, R197, R206, R216) -/

/-- Activation element at a position of K, exact. -/
def MicaCmd.act (c : MicaCmd) (k : Nat) : Num :=
  match elemOf c.block.afmt with
  | some el => el.decode (nth (0, false) c.acts k).1.toNat
  | none => .nan

/-- The trit of a byte at digit `i`; a byte above 242 is invalid (R84, R85). -/
def tritOf (v i : Nat) : Num :=
  if 242 < v then .nan
  else
    let d := v / 3 ^ i % 3
    if d = 0 then .fin true 1 0 else if d = 1 then Num.zero else .fin false 1 0

/-- Weight elements of a term, from the slot bytes that hold it. -/
def micaWeights (fmt : Nat) (bs : List Byte) : List Num :=
  if fmt = 0xF then
    (List.range 64).map (fun i => tritOf (nth 0 bs (i / 5)).toNat (i % 5))
  else match elemOf fmt with
    | some el => (List.range 32).map (fun i => el.decode (unpackAt el.width (fun j => nth 0 bs j) i))
    | none => []

/-- Slot bytes of a term: offset and length. -/
def termBytes (fmt i : Nat) : Nat × Nat :=
  if fmt = 0xF then (13 * i, 13) else if fmt = 0x7 ∨ fmt = 0xD ∨ fmt = 0x6 then (16 * i, 16) else (32 * i, 32)

/-- Bytes of a row's slot as the bank reads them from DRAM, with their P bits (R209). A word that has been written since the command
started is the old or the new one, each word by a choice of its own (R212). -/
def State.weightBytes (s : State) (c : MicaCmd) (r o n : Nat) : List (Byte × Bool) :=
  (List.range n).map (fun i =>
    let va := c.block.weightAddr r (o + i)
    match findSeg c.segs va with
    | some g =>
      let a := g.local' va
      let old := Config.oldWeight s.free (a / 8)
      (memGet (if old then c.before else s.mem.bytes) a, setHas (if old then c.beforePoison else s.mem.poison) (a / 8))
    | none => (0, false))

/-- A trit group sum is NaN where any of its 13 bytes is invalid, the pad's own value aside (R85). -/
def tritBad (fmt : Nat) (bs : List Byte) : Bool := fmt == 0xF && bs.any (fun b => decide (242 < b.toNat))

/-- Term `i` of row `r` and whether a poisoned word feeds it (R206, R216). -/
def State.micaTerm (s : State) (c : MicaCmd) (r i : Nat) : Num × Bool :=
  let b := c.block
  let tb := termBytes b.wfmt i
  let ws := s.weightBytes c r tb.1 tb.2
  let n := if b.wfmt = 0xF then 64 else 32
  let acts := (List.range n).map (fun j => nth (0, false) c.acts (n * i + j))
  let products := (List.zip (micaWeights b.wfmt (ws.map (·.1))) ((List.range n).map (fun j => c.act (n * i + j)))).map
    (fun p => (mulNum p.1 p.2).getD .nan)
  let sum := if tritBad b.wfmt (ws.map (·.1)) then .nan else sumNum products
  let scales := s.micaRead c (b.scaleAddr r) b.scaleBytes
  let asc := nth (0, false) c.acts (b.k + i)
  let sa : Num := if b.afmt = 0xE then fmtFP32.decode b.actScale else .fin false 1 0
  let bad (l : List (Byte × Bool)) : Bool := l.any (·.2)
  match micaClass b.wfmt b.afmt with
  | some .mx =>
    let ws' := if b.scaleBytes = 0 then [] else [nth (0, false) scales i]
    let xw := if b.scaleBytes = 0 then 0x7F else (nth (0, false) scales i).1.toNat
    let as' := if mxAct b.afmt then [asc] else []
    let xa := if mxAct b.afmt then asc.1.toNat else 0x7F
    (scaleBy xa (scaleBy xw sum), bad (ws ++ acts ++ ws' ++ as'))
  | some .scaled =>
    let sw : Num := if b.scaleBytes = 0 then .fin false 1 0 else fmtFP32.decode (leNat (scales.map (·.1)))
    (((mulNum sum sw).bind (fun p => mulNum p sa)).getD .nan, bad (ws ++ acts ++ scales))
  | some .trit =>
    let h := (scales.drop (2 * i)).take 2
    (((mulNum sum (fmtFP16.decode (leNat (h.map (·.1))))).bind (fun p => mulNum p sa)).getD .nan, bad (ws ++ acts ++ h))
  | none => (.nan, false)

/-- The row's next block sum reaches its tree. What the banks' code found in a codeword that the term reads counts as for any read; a word that cannot be corrected leaves
the sum an open value and the row poisoned (R216). -/
def execMicaBlockSum (id row : Nat) (f : DramFinding) (s : State) : Host.Outcome State Fault Refusal :=
  .next (match tblFind s.mica.cmds id with
    | none => s
    | some c =>
      let i := c.block.memberOf row
      let stack := nth 8 c.block.members i
      let n := tblGet 0 c.nextTerm row
      if c.block.m ≤ row ∨ c.block.terms ≤ n ∨ tblFind s.mica.running stack ≠ some id then s
      else
        let tb := termBytes c.block.wfmt n
        let scales := c.device (c.block.scaleAddr row) c.block.scaleBytes
        let rs := c.device (c.block.weightAddr row tb.1) tb.2 ++ scales
        let f := if inCodewords scales f.addr then f else { f with qcache := .clean }
        let poisoned := decide (f.dram = .uncorrectable) && inCodewords rs f.addr
        let s := s.bulkFound rs f
        let tm := s.micaTerm c row n
        let e : AccEntry := tblGet {} c.acc row
        let e' := e.term c.block.anchor.toInt tm.1
        let e' := if poisoned then { e' with n := s.openWord.toInt } else e'
        let s := s.used
        let c := { c with
          acc := tblPut c.acc row e', nextTerm := tblPut c.nextTerm row (n + 1)
          poisonRows := setPut c.poisonRows row (setHas c.poisonRows row || tm.2 || poisoned) }
        let s := { s with mica := { s.mica with cmds := tblPut s.mica.cmds id c } }
        if c.memberFinished i then s.micaMemberDone stack id else s)

/-! ## MICA_COMMAND_COMPLETE (R104 to R108, R207, R208, R213, R216) -/

/-- The converted bytes of a row (R207). -/
def MicaBlock.convert (b : MicaBlock) (e : AccEntry) : List Byte :=
  match cvtTarget b.outFmt with
  | some f =>
    let c : Cvt := ⟨if b.out.getLsbD 6 then .rtz else .rne, b.out.getLsbD 7, b.flags.getLsbD 2, false⟩
    leBytes ((1 + f.eb + f.mb) / 8) (f.encode c 0 (e.value b.anchor.toInt)).1
  | none => []

/-- An entry's raw 16 bytes and flag byte (R207). -/
def rawBytes (e : AccEntry) : List Byte := leBytes 16 (fromInt 128 e.n)
def rawFlags (e : AccEntry) : List Byte := leBytes 1 (e.tag.toNat + 4 * b2n e.ovf)

/-- A stored row merged with a command's row (R92, R93, R207). -/
def mergeRow (old : List Byte) (fl : Byte) (e : AccEntry) : AccEntry :=
  let h : AccEntry := ⟨toSigned 128 (leNat old), fl.getLsbD 2, BitVec.ofNat 2 fl.toNat⟩
  let r := h.add e.n
  { r with ovf := r.ovf || e.ovf, tag := mergeTag h.tag e.tag }

/-- The bytes that the results take at the output, with their poison. `old` is what stands there, for raw-add. -/
def MicaCmd.results (c : MicaCmd) (old : List (Byte × Bool)) : List (Byte × Bool) :=
  let b := c.block
  let rows := List.range b.m
  let bad (r : Nat) : Bool := setHas c.poisonRows r
  let en (r : Nat) : AccEntry := tblGet {} c.acc r
  match b.mode with
  | 0 => (rows.map (fun r => flagged (b.convert (en r)) (bad r))).flatten
  | 1 => (rows.map (fun r => flagged (rawBytes (en r)) (bad r))).flatten ++ (rows.map (fun r => flagged (rawFlags (en r)) (bad r))).flatten
  | _ =>
    let o (r : Nat) : List (Byte × Bool) := (old.drop (16 * r)).take 16
    let f (r : Nat) : Byte × Bool := nth (0, false) old (16 * b.m + r)
    let m (r : Nat) : AccEntry := mergeRow ((o r).map (·.1)) (f r).1 (en r)
    let p (r : Nat) : Bool := bad r || (o r).any (·.2) || (f r).2
    (rows.map (fun r => flagged (rawBytes (m r)) (p r))).flatten ++ (rows.map (fun r => flagged (rawFlags (m r)) (p r))).flatten

/-- Rows whose result has OVF set (R208). -/
def MicaCmd.ovfRows (c : MicaCmd) : Nat := (c.acc.filter (fun e => e.2.ovf)).length

/-- A local counter counts in the valid checkpoint half too, and in the one that is being written, which becomes it (R213). -/
def Tile.countCkpt (x : Tile) (lc : Nat) : Tile :=
  let up (c : Checkpoint) : Checkpoint := { c with lc := tblPut c.lc lc ((tblGet 0 c.lc lc + 1) % 2 ^ 32) }
  { x with ckpt0 := x.ckpt0.map up, ckpt1 := x.ckpt1.map up }

/-- A tile hears of its command's end: LCn, ASTAT (R183, R208, R213, R216). -/
def State.micaTell (s : State) (t id : Nat) (c : MicaCmd) : State :=
  let bad := !c.poisonRows.isEmpty
  let s := s.modTile t (fun x =>
    let x := { x with
      micas := x.micas.filter (fun m => m.1 != id)
      astat := x.astat ||| (if 0 < c.ovfRows then 0x10#7 else 0) ||| (if bad then 0x40#7 else 0)
      lc := tblPut x.lc c.lc ((tblGet 0 x.lc c.lc + 1) % 2 ^ 32) }
    (if c.block.outLocal then x else x.countCkpt c.lc).poke)
  s.settleTile t

/-- The last member has finished: results are written and the issuer is told. Host-held sectors are recalled first (R314), and a
transaction or a progress lock on the output is waited for (R209, R303, R308). -/
def execMicaCommandComplete (id : Nat) (f : DramFinding) (s : State) : Host.Outcome State Fault Refusal :=
  .next (match tblFind s.mica.cmds id with
    | none => s
    | some c =>
      let b := c.block
      if !b.members.all (fun q => setHas c.done q) || s.sourcesHeld then s
      else match c.tile, b.outLocal with
        | some t, true =>
          let old := if b.mode = 2 then (s.tile t).readBytes b.outVa b.outLen else []
          ((s.micaRemove id).modTile t (fun x => x.storeBytes b.outVa (c.results old))).micaTell t id c
        | _, _ =>
          let parts := c.device b.outVa b.outLen
          if parts.any (fun p => !(s.hostHeld p.1 p.2 true).isEmpty) then parts.foldl (fun s p => s.recallHost p.1 p.2 true) s
          else if parts.any (fun p => s.inTxn p.1 p.2 || s.lockedFor none p.1 p.2) then s
          else
            let s := if b.mode = 2 then s.bulkFound parts f else s
            let old := if b.mode = 2 then s.micaRead c b.outVa b.outLen else []
            let out := c.results old
            let no := ((parts.find? (fun p => !s.rangePass (some c.context) p.1 p.2)).map (·.1)).getD b.outVa
            let w := (s.micaRemove id).engineWrite (.mica id) c.context c.segs (if c.tile.isSome then none else c.task) b.outVa out none
            let s := w.1.countBytes c.task w.2
            let bad := out.any (·.2)
            let poison := mkDetail 0x4A (some (b.outVa + (out.findIdx? (·.2)).getD 0)) 0 0
            match c.tile, c.task with
            | some t, k =>
              let s := if bad then s.taskFault? k .poisonedOutput poison else s
              let s := s.micaTell t id c
              if w.2 < out.length then
                match k with
                | some k => s.stopLaunch k .accessDenied (s.refusedDetail (.mica id) no)
                | none => s
              else s
            | none, some k =>
              let s := if bad then s.taskFault k .poisonedOutput poison else s
              let s := if c.ovfRows = 0 then s else s.taskFault k .ok (mkDetail 0x49 none c.ovfRows 0)
              s.finish k
            | none, none => s)

/-! ## MICA_RESIDUE_FAIL (R485, R490) -/

/-- A block sum is discarded and its column accesses are read again; a unit's second failure within 24 hours brings in a spare
bank. Each listed value is a tick. -/
def execMicaResidueFail (stack bank row : Nat) (s : State) : Host.Outcome State Fault Refusal :=
  .next (match tblFind s.mica.running stack with
    | none => s
    | some _ =>
      let key := stack * 1024 + bank
      let ts := s.recent (tblGet [] s.mica.residue key) ++ [s.now]
      let n := s.openNat % 201
      let s := { s with mica := { s.mica with residue := tblPut s.mica.residue key ts } }.used
      let s := s.log .micaResidue .masked stack noVein bank noCtx n row ts.length
      if 2 ≤ ts.length then s.replaceBank stack bank else s)

end Sys2Proof.Machine
end

