-- ==== Sys2Proof/Machine/Entries.lean ====
section
/-! DEFINITION. Entries of the work queues and of the admin queue (R366 to R368, R374 to R383): the fields of a header and of each
body, and the checks that make an entry malformed, each with the offset of the lowest byte that it offends at (R388). -/

namespace Sys2Proof.Machine

/-! ## Offences (R388) -/

/-- The little-endian field of `n` bytes at an offset. -/
def field (e : List Byte) (o n : Nat) : Nat := leNat ((e.drop o).take n)

/-- A rule on a field, and where the entry offends if it breaks it. -/
def must (ok : Bool) (o : Nat) : Bool × Nat := (!ok, o)

/-- A reserved run, or a field left unused: `n` zero bytes. -/
def zero (e : List Byte) (o n : Nat) : Bool × Nat := (((e.drop o).take n).any (fun b => b != 0), o)

/-- The lowest offending offset. -/
def lowest (l : List (Bool × Nat)) : Option Nat :=
  l.foldl (fun a x => if x.1 then (match a with
    | some m => some (Nat.min m x.2)
    | none => some x.2) else a) none

/-- Flags of word 0 (R368). -/
def flagAbort (x : Nat) : Bool := bit x 0
def flagNoDeadline (x : Nat) : Bool := bit x 1
def flagWait (x : Nat) : Bool := bit x 2
def flagSignal (x : Nat) : Bool := bit x 3
def flagNoIntr (x : Nat) : Bool := bit x 4
def flagSerial (x : Nat) : Bool := bit x 5

/-- An object of a vein's Flint range. -/
def Vein.hasObj (v : Vein) (n : Nat) : Bool := decide (v.flintFirst ≤ n) && decide (n < v.flintFirst + v.flintCount)

/-- The header (R367, R368). `v`: the queue's vein, none on the admin queue. -/
def headerFaults (v : Option Vein) (e : List Byte) : List (Bool × Nat) :=
  let fl := field e 2 2
  let wait := v.isSome && flagWait fl
  let sig := v.isSome && flagSignal fl
  let own (o n : Nat) : Bool := match v with
    | some v => v.hasObj n
    | none => o == 0
  [must (field e 0 1 < 2) 0x00, must (fl < 64) 0x02, must (v.isSome || fl == 0 || fl == 16) 0x02,
    must (field e 0x0D 3 == 0) 0x0D, must (field e 0x08 5 == 0 || (v.isSome && !flagNoDeadline fl)) 0x08,
    must (field e 0x10 8 / 2 ^ 14 == 0) 0x11, must (if sig then own 1 (field e 0x10 2 % 2 ^ 14) else field e 0x10 2 % 2 ^ 14 == 0) 0x10,
    must (if wait then own 1 (field e 0x18 2 % 2 ^ 14) else field e 0x18 2 % 2 ^ 14 == 0) 0x18,
    must (wait || field e 0x19 1 / 64 == 0) 0x19, must (field e 0x1A 2 == 0) 0x1A, must (wait || field e 0x1C 4 == 0) 0x1C]

/-- The condition of a header's wait-before (R367). -/
def condOf (code thresh : Nat) : Cond :=
  match code with
  | 0 => .ge thresh
  | 1 => .eq thresh
  | 2 => .ne thresh
  | _ => .phaseNot (bit thresh 0)

/-! ## Work commands (R375 to R381) -/

/-- A device-virtual range can be reached with a right: host space, or slots of the context. -/
def inReach (segs : Tbl Segment) (ok : Segment → Bool) (va n : Nat) : Bool :=
  if isHostVa va then decide (va + n ≤ 2 ^ 64) else segCover segs ok va n

/-- A range of segment space in the slots of the context. -/
def inSlots (segs : Tbl Segment) (ok : Segment → Bool) (va n : Nat) : Bool := !isHostVa va && segCover segs ok va n

/-- A STASH field (R309, R376): the logical tile named, where the hint is enabled. -/
def stashOf (v : Nat) : Option Nat := if bit v 15 then some (v % 512) else none

/-- LAUNCH (R132, R134, R375). -/
def State.launchFaults (s : State) (v : Vein) (segs : Tbl Segment) (e : List Byte) : List (Bool × Nat) :=
  let entry := field e 0x20 8
  let first := field e 0x28 2
  let count := field e 0x2A 2
  let prot := field e 0x2C 1
  let base := field e 0x38 4
  let len := field e 0x3C 4
  let src := field e 0x40 8
  let stable : List (Bool × Nat) :=
    if len = 0 then [zero e 0x38 4, zero e 0x40 8]
    else [must (base % 64 == 0 && decide (base + len ≤ 0x3BC000 - carveOut v.dcache)) 0x38, must (len % 64 == 0 && decide (len ≤ 2 ^ 20)) 0x3C,
      must (inSlots segs (fun g => g.device == s.fab.self && g.r) src len) 0x40]
  [must (entry % 4 == 0 && (isHostVa entry || (findSeg segs entry).isSome)) 0x20, must (count != 0) 0x2A,
    must (first + count ≤ v.tileCount) 0x28, must (decide (prot < 3)) 0x2C,
    must (!(prot == 1 || (prot == 0 && v.protect)) || decide (2 ≤ v.ckptUnits)) 0x2C, zero e 0x2D 3, zero e 0x88 120] ++ stable

def launchBody (e : List Byte) : LaunchBody :=
  ⟨field e 0x20 8, field e 0x28 2, field e 0x2A 2, field e 0x2C 1 % 4, BitVec.ofNat 64 (field e 0x30 8), field e 0x38 4, field e 0x3C 4,
    field e 0x40 8, (List.range 8).map (fun i => BitVec.ofNat 64 (field e (0x48 + 8 * i) 8))⟩

/-- COPY, COPY_INLINE, FILL (R376). Where LENGTH is out of range the addresses that the entry names must still lie in slots (R388). -/
def copyFaults (segs : Tbl Segment) (e : List Byte) : List (Bool × Nat) :=
  let n := field e 0x30 8
  let lenOk := decide (1 ≤ n) && decide (n ≤ 2 ^ 40)
  let m := if lenOk then n else 1
  [must lenOk 0x30, must (inReach segs (fun g => !lenOk || g.r) (field e 0x20 8) m) 0x20,
    must (inReach segs (fun g => !lenOk || g.w) (field e 0x28 8) m) 0x28, must (bits (field e 0x38 2) 9 6 == 0) 0x39, zero e 0x3A 198]

def inlineFaults (segs : Tbl Segment) (e : List Byte) : List (Bool × Nat) :=
  let n := field e 0x28 2
  let lenOk := decide (1 ≤ n) && decide (n ≤ 192)
  let m := if lenOk then n else 1
  [must lenOk 0x28, must (inReach segs (fun g => !lenOk || g.w) (field e 0x20 8) m) 0x20,
    must (bits (field e 0x2A 2) 9 6 == 0) 0x2B, zero e 0x2C 20]

def fillFaults (segs : Tbl Segment) (e : List Byte) : List (Bool × Nat) :=
  let n := field e 0x28 8
  let lenOk := decide (1 ≤ n) && decide (n ≤ 2 ^ 40)
  let m := if lenOk then n else 1
  [must lenOk 0x28, must (inReach segs (fun g => !lenOk || g.w) (field e 0x20 8) m) 0x20, zero e 0x38 200]

/-- MICA_GEMV (R204, R377): the command block stands at 0x20. -/
def State.micaFaults (s : State) (segs : Tbl Segment) (e : List Byte) : List (Bool × Nat) :=
  let b := parseMica ((e.drop 0x20).take 64)
  let n := b.members.length
  let sane := decide (1 ≤ b.m) && decide (b.m ≤ 1048576) && decide (64 ≤ b.k) && decide (b.k ≤ 16384) && b.k % 64 == 0 && n != 0
  let scales := (List.range n).map (fun i => (b.scaleVa + i * b.scalePitch, b.scaleBytes * (match (b.rowsOf i).getLast? with
    | some r => r / b.streams * 1024 + r % 1024 + 1
    | none => 0)))
  [must (decide (1 ≤ b.m) && decide (b.m ≤ 1048576)) 0x48, must (decide (1 ≤ b.weightPitch) && decide (b.weightPitch ≤ 65536)) 0x4C,
    must (decide (64 ≤ b.k) && decide (b.k ≤ 16384) && b.k % 64 == 0) 0x54, must (b.anchor != 0x8000#16) 0x56,
    must (b.stackMask != 0 && b.members.all (fun q => s.present q)) 0x58, must (field e 0x59 1 / 16 == 0) 0x59,
    must (field e 0x5A 1 / 16 == 0) 0x5A, must (b.mode != 3 && (b.mode == 0 || b.outFmt == 0)) 0x5B,
    must (field e 0x5C 1 / 8 == 0 && !b.actLocal && !b.outLocal) 0x5C, zero e 0x5D 3, zero e 0x60 160,
    must (micaClass b.wfmt b.afmt).isSome 0x59, must (b.mode != 0 || decide (b.outFmt ≤ 4)) 0x5B,
    must (b.scaleBytes != 0 || b.scaleVa == 0) 0x28,
    must (mxAct b.afmt || (if b.afmt = 0xE then decide (b.actScale < 2 ^ 32) else b.actScale == 0)) 0x38,
    must (b.weightVa % 2 ^ 21 == 0) 0x20, must (b.scaleVa % 64 == 0) 0x28, must (b.actVa % 64 == 0) 0x30, must (b.outVa % 64 == 0) 0x40,
    must (b.scalePitch % 64 == 0) 0x50] ++
  (if sane then
    [must (decide (b.partGranules ≤ b.weightPitch) && b.members.zipIdx.all (fun p => s.partOk segs b p.2 p.1
        && s.inSegs segs (fun g => g.r) (b.weightVa + p.2 * b.weightPitch * 2 ^ 21) (b.partGranules * 2 ^ 21))) 0x20,
      must (scales.all (fun r => s.inSegs segs (fun g => g.r) r.1 r.2)) 0x28, must (s.inSegs segs (fun g => g.r) b.actVa b.k) 0x30,
      must (s.inSegs segs (fun g => g.r) b.actScale b.actScaleLen) 0x38, must (s.inSegs segs (fun g => g.w) b.outVa b.outLen) 0x40]
  else [])

/-- The child list that an entry of the SIGNAL command names, where it is one to look at: of a CONFIGURE, inside local segments. -/
def State.configList (s : State) (segs : Tbl Segment) (e : List Byte) : List (Nat × Nat) :=
  let n := 8 * field e 0x3C 2
  if field e 1 1 == 0x08 && field e 0x20 1 == 2 && n != 0 && decide (n ≤ 32768)
      && inSlots segs (fun g => g.device == s.fab.self) (field e 0x40 8) n then localParts segs (field e 0x40 8) n
  else []

/-- A child list names an object above 16,383 (R328). Words that carry poison name nothing (DEDUCED, assumption 75). -/
def State.badChild (s : State) (ps : List (Nat × Nat)) : Bool :=
  let bs := (ps.map (fun p => s.readFlagged p.1 p.2)).flatten
  (List.range (bs.length / 8)).any (fun i =>
    let w := (bs.drop (8 * i)).take 8
    !w.any (·.2) && decide (2 ^ 14 ≤ bits (leNat (w.map (·.1))) 16 16))

/-- SIGNAL (R328, R378). -/
def State.signalFaults (s : State) (v : Vein) (segs : Tbl Segment) (e : List Byte) : List (Bool × Nat) :=
  let op := field e 0x20 1
  let fl := field e 0x21 1
  let remote := bit fl 0
  let conf := op == 2
  let kids := field e 0x3C 2
  let parent := field e 0x3A 2
  let value := field e 0x28 8
  let base : List (Bool × Nat) :=
    [must (decide (op < 4)) 0x20, must (decide (fl < 16)) 0x21, must (conf || fl / 2 == 0) 0x21, must (!remote || decide (op < 2)) 0x20,
      must (field e 0x22 2 / 2 ^ 14 == 0) 0x23, must (remote || v.hasObj (field e 0x22 2 % 2 ^ 14)) 0x22,
      must (remote || field e 0x24 2 == 0) 0x24, must (field e 0x26 2 / 2 ^ 11 == 0) 0x27, zero e 0x34 4, zero e 0x3E 2, zero e 0x48 184]
  base ++
  (if conf then
    -- a check that tells counters from barriers names KIND too
    [must (if bit fl 1 then decide (value < field e 0x30 4) else decide (value < 2 ^ 32)) 0x21,
      must (!bit fl 1 || field e 0x30 4 != 0) 0x21, must (!bit parent 14) 0x3B, must (bit parent 15 || field e 0x38 2 == 0) 0x38,
      must (bit parent 15 || parent % 2 ^ 14 == 0) 0x3A, must (decide (kids ≤ 4096)) 0x3C,
      must (if kids = 0 then field e 0x40 8 == 0
        else inSlots segs (fun g => g.device == s.fab.self) (field e 0x40 8) (8 * kids)) 0x40,
      must (!s.badChild (s.configList segs e)) 0x40]
  else [must (if op < 2 then decide (value < 2 ^ 32) else value == 0) 0x28, zero e 0x26 2, zero e 0x30 4, zero e 0x38 2, zero e 0x3A 2,
    zero e 0x3C 2, zero e 0x40 8])

def configBody (e : List Byte) : ConfigBody :=
  let fl := field e 0x21 1
  let parent := field e 0x3A 2
  ⟨bit fl 1, bit fl 2, bit fl 3, field e 0x26 2, field e 0x28 8, field e 0x30 4, field e 0x38 2, parent % 2 ^ 14, bit parent 15,
    field e 0x3C 2, field e 0x40 8⟩

/-- WAIT (R378). -/
def waitFaults (v : Vein) (segs : Tbl Segment) (e : List Byte) : List (Bool × Nat) :=
  let kind := field e 0x20 1
  let word := field e 0x28 8
  let seg := if isHostVa word then none else findSeg segs word
  [must (decide (kind < 3)) 0x20, must (if kind = 0 then decide (field e 0x21 1 < 3) else field e 0x21 1 == 0) 0x21, zero e 0x30 208] ++
  (if kind = 2 then [zero e 0x22 2, zero e 0x24 4, must (word % 8 == 0 && (match seg with
      | some g => g.tagged
      | none => false)) 0x28]
  else if kind < 2 then [must (v.hasObj (field e 0x22 2)) 0x22, zero e 0x28 8] else [])

/-- BARRIER_ARRIVE (R378). -/
def arriveFaults (v : Vein) (e : List Byte) : List (Bool × Nat) :=
  let remote := bit (field e 0x20 1) 0
  [must (field e 0x20 1 < 2) 0x20, zero e 0x21 1, must (field e 0x22 2 / 2 ^ 14 == 0) 0x23,
    must (remote || v.hasObj (field e 0x22 2 % 2 ^ 14)) 0x22, must (remote || field e 0x24 2 == 0) 0x24, zero e 0x26 218]

/-- FLUSH (R379), FENCE (R380), PREFETCH_XLAT and ADVISE (R381). -/
def flushFaults (segs : Tbl Segment) (e : List Byte) : List (Bool × Nat) :=
  let fl := field e 0x20 1
  let n := field e 0x30 8
  [must (decide (fl < 8) && fl % 4 != 0) 0x20, zero e 0x21 7, zero e 0x38 200] ++
  (if bit fl 1 then [must (n == 0 || inSlots segs (fun _ => true) (field e 0x28 8) n) 0x28] else [zero e 0x28 8, zero e 0x30 8])

def fenceFaults (e : List Byte) : List (Bool × Nat) := [must (field e 0x20 1 < 2) 0x20, zero e 0x21 223]

def prefetchFaults (e : List Byte) : List (Bool × Nat) :=
  let a := field e 0x20 8
  let n := field e 0x28 4
  [must (isHostVa a && a % 4096 == 0 && decide (a + 4096 * n ≤ 2 ^ 64)) 0x20, must (decide (1 ≤ n) && decide (n ≤ 262144)) 0x28,
    must (field e 0x2C 1 < 4) 0x2C, zero e 0x2D 211]

def State.adviseFaults (s : State) (segs : Tbl Segment) (e : List Byte) : List (Bool × Nat) :=
  let a := field e 0x20 8
  let n := field e 0x28 8
  let code := field e 0x30 1
  let d := field e 0x38 8
  [must (inReach segs (fun _ => true) a n) 0x20, must (code < 2 || a % 2 ^ 21 == 0) 0x20, must (code < 2 || n % 2 ^ 21 == 0) 0x28,
    must (code < 4) 0x30, zero e 0x31 7,
    must (if code = 2 then !isHostVa a || inSlots segs (fun g => g.device == s.fab.self) d n else d == 0) 0x38, zero e 0x40 192]

/-- The body's offences of a work entry; none stands for an unknown opcode (R374). -/
def State.workFaults (s : State) (v : Vein) (segs : Tbl Segment) (e : List Byte) : Option (List (Bool × Nat)) :=
  match field e 1 1 with
  | 0x00 | 0x20 => some [zero e 0x20 224]
  | 0x01 => some (s.launchFaults v segs e)
  | 0x02 => some (copyFaults segs e)
  | 0x03 => some (inlineFaults segs e)
  | 0x04 => some (fillFaults segs e)
  | 0x05 => some (s.micaFaults segs e)
  | 0x08 => some (s.signalFaults v segs e)
  | 0x09 => some (waitFaults v segs e)
  | 0x0A => some (arriveFaults v e)
  | 0x10 => some (flushFaults segs e)
  | 0x11 => some (fenceFaults e)
  | 0x18 => some (prefetchFaults e)
  | 0x19 => some (s.adviseFaults segs e)
  | _ => none

/-- The body of a well-formed work entry. -/
def workBody (e : List Byte) : WorkBody :=
  let f (o n : Nat) : Nat := field e o n
  let dev (remote : Bool) : Option Nat := if remote then some (f 0x24 2) else none
  match f 1 1 with
  | 0x01 => .launch (launchBody e)
  | 0x02 => .copy (f 0x20 8) (f 0x28 8) (f 0x30 8) (stashOf (f 0x38 2))
  | 0x03 => .copyInline (f 0x20 8) ((e.drop 0x40).take (f 0x28 2)) (stashOf (f 0x2A 2))
  | 0x04 => .fill (f 0x20 8) (f 0x28 8) ((e.drop 0x30).take 8)
  | 0x05 => .mica (parseMica ((e.drop 0x20).take 64))
  | 0x08 =>
    let obj := f 0x22 2 % 2 ^ 14
    match f 0x20 1 with
    | 0 => .signalAdd (dev (bit (f 0x21 1) 0)) obj (f 0x28 8)
    | 1 => .signalSub (dev (bit (f 0x21 1) 0)) obj (f 0x28 8)
    | 2 => .signalConfigure obj (configBody e)
    | _ => .signalFree obj
  | 0x09 =>
    match f 0x20 1 with
    | 0 => .waitObject (f 0x22 2) (condOf (f 0x21 1) (f 0x24 4))
    | 1 => .waitObject (f 0x22 2) (.phaseNot (bit (f 0x24 4) 0))
    | _ => .waitWord (f 0x28 8)
  | 0x0A => .barrierArrive (dev (bit (f 0x20 1) 0)) (f 0x22 2 % 2 ^ 14)
  | 0x10 => .flush (bit (f 0x20 1) 0) (bit (f 0x20 1) 1) (bit (f 0x20 1) 2) (f 0x28 8) (f 0x30 8)
  | 0x11 => .fence (bit (f 0x20 1) 0)
  | 0x18 => .prefetchXlat (f 0x20 8) (f 0x28 4) (bit (f 0x2C 1) 0) (bit (f 0x2C 1) 1)
  | 0x19 =>
    match f 0x30 1 with
    | 0 => .adviseWillNeed (f 0x20 8) (f 0x28 8)
    | 1 => .adviseWillNotNeed (f 0x20 8) (f 0x28 8)
    | 2 => .preferDevice (f 0x20 8) (f 0x28 8) (f 0x38 8)
    | _ => .preferHost (f 0x20 8) (f 0x28 8)
  | 0x20 => .timestamp
  | _ => .nop

/-! ## Admin commands (R382, R383) -/

/-- The offences of a segment descriptor (R264), relative to the entry. -/
def State.segmentFaults (s : State) (e : List Byte) : List (Bool × Nat) :=
  let vbase := field e 0x28 8
  let plocal := field e 0x30 8 % 2 ^ 40
  let dev := field e 0x36 2
  let n := field e 0x38 4
  let policy := field e 0x3D 1
  let attr := field e 0x3E 1
  let mine := dev == s.fab.self
  let g0 := granOf plocal
  let last := if n = 0 then g0 else g0 + (n - 1) * (if bit attr 3 then 8 else 1)
  let exists' := n == 0 || (decide (last < 2 ^ 19) && (if bit attr 3 then s.present (g0 % 8)
    else (List.range (Nat.min n 8)).all (fun i => s.present ((g0 + i) % 8))))
  [must (vbase % 2 ^ 21 == 0 && !isHostVa vbase) 0x28, must (plocal % 2 ^ 21 == 0) 0x30, must (field e 0x35 1 == 0) 0x35,
    must (decide (n ≤ 524288)) 0x38, must (field e 0x3C 1 < 8) 0x3C, must (policy % 4 < 2 && decide (policy < 16)) 0x3D,
    must (decide (attr < 16)) 0x3E, zero e 0x3F 9, must (!mine || decide (vbase + n * 2 ^ 21 ≤ 2 ^ 63)) 0x28, must (!mine || exists') 0x30,
    must (!(bit attr 1 && bit attr 0)) 0x3E, must (!(bit attr 1 && policy / 4 == 0)) 0x3D,
    must (mine || decide (last < 2 ^ 19)) 0x30, must (mine || !bit attr 1) 0x30]

def segmentOf (e : List Byte) : Segment :=
  let rights := field e 0x3C 1
  let policy := field e 0x3D 1
  let attr := field e 0x3E 1
  ⟨field e 0x28 8, field e 0x36 2, field e 0x30 8 % 2 ^ 40, field e 0x38 4, bit rights 0, bit rights 1, bit rights 2, policy % 4 == 1,
    bits policy 2 2, bit attr 0, bit attr 1, bit attr 2, bit attr 3⟩

/-- The body's offences of an admin entry; none stands for an unknown opcode. -/
def State.adminFaults (s : State) (e : List Byte) : Option (List (Bool × Nat)) :=
  let n12 (o : Nat) : Bool × Nat := must (decide (field e o 2 < 4096)) o
  let space (bytes align : Nat) : List (Bool × Nat) :=
    [must (field e 0x20 1 < 2) 0x20, must (field e 0x28 8 % align == 0 && (field e 0x20 1 != 0 || decide (field e 0x28 8 + bytes ≤ 2 ^ 40))) 0x28]
  match field e 1 1 with
  | 0x00 | 0x20 | 0x95 => some [zero e 0x20 224]
  | 0x80 => some [n12 0x20, n12 0x22, must (decide (4 ≤ field e 0x24 1) && decide (field e 0x24 1 ≤ 16)) 0x24, must (field e 0x25 1 < 8) 0x25,
      must (bits (field e 0x26 2) 11 4 == 0) 0x27, must (field e 0x35 3 == 0) 0x35, zero e 0x38 200]
  | 0x81 | 0x83 => some [n12 0x20, zero e 0x22 222]
  | 0x82 => some [n12 0x20, must (match s.queue? (field e 0x20 2) with
      | some q => decide (field e 0x22 2 < 2 ^ q.log2)
      | none => true) 0x22, zero e 0x24 220]
  | 0x88 => some [n12 0x20, must (field e 0x22 1 < 32) 0x22, zero e 0x23 1, must (field e 0x24 4 < 2 ^ 20) 0x26, zero e 0x28 216]
  | 0x89 => some [n12 0x20, zero e 0x22 222]
  | 0x8A => some [n12 0x20, zero e 0x22 6, must (field e 0x28 8 % 64 == 0) 0x28, zero e 0x30 208]
  | 0x8B => some ([n12 0x20, must (field e 0x22 1 < 16) 0x22, zero e 0x23 5, zero e 0x48 184] ++ s.segmentFaults e)
  | 0x90 => some (space (field e 0x30 4) 8 ++ [zero e 0x23 5, zero e 0x34 204])
  | 0x91 => some [zero e 0x22 222]
  | 0x92 => some [must (field e 0x20 1 < 2) 0x20, zero e 0x21 223]
  | 0x93 => some (space (2 ^ 20) 64 ++ [zero e 0x21 7, zero e 0x30 208])
  | 0x94 => some [zero e 0x22 222]
  | _ => none

/-- The body of a well-formed admin entry. -/
def adminBody (e : List Byte) : AdminBody :=
  let f (o n : Nat) : Nat := field e o n
  match f 1 1 with
  | 0x20 => .timestamp
  | 0x80 => .createQueue (f 0x20 2) (f 0x22 2) (f 0x24 1) (f 0x25 1) (f 0x26 2 % 2 ^ 11) (bit (f 0x26 2) 15) (f 0x28 8) (f 0x30 5)
  | 0x81 => .destroyQueue (f 0x20 2)
  | 0x82 => .resetQueue (f 0x20 2) (f 0x22 2)
  | 0x83 => .abortQueue (f 0x20 2)
  | 0x88 => .createContext (f 0x20 2) (f 0x22 1) (f 0x24 4)
  | 0x89 => .destroyContext (f 0x20 2)
  | 0x8A => .evictContext (f 0x20 2) (f 0x28 8)
  | 0x8B => .setSegment (f 0x20 2) (f 0x22 1) (segmentOf e)
  | 0x90 => .loadStrata (f 0x20 1) (f 0x21 1) (f 0x22 1) (f 0x28 8) (f 0x30 4)
  | 0x91 => .setPowerCap (f 0x20 2)
  | 0x92 => .selfTest (f 0x20 1)
  | 0x93 => .dumpSyncState (f 0x20 1) (f 0x28 8)
  | 0x94 => .assignDeviceNumber (f 0x20 2)
  | 0x95 => .sleep
  | _ => .nop

/-- What makes an entry malformed: the lowest offending offset (R388). -/
def State.malformedAt (s : State) (v : Option Vein) (segs : Tbl Segment) (e : List Byte) : Option Nat :=
  let body := match v with
    | some v => s.workFaults v segs e
    | none => s.adminFaults e
  lowest (headerFaults v e ++ (match body with
    | some l => l
    | none => [(true, 1)]))

end Sys2Proof.Machine
end

