-- ==== Sys2Proof/Machine/Caches.lean ====
section
/-! DEFINITION. Cache fills, clean offers, enable controls and way spares (R223 to R247). -/

namespace Sys2Proof.Machine

/-! ## Room in a tile's data cache (R223, R224, R232) -/

/-- A dirty line leaves: its sector goes to its home on ORD, and the task counts the write (R232, R323). -/
def State.sendWriteBack (s : State) (t sector : Nat) : State :=
  let bs := s.readLatest (128 * sector) 128
  let p := (List.range 16).filter (fun i => s.latestPoison (16 * sector + i))
  let x := s.tile t
  let s' := s.sendPkt (.tile t) none (.writeBack sector (memWrite [] 0 bs) p) x.task
  (s'.modTile t (fun x => x.cleanSector (s.lineSize t) sector)).noteTile t false x.pc (128 * sector) (idsBetween s s')

/-- A line leaves a tile's cache (R232): dirty, written back; clean device data, offered; host data, dropped. -/
def State.evictLine (s : State) (t : Nat) (l : CacheLine) : State :=
  let sector := l.line * s.lineSize t / 128
  let s := if l.host then s
    else if l.dirty then s.sendWriteBack t sector
    else s.sendPkt (.tile t) none (.offer sector) none
  s.modTile t (fun x => { x with dcache := x.dcache.filter (fun y => !(y.host == l.host && y.line == l.line)) })

/-- The lines of a set. -/
def State.setLines (s : State) (t set : Nat) : List CacheLine := (s.tile t).dcache.filter (fun l => s.lineSet t l.line == set)

/-- The way that a line takes: that of its unit, an invalid one, or that of the pseudo-LRU victim (R224). -/
def State.wayFor (s : State) (t : Nat) (host : Bool) (line : Nat) : Nat :=
  let k := s.lineSet t line
  let ls := s.setLines t k
  let ways := (s.cacheShape t).1
  match ls.find? (fun y => y.host == host && y.line * s.lineSize t / s.unitSize t == line * s.lineSize t / s.unitSize t) with
  | some y => y.way
  | none =>
    match (List.range ways).find? (fun w => ls.all (fun y => y.way != w)) with
    | some w => w
    | none => plruVictim ways (tblGet 0 (s.tile t).plru k)

/-- The unit of a way leaves; its lines are read first, with what parity finds there (R233). -/
def State.evictWay (s : State) (t : Nat) (l : CacheLine) (par : CacheParity) : State :=
  let r := s.parityCheck t l par
  (r.1.setLines t (s.lineSet t l.line)).foldl (fun s y => if y.way = l.way then s.evictLine t y else s) r.1

/-- A line is installed; the way's unit that it displaces leaves first. -/
def State.installLine (s : State) (t : Nat) (l : CacheLine) (par : CacheParity) : State :=
  let l := { l with way := s.wayFor t l.host l.line }
  let same (y : CacheLine) : Bool := y.host == l.host && y.line == l.line
  let s := match (s.setLines t (s.lineSet t l.line)).filter (fun y => y.way == l.way && !s.wayOf t l y) with
    | [] => s
    | v :: vs => s.evictWay t (((v :: vs).find? (fun (y : CacheLine) => y.dirty)).getD v) par
  (s.modTile t (fun x => { x with dcache := x.dcache.filter (fun y => !same y) ++ [l] })).touchLine t l

/-- A device line is installed with the latest data of its home, unless the home has given the sector to another agent, or taken it
back, by now (R307). -/
def State.installDevice (s : State) (t line : Nat) (par : CacheParity) : State :=
  let size := s.lineSize t
  let a := line * size
  let sector := a / 128
  let st := s.sectSt sector
  let mine := decide (st = .m t)
  let held := decide (st = .s) && setHas (s.dirEntry a).presence t
  if !(mine || held) then s
  else
    let bytes := memWrite [] 0 (s.readLatest a size)
    let p := (List.range (size / 8)).filter (fun i => s.latestPoison (a / 8 + i))
    s.installLine t ⟨false, line, false, bytes, p, 0, none⟩ par

/-! ## The host-line filter (R313) -/

/-- The 16-way set of a 512 B host block among 65,536 entries. -/
def filterSet (b : Nat) : Nat := b % 4096

/-- An entry of the filter goes: its tiles' copies are invalidated and each line is given up with CleanEvictNoData. -/
def State.evictFilter (s : State) (b : Nat) : State :=
  let ts := tblGet [] s.host.filter b
  let held := (ts.map (fun t => ((s.tile t).dcache.filter (fun l => l.host && l.line * s.lineSize t / 512 == b)).map
    (fun l => l.line * s.lineSize t / 64))).flatten.eraseDups
  let lines := if ts.all (fun t => s.lineSize t == 64) then held else (held.map (fun l => [l, l + 1])).flatten
  let s := ts.foldl (fun s t => s.modTile t (fun x => { x with
    dcache := x.dcache.filter (fun l => !(l.host && l.line * s.lineSize t / 512 == b)) })) s
  let s := { s with host := { s.host with filter := tblDel s.host.filter b } }
  lines.foldl (fun s l => s.sendEvict (64 * l)) s

/-- A tile's fill of a host line allocates its filter entry. -/
def State.addFilter (s : State) (t b : Nat) : State :=
  let s := if (tblFind s.host.filter b).isSome then s
    else
      let set := s.host.filter.filter (fun e => filterSet e.1 == filterSet b)
      if set.length < 16 then s else s.used.evictFilter (nth (0, []) set (s.openNat % set.length)).1
  { s with host := { s.host with filter := tblPut s.host.filter b (setIns (tblGet [] s.host.filter b) t) } }

/-- A host line is installed as a clean copy. -/
def State.installHost (s : State) (t line : Nat) (bs : List Byte) (pois : Bool) (origin : Option (Nat × Nat)) (par : CacheParity) :
    State :=
  let size := s.lineSize t
  let s := s.addFilter t (line * size / 512)
  s.installLine t ⟨true, line, false, memWrite [] 0 (bs.take size), if pois then List.range (size / 8) else [], 0, origin⟩ par

/-! ## CACHE_FILL_DATA (R231) -/

/-- Responses and requests of a miss are taken. -/
def State.takeMiss (s : State) (t : Nat) (m : Miss) : State :=
  let mine (i : Nat) : Bool := decide (m.id ≤ i) && decide (i < m.id + m.count)
  { (s.modTile t (fun x => { x with miss := none })) with
    rsps := s.rsps.filter (fun e => !mine e.1)
    host := { s.host with up := s.host.up.filter (fun e => !mine e.1) } }

/-- The load that awaits a miss is given up. -/
def State.dropLoad (s : State) (t : Nat) (m : Miss) : State :=
  match m.load with
  | some (id, _) => s.modTile t (fun x => { x with pend := x.pend.filter (fun p => p.id != id) })
  | none => s

/-- The instruction of a miss. -/
def Miss.pc (m : Miss) (x : Tile) : Nat :=
  match m.load.bind (fun l => x.pend.find? (fun p => p.id == l.1)) with
  | some p => p.pc
  | none => x.pc

/-- The load that awaited a fill gets its value where its lines are all here by now, and otherwise fetches the next that is not; a store is
merged into its lines once the tile owns them all (R231). -/
def State.filled (s : State) (t : Nat) (m : Miss) : State :=
  match m.load, m.store with
  | none, none => s
  | none, some (parts, bs, pois) =>
    match parts.find? (fun p => !s.ownsLine t p) with
    | some p => s.startMiss t p true false none m.store
    | none =>
      let s := (s.writeLines t parts bs pois).drainAll t
      match (s.tile t).task with
      | some k => s.settle k
      | none => s
  | some (id, ps), _ =>
    match (s.tile t).pend.find? (fun p => p.id == id) with
    | none => s
    | some op =>
      match ps.find? (fun p => (s.lineOf t p).isNone) with
      | some p => s.startMiss t p false true m.load none
      | none =>
        let v := (ps.map (s.lineBytes t)).flatten.zipIdx.map (fun b =>
          ((op.overlay.find? (fun o => o.1 == b.2)).map (·.2)).getD b.1)
        let s := (ps.filterMap (s.lineOf t)).foldl (fun s l => s.touchLine t l) s
        (s.deliver t op (extend op.size op.zx (leNat (v.map (·.1)))) (v.any (·.2)) true).drainAll t

/-- A miss of host lines: the bytes of its lines in order, or the failure of its read (R275, R411). -/
def State.fillHost (s : State) (t : Nat) (m : Miss) (h : HostData) (par : CacheParity) : State :=
  let size := s.lineSize t
  let n := size * m.lines.length
  let pa := (m.lines.headD 0) / 2 * size
  let pc := m.pc (s.tile t)
  let r := (s.takeMiss t m).hostFailed t m.va (.host pa false) h pc
  if !r.2 then r.1.dropLoad t m
  else
    let bs := match h with
      | .data bs _ => bs ++ r.1.openBytes (n - bs.length)
      | _ => r.1.openBytes n
    let pois := match h with
      | .data _ p => p
      | _ => true
    let s := { r.1 with free := r.1.free + n }
    (m.lines.zipIdx.foldl (fun s l => s.installHost t (l.1 / 2) ((bs.drop (l.2 * size)).take size) pois
      (some (s.pasidOf ((s.tile t).context.getD 0), hostAddr m.va / size * size + l.2 * size)) par) s).filled t m

/-- A miss of device lines: every response has come; a refused one stops the grid (R260). -/
def State.fillDevice (s : State) (t : Nat) (m : Miss) (par : CacheParity) : State :=
  let rs := (List.range m.count).map (fun i => tblFind s.rsps (m.id + i))
  if rs.any (·.isNone) then s
  else
    let pc := m.pc (s.tile t)
    let s := s.takeMiss t m
    match (rs.filterMap (fun r => r)).find? (fun r => decide (r.st ≠ .ok)) with
    | some r => (s.dropLoad t m).tileFailed t r pc
    | none => (m.lines.foldl (fun s l => s.installDevice t (l / 2) par) s).filled t m

/-- `parity`: what the cache found on a line that the fill displaces. -/
def execCacheFillData (t : Nat) (host : HostData) (parity : CacheParity) (s : State) : Host.Outcome State Fault Refusal :=
  .next (match (s.tile t).miss with
    | none => s
    | some m =>
      if m.lines.any (fun l => l % 2 == 1) then
        if (List.range m.count).all (fun i => (tblFind s.host.up (m.id + i)).any (·.sent)) && !(s.host.timeoutOff && decide (host = .timedOut)) then (s.fillHost t m host parity).flushUp else s
      else s.fillDevice t m parity)

/-! ## ICACHE_FILL (R131, R239) -/

/-- Lines of an instruction-cache set: 128 sets of 4 ways. -/
def Tile.icacheSet (x : Tile) (line : Nat) : List CacheLine := x.icache.filter (fun l => l.line % 128 == line % 128)

/-- A line of code enters the instruction cache with the bytes and marks that memory gave; an invalid way goes first, else the
pseudo-LRU victim (R239, R240). -/
def Tile.installCode (x : Tile) (line : Nat) (bs : Mem) (p : NSet) : Tile :=
  let k := line % 128
  let set := x.icacheSet line
  let way := ((List.range 4).find? (fun w => set.all (fun y => y.way != w))).getD (plruVictim 4 (tblGet 0 x.iplru k))
  { x with
    icache := x.icache.filter (fun y => !(y.line % 128 == k && y.way == way)) ++ [⟨false, line, false, bs, p, way, none⟩]
    iplru := tblPut x.iplru k (plruTouch 4 (tblGet 0 x.iplru k) way) }

/-- A parity error of a line: it is invalidated, and fetched again by this fill (R239). -/
def State.codeParity (s : State) (t line : Nat) : State :=
  let x := s.tile t
  (s.log .cacheParity .masked (quarryOf t) x.vein t (ctxNo x.context) 0 (line * 128) 3).modTile t (fun x =>
    { x with icache := x.icache.filter (fun l => l.line != line) })

/-- The line that holds an address fills from its home, with the poison marks of its words. `parityBad`: the
line was there and its parity is wrong. -/
def execIcacheFill (t va : Nat) (parityBad : Bool) (f : DramFinding) (s : State) : Host.Outcome State Fault Refusal :=
  let line := va / 128
  let found := (s.tile t).icache.any (fun l => l.line == line)
  let s := if parityBad && found && (s.tile t).ictl.enabled then s.codeParity t line else s
  let x := s.tile t
  .next (if s.sourcesHeld || !(decide (x.role = .mapped) && x.task.isSome && x.ictl.enabled) || x.icache.any (fun l => l.line == line) then s
    else match s.fetchWord t (va / 4 * 4), findSeg x.segs va with
      | .good, some g | .poison, some g =>
        let a := g.local' (line * 128)
        -- code on another device is never cached (R268)
        if g.device ≠ s.fab.self then s
        else
          let s := s.bulkFound [(a, 128)] f
          let p := (List.range 16).filter (fun i => s.latestPoison (a / 8 + i))
          let bs := memWrite [] 0 (s.readLatest a 128)
          (s.modTile t (fun x => x.installCode line bs p)).qcTouch (s.qcUseOf x.vein x.context a false) a 128
      | _, _ => s)

/-! ## CLEAN_OFFER (R232, R245) -/

/-- An offered clean line reaches its home, which takes it where fewer than 24 entries of the slice's insertion queue are
occupied and its set has a way for the tile's vein. -/
def execCleanOffer (t sector : Nat) (s : State) : Host.Outcome State Fault Refusal :=
  .next (match s.pkts.find? (fun e => decide (e.2.src = .tile t) && decide (e.2.req = .offer sector)) with
    | none => s
    | some e =>
      let s := { s with pkts := tblDel s.pkts e.1 }.qcInsert (s.qcSlice sector)
      let vein := (s.tile t).vein
      if s.qcQueued (s.qcSlice sector) < 24 && s.qcRoom vein sector then s.qcTouch (some ⟨vein, false, false⟩) (128 * sector) 128 else s)

/-! ## Enable controls (R235 to R237) -/

/-- The row of R235, and the physical tile or engine that a NOT_INVALIDATED entry names (R504). -/
def CacheRef_row : CacheRef → Nat × Nat × Nat
  | .tileData t => (0, quarryOf t, t)
  | .tileInstr t => (1, quarryOf t, t)
  | .copyEngine q e => (2, q, e)
  | .quarryCache q => (3, q, 0)
  | .quartzInstr _ | .quartzData _ => (4, noQuarry, 0)
  | .sequencer c => (5, c / 4, 0)

/-- The control of an ordinary cache. -/
def State.cacheCtl (s : State) : CacheRef → Option CacheCtl
  | .tileData t => some (s.tile t).dctl
  | .tileInstr t => some (s.tile t).ictl
  | .copyEngine q e => some (tblGet {} s.blk.engineCtl (q * 8 + e))
  | .quarryCache q => some (tblGet {} s.qc.ctl q)
  | .quartzInstr _ | .quartzData _ | .sequencer _ => none

def State.setCacheCtl (s : State) (c : CacheRef) (k : CacheCtl) : State :=
  match c with
  | .tileData t => s.modTile t (fun x => { x with dctl := k })
  | .tileInstr t => s.modTile t (fun x => { x with ictl := k })
  | .copyEngine q e => { s with blk := { s.blk with engineCtl := tblPut s.blk.engineCtl (q * 8 + e) k } }
  | .quarryCache q => { s with qc := { s.qc with ctl := tblPut s.qc.ctl q k } }
  | .quartzInstr _ | .quartzData _ | .sequencer _ => s

/-- The number of a privileged cache (R237). -/
def privNo : CacheRef → Option Nat
  | .quartzInstr c => some (2 * c)
  | .quartzData c => some (2 * c + 1)
  | .sequencer c => some (1024 + c)
  | _ => none

/-- Dirty data leaves an ordinary cache, where the parity of a tile's allows it (R233, R238). -/
def State.cacheClean (s : State) (par : CacheParity) : CacheRef → State × Bool
  | .tileData t => s.flushRead t par
  | .quarryCache q => ({ s with qc := { s.qc with lines := s.qc.lines.map (fun e =>
      if s.stackOf (e.1 * 128) = q then (e.1, { e.2 with dirty := false }) else e) } }, true)
  | _ => (s, true)

/-- Every line of a cache is invalidated. -/
def State.cacheEmpty (s : State) : CacheRef → State
  | .tileData t => s.disposeCache t
  | .tileInstr t => s.modTile t (fun x => { x with icache := [] })
  | .quarryCache q => { s with qc := { s.qc with lines := s.qc.lines.filter (fun e => s.stackOf (e.1 * 128) != q) } }
  | .copyEngine q e => { s with tasks := s.tasks.map (fun x => if x.2.engine = some (q, e) then (x.1, { x.2 with srcLines := [] }) else x) }
  | _ => s

/-- A sequencer's entry cache is disabled: its lines stay as memory has them now (R237). -/
def State.keepEntries (s : State) (c : CacheRef) : State :=
  match c with
  | .sequencer n =>
    let ls := (tblGet [] s.blk.entryCache n).map (fun (l : EntryLine) =>
      if l.seen.isSome then l else { l with bytes := s.readLatest (128 * l.line) 128, seen := some [] })
    { s with blk := { s.blk with entryCache := tblPut s.blk.entryCache n ls } }
  | _ => s

/-- It is enabled with the lines that it kept: they hit until memory changes again (R237). -/
def State.wakeEntries (s : State) (c : CacheRef) : State :=
  match c with
  | .sequencer n =>
    let ls := (tblGet [] s.blk.entryCache n).map (fun (l : EntryLine) => { l with seen := some (s.readLatest (128 * l.line) 128) })
    { s with blk := { s.blk with entryCache := tblPut s.blk.entryCache n ls } }
  | _ => s

def State.emptyEntries (s : State) (c : CacheRef) : State :=
  match c with
  | .sequencer n => { s with blk := { s.blk with entryCache := tblDel s.blk.entryCache n } }
  | _ => s

/-- R235 to R237. -/
def execCacheEnable (c : CacheRef) (s : State) : Host.Outcome State Fault Refusal :=
  .next (match s.cacheCtl c, privNo c with
    | some k, _ =>
      if k.enabled then s
      else if k.invalidated then s.setCacheCtl c { k with enabled := true }
      else
        let r := CacheRef_row c
        s.log .notInvalidated .notice r.2.1 noVein r.1 noCtx 0 r.2.2 0
    | none, some n =>
      if setHas s.blk.privOff n then { s.wakeEntries c with blk := { (s.wakeEntries c).blk with privOff := setDel s.blk.privOff n } } else s
    | none, none => s)

def execCacheDisable (c : CacheRef) (par : CacheParity) (s : State) : Host.Outcome State Fault Refusal :=
  .next (match s.cacheCtl c, privNo c with
    | some k, _ =>
      if k.enabled then
        let r := s.cacheClean par c
        if r.2 then r.1.setCacheCtl c ⟨false, false⟩ else r.1
      else s
    | none, some n =>
      if setHas s.blk.privOff n then s
      else
        let s := s.keepEntries c
        { s with blk := { s.blk with privOff := setIns s.blk.privOff n, privStale := setIns s.blk.privStale n } }
    | none, none => s)

/-- An invalidate-all finishes. One that runs while the cache is enabled writes dirty data back first. -/
def execCacheInvalidateAll (c : CacheRef) (par : CacheParity) (s : State) : Host.Outcome State Fault Refusal :=
  .next (match s.cacheCtl c, privNo c with
    | some k, _ =>
      let r := s.cacheClean par c
      if r.2 then (r.1.cacheEmpty c).setCacheCtl c { k with invalidated := true } else r.1
    | none, some n =>
      let s := s.emptyEntries c
      { s with blk := { s.blk with privStale := setDel s.blk.privStale n } }
    | none, none => s)

/-! ## Quarry-cache errors and way spares (R246, R490) -/

/-- Reservations homed in a slice break (R302). -/
def State.breakSlice (s : State) (q slice : Nat) : State :=
  (s.homes.resv.filter (fun r => s.stackOf (64 * r.granule) == q && sliceOf (s.stackOffset (64 * r.granule / 512 * 512)) == slice)).foldl
    (fun s r => s.breakReservations (64 * r.granule) 1 none) s

/-- A directory slice has lost a way: each full set evicts one entry (R307, R490). -/
def State.shrinkDir (s : State) (q slice : Nat) : State :=
  (List.range 256).foldl (fun s i =>
    let set := s.homes.dir.filter (fun e => decide (s.dirKey (512 * e.1) = (q, slice, i)))
    if set.length < 12 then s
    else match dirVictim set s.openNat with
      | some v => if setHas (tblGet {} s.homes.dir v).presence 416 then s.recallBlock v else s.used.evictBlock v
      | none => s) s

/-- A way of a slice is disabled: its lines move to free shared ways, and one that finds none leaves, its data written back; a line in
a way that takes pinned storage leaves with it (R490). -/
def State.disableWay (s : State) (q slice way : Nat) : State :=
  let s := { s with qc := { s.qc with lost := setIns s.qc.lost ((q * 64 + slice) * 32 + way) } }
  let mine := s.qc.lines.filter (fun e => (s.qcPlace e.1).1 == q && (s.qcPlace e.1).2.1 == slice)
  let out (e : Nat × QcLine) : Bool := match s.qcWay q slice (s.qcPlace e.1).2.2 e.2.way with
    | .disabled | .pinned => true
    | _ => false
  (mine.filter out).foldl (fun s e =>
    let k := s.qcPlace e.1
    let s := { s with qc := { s.qc with lines := tblDel s.qc.lines e.1 } }
    let free := (List.range 16).find? (fun w => decide (s.qcWay q slice k.2.2 w = .shared) &&
      s.qc.lines.all (fun y => !(decide (s.qcPlace y.1 = k) && y.2.way == w)))
    match free with
    | some w => { s with qc := { s.qc with lines := tblPut s.qc.lines e.1 { e.2 with way := w } } }
    | none => s) s

/-- A worn way is replaced by its slice's spare way, or disabled where that is used up. -/
def execWaySpareSwap (quarry slice way : Nat) (directory : Bool) (s : State) : Host.Outcome State Fault Refusal :=
  let n := quarry * 64 + slice
  let key := n * 32 + way
  .next (if directory then
      if !setHas s.homes.dirWorn key then s
      else
        let s := (s.breakSlice quarry slice)
        let s := { s with homes := { s.homes with dirWorn := setDel s.homes.dirWorn key, dirErrors := tblDel s.homes.dirErrors key } }
        if setHas s.homes.dirSpared n then
          let s := ({ s with homes := { s.homes with dirLost := setIns s.homes.dirLost n } }.shrinkDir quarry slice).capacityBit 16
          s.log .waySpare .notice quarry noVein slice noCtx 0 way (1 + 256)
        else
          let s := { s with homes := { s.homes with dirSpared := setIns s.homes.dirSpared n } }
          (s.log .waySpare .notice quarry noVein slice noCtx 0 way 1).spareExhausted 7 quarry 12
    else if !setHas s.qc.worn key then s
    else
      let s := s.breakSlice quarry slice
      let s := { s with qc := { s.qc with worn := setDel s.qc.worn key, errors := tblDel s.qc.errors key } }
      if setHas s.qc.spared n then
        let s := (s.disableWay quarry slice way).capacityBit 16
        s.log .waySpare .notice quarry noVein slice noCtx 0 way 256
      else
        let s := { s with qc := { s.qc with spared := setIns s.qc.spared n } }
        (s.log .waySpare .notice quarry noVein slice noCtx 0 way 0).spareExhausted 6 quarry 16)

end Sys2Proof.Machine
end

