-- ==== Sys2Proof/Machine/Homes.lean ====
section
/-! DEFINITION. The homes (R292, R300 to R324): requests with their checks and snoops, write-backs, reservations and their progress
locks, snoops at the agents, the host as a member, stash writes. A HOME command serves the packet with its number: where agents
must be snooped first the transaction begins, and the last answer applies the request. -/

namespace Sys2Proof.Machine

/-! ## Requests -/

/-- The bytes that a request names. -/
def Req.range : Req → Option (Nat × Nat)
  | .read a n _ | .readOwn a n => some (a, n)
  | .write a bs _ _ => some (a, bs.length)
  | .lr a w | .sc a w _ _ | .amo a w _ _ _ _ => some (a, if w then 8 else 4)
  | .feFill a _ _ | .feTake a | .fePeek a _ => some (a, 8)
  | _ => none

/-- Requests that travel on ORD (R28). -/
def Req.onOrd : Req → Bool
  | .read _ _ _ | .readOwn _ _ | .lr _ _ | .feTake _ | .fePeek _ _ | .flintWait _ _ => false
  | _ => true

/-- Requests that may write (R303: these wait at a progress lock of another tile). -/
def Req.writes : Req → Bool
  | .write _ _ _ _ | .sc _ _ _ _ | .amo _ _ _ _ _ _ | .feFill _ _ _ => true
  | _ => false

/-- Requests that a progress lock of another tile holds back: those that may write, and the taking of ownership (R303). -/
def Req.locked : Req → Bool
  | .readOwn _ _ => true
  | r => r.writes

/-- A write with a stash hint. -/
def Req.stashes : Req → Bool
  | .write _ _ _ (some _) => true
  | _ => false

/-- The agent of the directory that sends a request (R306). -/
def Src.agent : Src → Option Nat
  | .tile t => some t
  | .hostMem => some 416
  | _ => none

/-- The agent whose own copies a packet leaves alone: none for a tensor move (R227). -/
def Packet.agent (p : Packet) : Option Nat := if p.mover then none else p.src.agent

/-- The tile that sends a request. -/
def Src.tile? : Src → Option Nat
  | .tile t => some t
  | _ => none

/-- The destination of a packet (R29): a home slice, a Flint slice, a tile. -/
def State.destOf (s : State) (r : Req) : Nat × Nat × Nat :=
  let slice (a : Nat) : Nat × Nat × Nat := (0, s.stackOf a, sliceOf (s.stackOffset (a / 512 * 512)))
  match r with
  | .writeBack x _ _ | .drop x | .offer x => slice (128 * x)
  | .stash _ t _ => (2, t, 0)
  | .flintAdd o _ | .flintSub o _ | .flintArrive o | .flintRelease o | .flintWait o _ => (1, o / 2048, 0)
  | r => match r.range with
    | some (a, _) => slice a
    | none => (3, 0, 0)

/-- Every destination of a packet: a range that spans several home slices has them all. -/
def State.destsOf (s : State) (r : Req) : List (Nat × Nat × Nat) :=
  match r.range with
  | some (a, n) => (List.range ((a + n - 1) / 512 + 1 - a / 512)).map (fun i => s.destOf (.drop ((a / 512 + i) * 4)))
  | none => [s.destOf r]

/-- The quarry of a destination. -/
def quarryOfDest (d : Nat × Nat × Nat) : Nat := if d.1 = 2 then quarryOf d.2.1 else d.2.1 % 8

/-- The quarry that a packet goes to. -/
def State.destQuarry (s : State) (r : Req) : Nat := quarryOfDest (s.destOf r)

/-- The packet is held with the links (R25), or an older ORD packet of the same source to the same destination has not arrived (R29); the host
port's requests wait until every posted write before them is globally observed (R340, R409), and a source stalls behind its packet that waits at
the fabric port (R437). An older write-back that finds the insertion queue of its slice full stalls ORD into the slice (R245). -/
def State.ordHeld (s : State) (id : Nat) (p : Packet) : Bool :=
  let ds := s.destsOf p.req
  let ls := match p.req.range with
    | some (a, n) => sectorsOf a n
    | none => []
  if ds.any (fun d => s.linkHeld id p.src (quarryOfDest d)) then true
  else if decide (p.src = .hostPort) then s.pkts.any (fun e => decide (e.1 < id) && decide (e.2.src = .hostPort) && e.2.req.onOrd)
  else p.req.onOrd && (s.stalled id p.src
    || s.pkts.any (fun e => decide (e.1 < id) && !e.2.begun && (match e.2.req with
      | .writeBack x _ _ => decide (32 ≤ s.qcQueued (s.qcSlice x)) && ls.any (fun l => s.qcSlice l == s.qcSlice x)
      | _ => false))
    || s.pkts.any (fun e => decide (e.1 < id) && decide (s.sender e.2.src = s.sender p.src) && e.2.req.onOrd && !e.2.begun
      && (s.destsOf e.2.req).any (fun d => ds.contains d)))

/-- The host's own write of a sector that it owns: its write-back (R312, R314). -/
def State.isHostBack (s : State) (p : Packet) (a n : Nat) : Bool :=
  decide (p.src = .hostMem) && p.req.writes && (sectorsOf a n).all s.hostOwns

/-- A conflicting transaction is in progress, unless this is the host's write-back crossing its snoop; or the requester's own
write-back is on its way, or another tile's progress lock holds the granule (R303, R308, R312). -/
def State.mustWait (s : State) (id : Nat) (p : Packet) (a n : Nat) : Bool :=
  let xs := sectorsOf a n
  (!s.isHostBack p a n && s.homes.txns.any (fun e => e.2.pkt != id && xs.contains e.2.sector))
    || xs.any (fun x => (s.wayBack x).isSome && decide (s.tileOwner x = p.src.tile?))
    || (p.req.locked && !s.isHostBack p a n && s.lockedFor p.src.tile? a n)

/-- A request's turn (R308): refused entry while the slice's queue is full, waiting in arrival order, or free to go. -/
inductive Turn where
  | stalled | waits | goes
deriving DecidableEq, Repr

/-- The packets of a slice's request queue, in arrival order. -/
def State.queued (s : State) (slice : Nat) : List Nat := (tblGet [] s.homes.queue slice).filter (fun i => (tblFind s.pkts i).isSome)

/-- The home slice of an address, whose request queue a packet joins (R305, R308). -/
def State.homeSlice (s : State) (a : Nat) : Nat := (s.dirKey a).1 * 64 + (s.dirKey a).2.1

/-- R308: a request waits while it conflicts with a transaction, or with one that waits before it. A write-back of the host is applied on
arrival, even while a transaction on the sector waits (R312). -/
def State.turnOf (s : State) (id : Nat) (p : Packet) (a n : Nat) : Turn :=
  let q := s.queued (s.homeSlice a)
  let inside := q.contains id
  let ahead := (q.takeWhile (fun i => i != id)).any (fun i => match (tblFind s.pkts i).bind (·.req.range) with
    | some (b, m) => (sectorsOf b m).any (fun x => (sectorsOf a n).contains x)
    | none => false)
  if s.isHostBack p a n then .goes
  else if !inside && decide (48 ≤ q.length) then .stalled
  else if s.mustWait id p a n || ahead then .waits
  else .goes

/-- A request enters its slice's queue, or leaves it. -/
def State.enqueue (s : State) (slice id : Nat) : State :=
  if (s.queued slice).contains id then s
  else { s with homes := { s.homes with queue := tblPut s.homes.queue slice (s.queued slice ++ [id]) } }
def State.unqueue (s : State) (slice id : Nat) : State :=
  let q := (s.queued slice).filter (fun i => i != id)
  { s with homes := { s.homes with queue := if q.isEmpty then tblDel s.homes.queue slice else tblPut s.homes.queue slice q } }

/-! ## Snoops that a request needs (R308) -/

/-- The agents that may hold a sector. -/
def State.holdersOf (s : State) (x : Nat) : NSet :=
  match s.sectSt x with
  | .i => []
  | .m o => [o]
  | .s => (s.dirEntry (x * 128)).presence

/-- An `sc` finds its reservation (R302). -/
def State.scHolds (s : State) (src : Src) (a : Nat) : Bool :=
  match src with
  | .tile t => s.homes.resv.any (fun r => r.tile == t && r.granule == a / 64)
  | _ => false

/-- The host holds no sector of a block any more: its presence bit goes (R306, R315). -/
def State.hostLeft (s : State) (sector : Nat) : State :=
  let e := s.dirEntry (128 * sector)
  if e.sectors.any (fun x => decide (x = .s) || decide (x = .m 416)) then s else s.dropHolder sector 416

/-- Sector by sector: the snoop and its agents. -/
def State.snoopsFor (s : State) (p : Packet) (a n : Nat) : List (Nat × Snoop × NSet) :=
  let own (x : Nat) : Option NSet := match s.sectSt x with
    | .m o => if decide (p.agent = some o) then none else some [o]
    | _ => none
  let others (x : Nat) : Option NSet :=
    let l := (s.holdersOf x).filter (fun h => decide (p.agent ≠ some h))
    if l.isEmpty then none else some l
  (sectorsOf a n).filterMap (fun x =>
    match p.req with
    | .read _ _ true => (own x).map (fun l => (x, Snoop.shr, l))
    | .read _ _ false | .feTake _ | .fePeek _ _ => (own x).map (fun l => (x, Snoop.cur, l))
    | .sc _ _ _ _ => if s.scHolds p.src a then (others x).map (fun l => (x, Snoop.inv, l)) else none
    | _ => (others x).map (fun l => (x, Snoop.inv, l)))

/-- The transaction of one sector begins; the host hears of its snoop by a back-invalidate (R314). -/
def State.beginTxn (s : State) (id x : Nat) (k : Snoop) (l : NSet) : State :=
  let n := s.nextId
  let s := { s with homes := { s.homes with txns := tblPut s.homes.txns n ⟨id, x, k, l, [], [], s.now⟩ } }.bump
  if l.contains 416 then s.sendBi n k else s

/-! ## Requests applied (R300, R302, R303, R308, R310) -/

/-- A response for a packet, which is done. -/
def State.answer (s : State) (id : Nat) (p : Packet) (r : Rsp) : State :=
  { s with pkts := tblDel s.pkts id }.respond id { r with dst := p.src, task := p.task, home := some (s.destQuarry p.req) }

/-- A good response. -/
def okRsp (data : List Byte) (poisoned : Bool) : Rsp := { dst := .quartz, task := none, st := .ok, data := data, poisoned := poisoned }

/-- The data of a read. -/
def State.readRsp (s : State) (a n : Nat) : Rsp :=
  { okRsp (s.readLatest a n) (s.readPoison a n) with marks := (wordsOf a n).map (fun w => s.latestPoison w), skew := a % 8 }

/-- `lr` records the tile's reservation, unless the tile broke it on the way; the oldest of a slice's 64 entries gives way, and a
tile whose `sc` failed 8 times in a row on the granule takes a lock (R302, R303). -/
def State.reserve (s : State) (t id a : Nat) : State :=
  let x := s.tile t
  if !x.pend.any (fun p => decide (p.kind = .reserve) && p.waits.any (fun w => w.1 == id)) then s
  else
    let g := a / 64
    let slice (g : Nat) : Nat × Nat × Nat := s.destOf (.drop (g / 2))
    let keep := s.homes.resv.filter (fun r => r.tile != t)
    let set := keep.filter (fun r => decide (slice r.granule = slice g))
    let old := if set.length < 64 then none else set.find? (fun r => !s.lockHolds r.tile r.granule)
    let keep := match old with
      | some o => keep.filter (fun r => decide (r ≠ o))
      | none => keep
    let s := match old with
      | some o => s.modTile o.tile (fun y => { y with reservation := none })
      | none => s
    let lock := decide (8 ≤ x.scFails) && x.scGranule == g && !s.homes.locks.any (fun l => l.1 == g)
    ({ s with homes := { s.homes with
        resv := keep ++ [(⟨t, g, s.nextId⟩ : Resv)]
        locks := if lock then s.homes.locks ++ [(g, t, s.now)] else s.homes.locks } }.bump).modTile t
      (fun y => { y with reservation := some (false, g * 64) })

/-- The vein for which a source's lines are allocated in the quarry cache (R243). -/
def State.veinOf (s : State) : Src → Nat
  | .tile t => (s.tile t).vein
  | .copy k | .sequencer k => ((s.task? k).map (·.vein)).getD noVein
  | .mica id => (((tblFind s.mica.cmds id).bind (fun c => s.ctx? c.context)).map (·.vein)).getD noVein
  | _ => noVein

/-- How a packet uses the quarry cache (R242, R243). -/
def State.pktUse (s : State) (p : Packet) (a : Nat) (dirty : Bool) : Option QcUse := s.qcUseOf (s.veinOf p.src) p.context a dirty

/-- The writer's own copy of a range goes before an atomic (R227, R308). -/
def State.applyWrite (s : State) (p : Packet) (a : Nat) (bs : List Byte) (pois : Bool) : State :=
  s.homeStoreBy none p.src.tile? a bs pois (s.pktUse p a true)

/-- `sc` at the home. -/
def State.applySc (s : State) (id : Nat) (p : Packet) (a size v : Nat) (pois : Bool) : State :=
  match p.src with
  | .tile t =>
    if s.scHolds p.src a then
      let s := ((s.applyWrite p a (leBytes size v) pois).clearReservation t).modTile t (fun x => { x with scFails := 0 })
      s.answer id p { okRsp [] false with flag := true, value := size }
    else (s.failSc t (a / 64)).answer id p { okRsp [] false with flag := false }
  | _ => s.answer id p (okRsp [] false)

/-- An atomic at the home: the old value is answered. -/
def State.applyAmo (s : State) (id : Nat) (p : Packet) (a size op cmp v : Nat) (pois : Bool) : State :=
  let data := s.readLatest a size
  let old := leNat data
  let bad := s.readPoison a size
  let hit := decide (op ≠ 2) || decide (old = cmp % 2 ^ (8 * size))
  let s := if hit then s.applyWrite p a (leBytes size (amoNew op size cmp v old)) (pois || (op == 0 && bad))
    else (sectorsOf a size).foldl (fun s x => s.invalidateSector x none) s
  s.answer id p { okRsp data bad with flag := hit, value := size }

/-- A write's bytes are applied; a put of another device carries P word by word (R434). -/
def State.applyBytes (s : State) (p : Packet) (a : Nat) (bs : List Byte) (pois : Bool) : State :=
  match p.src with
  | .fabric i =>
    let marks := match tblFind s.fab.inbound i with
      | some q => q.poison
      | none => []
    s.storeFlagged none a (bs.zipIdx.map (fun b => (b.1, nth false marks ((a + b.2) / 8 - a / 8)))) (s.pktUse p a true)
  | src => s.homeStoreBy (if p.mover then none else src.tile?) src.tile? a bs pois (s.pktUse p a true)

/-- A sector read by an allocating agent (R308). -/
def State.grantShared (s : State) (x agent : Nat) : State :=
  if decide (s.sectSt x = .m agent) then s else (s.downgrade x).addHolder x agent .s

/-- A sector given to an owner. -/
def State.grantOwned (s : State) (x agent : Nat) : State :=
  let s := if decide (s.sectSt x = .m agent) then s else s.invalidateSector x (if agent < 416 then some agent else none)
  s.addHolder x agent (.m agent)

/-- A memory request is applied at its home and answered. Full/empty requests are in FlintHome.lean. -/
def State.applyReq (s : State) (id : Nat) (p : Packet) : State :=
  match p.req with
  | .read a n alloc =>
    let s : State := match alloc, p.src.agent with
      | true, some g => (sectorsOf a n).foldl (fun (s : State) x => s.grantShared x g) s
      | _, _ => s
    let tile := match p.src with
      | .tile _ => true
      | _ => alloc
    (if tile then s.qcTouch (s.pktUse p a false) a n else s).answer id p (s.readRsp a n)
  | .readOwn a n =>
    match p.src.agent with
    | some g =>
      let s := ((sectorsOf a n).foldl (fun s x => s.grantOwned x g) s).qcTouch (s.pktUse p a false) a n
      s.answer id p (s.readRsp a n)
    | none => s.answer id p (s.readRsp a n)
  | .write a bs pois stash =>
    let s := (s.applyBytes p a bs pois).sendStash stash a bs.length
    (if decide (p.src = .hostMem) then (sectorsOf a bs.length).foldl State.hostLeft s else s).answer id p (okRsp [] false)
  | .lr a w =>
    let size := if w then 8 else 4
    let s := (sectorsOf a size).foldl (fun s x => s.invalidateSector x none) s
    let s := match p.src with
      | .tile t => s.reserve t id a
      | _ => s
    s.answer id p (s.readRsp a size)
  | .sc a w v pois => s.applySc id p a (if w then 8 else 4) v pois
  | .amo a w op cmp v pois => s.applyAmo id p a (if w then 8 else 4) op cmp v pois
  | _ => s

/-! ## Findings, refusals, absent stacks -/

/-- A refused request is logged and answered with an error (R260). -/
def Req.kindNo : Req → Nat
  | .read _ _ _ | .readOwn _ _ | .lr _ _ | .feTake _ | .fePeek _ _ => 0
  | .sc _ _ _ _ | .amo _ _ _ _ _ _ => 2
  | .flintAdd _ _ | .flintSub _ _ | .flintArrive _ | .flintRelease _ | .flintWait _ _ => 3
  | _ => 1

def State.refuseReq (s : State) (id : Nat) (p : Packet) (a : Nat) : State :=
  let s := s.logRefused p.src p.context a p.req.kindNo
  s.answer id p { okRsp [] false with st := .refused, value := s.fab.self * 2 ^ 48 + a, log := s.refusedSeq p.src a }

/-- A host-port access to a granule of an absent stack (R42). -/
def State.absentAccess (s : State) (id : Nat) (p : Packet) (a n : Nat) : State :=
  let s := s.log .dramUe .detected (granOf a % 8) (s.addrVein a) 0 noCtx 0 a 2
  if p.req.writes then s.answer id p (okRsp [] false)
  else
    let bs := s.openBytes n
    { s with free := s.free + n }.answer id p (okRsp bs true)

/-- What the checks at the home found (R246, R251, R257, R317): a directory entry that is lost takes its vein down. -/
def State.homeFound (s : State) (p : Packet) (a : Nat) (f : HomeFinding) : State :=
  let s := (s.qcFound a f.qcache).dramFound a f.dram f.words 0
  if (tblFind s.homes.dir (blockOf a)).isNone then s
  else
    let key := s.dirKey a
    let way := s.openNat % 12
    match f.directory with
    | .clean => s
    | .corrected => s.used.dirCorrected key.1 key.2.1 way
    | .uncorrectable =>
      let s := { s.used with homes := { s.homes with dirWorn := setIns s.homes.dirWorn ((key.1 * 64 + key.2.1) * 32 + way) } }
      match s.granVein (granOf a) with
      | some (v, _) => s.veinDown v 2 p.src.code
      | none =>
        let b := blockOf a
        [0, 1, 2, 3].foldl (fun s i => s.poisonSector (4 * b + i)) s

/-- Requests whose transactions have ended, though no answer applied them: step 4 of R318. -/
def State.completeWaiting (s : State) : State :=
  (s.pkts.filter (fun e => e.2.begun && e.2.req.range.isSome && !s.homes.txns.any (fun x => x.2.pkt == e.1))).foldl
    (fun s e => s.applyReq e.1 e.2) s

/-! ## HOME commands -/

/-- Transactions that wait for an agent's write-back of a sector go on (R312). -/
def State.crossed (s : State) (goOn : State → Nat → State) (x agent : Nat) : State :=
  let ns := (s.homes.txns.filter (fun e => e.2.sector == x && setHas e.2.crossing agent)).map (·.1)
  ns.foldl (fun s n => goOn { s with homes := { s.homes with txns := s.homes.txns.map (fun (e : Nat × Txn) =>
    if e.1 = n then (e.1, { e.2 with crossing := setDel e.2.crossing agent }) else e) } } n) s

/-- A transaction whose agents have all answered ends; the last one of a request applies it. -/
def State.goOn (s : State) (n : Nat) : State :=
  match tblFind s.homes.txns n with
  | none => s
  | some x =>
    if !(x.waiting.isEmpty && x.crossing.isEmpty) then s
    else
      let s := { s with homes := { s.homes with txns := tblDel s.homes.txns n } }
      if x.pkt = 0 || s.homes.txns.any (fun e => e.2.pkt == x.pkt) then s
      else match tblFind s.pkts x.pkt with
        | some p => s.applyReq x.pkt p
        | none => s

/-- A request arrives at its home: it waits its turn, is checked, and is applied at once or after its snoops. -/
def State.serve (s : State) (id : Nat) (f : HomeFinding) (accept : Req → Bool) (fin : State → Nat → Packet → State) : State :=
  match tblFind s.pkts id with
  | none => s
  | some p =>
    match p.req.range with
    | none => s
    | some (a, n) =>
      if !accept p.req then s
      else if p.begun then (if s.homes.txns.any (fun e => e.2.pkt == id) then s else fin s id p)
      else if s.ordHeld id p then s
      else match s.turnOf id p a n with
      | .stalled => s
      | .waits => s.enqueue (s.homeSlice a) id
      | .goes =>
      let back := s.isHostBack p a n
      let s := s.unqueue (s.homeSlice a) id
      if !s.rangePass p.context a n then s.refuseReq id p a
      else if !s.granExists (granOf a) then s.absentAccess id p a n
      else match (if p.src.agent.isSome || p.req.stashes then (blocksOf a n).findSome? s.roomHeld else none) with
        | some b => s.recallBlock b
        | none =>
          let s := (s.homeFound p a f).completeWaiting
          let ks := s.snoopsFor p a n
          if back then (sectorsOf a n).foldl (fun s x => s.crossed State.goOn x 416) (fin s id p)
          else if ks.isEmpty then fin s id p
          else
            let s := { s with pkts := tblPut s.pkts id { p with begun := true } }
            ks.foldl (fun s k => s.beginTxn id k.1 k.2.1 k.2.2) s

def execHomeRead (id : Nat) (f : HomeFinding) (s : State) : Host.Outcome State Fault Refusal :=
  .next (s.serve id f (fun r => match r with | .read _ _ true => true | _ => false) State.applyReq)
def execHomeReadOwnership (id : Nat) (f : HomeFinding) (s : State) : Host.Outcome State Fault Refusal :=
  .next (s.serve id f (fun r => match r with | .readOwn _ _ => true | _ => false) State.applyReq)
def execHomeWrite (id : Nat) (f : HomeFinding) (s : State) : Host.Outcome State Fault Refusal :=
  .next (s.serve id f (fun r => match r with | .write _ _ _ _ => true | _ => false) State.applyReq)
def execHomeNonallocRead (id : Nat) (f : HomeFinding) (s : State) : Host.Outcome State Fault Refusal :=
  .next (s.serve id f (fun r => match r with | .read _ _ false => true | _ => false) State.applyReq)
def execHomeLr (id : Nat) (f : HomeFinding) (s : State) : Host.Outcome State Fault Refusal :=
  .next (s.serve id f (fun r => match r with | .lr _ _ => true | _ => false) State.applyReq)
def execHomeSc (id : Nat) (f : HomeFinding) (s : State) : Host.Outcome State Fault Refusal :=
  .next (s.serve id f (fun r => match r with | .sc _ _ _ _ => true | _ => false) State.applyReq)
def execHomeAmo (id : Nat) (f : HomeFinding) (s : State) : Host.Outcome State Fault Refusal :=
  .next (s.serve id f (fun r => match r with | .amo _ _ _ _ _ _ => true | _ => false) State.applyReq)

/-! ## Transactions go on (R308, R312) -/

/-- HOME_WRITE_BACK: applied on arrival, even while a transaction on the sector waits; it takes a place of the slice's insertion queue, and
waits on ORD while that is full (R245). -/
def execHomeWriteBack (id : Nat) (f : HomeFinding) (s : State) : Host.Outcome State Fault Refusal :=
  .next (match tblFind s.pkts id with
    | none => s
    | some p =>
      match p.req, p.src with
      | .writeBack x _ _, .tile t =>
        let s := s.qcInsert (s.qcSlice x)
        if s.ordHeld id p || s.lockedFor (some t) (128 * x) 128 || decide (32 ≤ s.qcQueued (s.qcSlice x)) then s
        else
          let a := 128 * x
          let s := if p.begun then s
            else
              let s := (((s.homeFound p a f).landBack x).breakReservations a 128 (some t)).qcEnqueue (s.tile t).vein x
              let size := s.lineSize t
              let held := (s.tile t).dcache.filter (fun l => !l.host && l.line * size / 128 == x)
              if decide (s.sectSt x = .m t) && !held.any (·.dirty) then
                let e := s.dirEntry a
                s.putDir (x / 4) (e.setSector (x % 4) (if held.isEmpty then .i else .s))
              else s
          let s := s.answer id p (okRsp [] false)
          s.crossed State.goOn x t
      | _, _ => s)

/-- The lines of a sector in a tile's cache. -/
def State.sectorLines (s : State) (t x : Nat) : List CacheLine :=
  (s.tile t).dcache.filter (fun l => !l.host && l.line * s.lineSize t / 128 == x)

/-- A tile's dirty lines of a sector join its write-back that is on its way: that of another 64 B line (R223, R312). -/
def State.mergeBack (s : State) (t x : Nat) : State :=
  let size := s.lineSize t
  match s.wayBack x with
  | some (id, bs, p) =>
    let dirty := (s.sectorLines t x).filter (·.dirty)
    let bs := dirty.foldl (fun b l => memWrite b (l.line * size % 128) (memRead l.bytes 0 size)) bs
    let p := dirty.foldl (fun (p : NSet) l => (List.range (size / 8)).foldl (fun p i => setPut p (l.line * size % 128 / 8 + i) (setHas l.poison i)) p) p
    { s with pkts := s.pkts.map (fun e => if e.1 = id then (e.1, { e.2 with req := .writeBack x bs p }) else e) }
  | none => s

/-- What the memory side does on a snoop and answers: ACK_S for a clean copy that it keeps. -/
def State.snooped (s : State) (t x : Nat) (k : Snoop) : State × SnoopAnswer :=
  if (s.wayBack x).isSome && decide (s.tileOwner x = some t) then
    -- bytes written since then join the write-back that is on its way
    let s := s.mergeBack t x
    (match k with
      | .inv => s.modTile t (fun y => y.dropSector (s.lineSize t) false x)
      | .shr => s.modTile t (fun y => y.cleanSector (s.lineSize t) x)
      | .cur => s, .wbPending)
  else if (s.sectorLines t x).isEmpty then (s, .ackI)
  else match k with
    | .inv =>
      let dirty := (s.sectorLines t x).any (·.dirty)
      let s := s.writeBackSector t x
      (s.modTile t (fun y => y.dropSector (s.lineSize t) false x), if dirty then .data else .ackI)
    | .shr =>
      let dirty := (s.sectorLines t x).any (·.dirty)
      (s.writeBackSector t x, if dirty then .data else .ackS)
    | .cur => (s, .data)

/-- SNP_INV, SNP_SHR, SNP_CUR: a tile receives a snoop and answers on RSP. -/
def State.snoop (s : State) (agent txn : Nat) (k : Snoop) (par : CacheParity) : State :=
  match tblFind s.homes.txns txn with
  | none => s
  | some x =>
    if decide (x.snoop ≠ k) || !x.waiting.contains agent || decide (416 ≤ agent) || (tblFind x.answers agent).isSome || s.sourcesHeld then s
    else
      let r := match (s.sectorLines agent x.sector).head? with
        | some l => (s.parityCheck agent l par).1
        | none => s
      match tblFind r.homes.txns txn with
      | none => r.completeWaiting
      | some y =>
        let q := r.snooped agent x.sector k
        let s := q.1
        { s with homes := { s.homes with txns := tblPut s.homes.txns txn { y with answers := tblPut y.answers agent q.2 } } }

def execSnpInv (agent : AgentNo) (txn : Nat) (parity : CacheParity) (s : State) : Host.Outcome State Fault Refusal :=
  .next (s.snoop agent txn .inv parity)
def execSnpShr (agent : AgentNo) (txn : Nat) (parity : CacheParity) (s : State) : Host.Outcome State Fault Refusal :=
  .next (s.snoop agent txn .shr parity)
def execSnpCur (agent : AgentNo) (txn : Nat) (parity : CacheParity) (s : State) : Host.Outcome State Fault Refusal :=
  .next (s.snoop agent txn .cur parity)

/-- SNOOP_RESPONSE: an answer reaches the home; a write-back in flight is waited for (R312). -/
def execSnoopResponse (txn : Nat) (agent : AgentNo) (a : SnoopAnswer) (s : State) : Host.Outcome State Fault Refusal :=
  .next (match tblFind s.homes.txns txn with
    | none => s
    | some x =>
      if !x.waiting.contains agent || decide (tblFind x.answers agent ≠ some a) || s.answerHeld agent (s.stackOf (128 * x.sector)) then s
      else
        let cross := decide (a = .wbPending) && (s.wayBack x.sector).isSome
        let y := { x with waiting := setDel x.waiting agent, crossing := if cross then setIns x.crossing agent else x.crossing }
        { s with homes := { s.homes with txns := tblPut s.homes.txns txn y } }.goOn txn)

/-! ## The host's death and the loss of its link (R317, R322) -/

/-- Veins whose granules the host caches. -/
def State.hostVeins (s : State) : List Nat :=
  ((s.homes.dir.filter (fun e => setHas e.2.presence 416 && e.2.sectors.any (fun x => decide (x = .s) || decide (x = .m 416)))).filterMap (fun e => (s.granVein (granOf (512 * e.1))).map (·.1))).eraseDups

/-- Bit 416 is cleared in every entry of the directory (R322). -/
def State.clearHost (s : State) : State :=
  { s with homes := { s.homes with dir := (s.homes.dir.map (fun e => (e.1, { e.2 with presence := setDel e.2.presence 416 }))).filter (fun e => e.2.live) } }

/-- Every vein whose granules the host caches goes down; host-owned sectors of no vein are marked; bit 416 is cleared. `cause`: the
row of R317. -/
def State.hostGone (s : State) (cause : Nat) : State :=
  let s := s.hostVeins.foldl (fun s v => s.veinDown v cause 416) s
  (s.markVein none (some 416)).clearHost.completeWaiting

/-- SNOOP_TIMEOUT: 10 µs without an answer. -/
def execSnoopTimeout (txn : Nat) (agent : AgentNo) (s : State) : Host.Outcome State Fault Refusal :=
  .next (match tblFind s.homes.txns txn with
    | none => s
    | some x =>
      if !x.waiting.contains agent || (tblFind x.answers agent).isSome || s.homes.biWait.contains txn || !s.passed x.since 1000 then s
      else if agent = 416 then s.hostGone 0
      else (s.veinDown (s.tile agent).vein 0 agent).completeWaiting)

/-! ## Stash writes (R309) -/

/-- The set has an invalid way, or the pseudo-LRU victim of the set is clean, or the lines are there already (R309). -/
def State.cleanVictim (s : State) (t sector : Nat) : Bool :=
  let line := 128 * sector / s.lineSize t
  let w := s.wayFor t false line
  let l : CacheLine := ⟨false, line, false, [], [], w, none⟩
  (s.setLines t (s.lineSet t line)).all (fun y => y.way != w || !y.dirty || s.wayOf t l y)

/-- STASH_DELIVERY: a clean copy is taken where every condition holds, else dropped with a notice. -/
def execStashDelivery (t sector : Nat) (s : State) : Host.Outcome State Fault Refusal :=
  let named (e : Nat × Packet) : Bool := match e.2.req with
    | .stash x u _ => u == t && x == sector
    | _ => false
  .next (match s.pkts.find? named with
    | none => s
    | some e =>
      if s.sourcesHeld || s.pkts.any (fun y => decide (y.1 < e.1) && (match y.2.req with
          | .stash _ u _ => u == t
          | _ => false)) then s
      else
        let whole := match e.2.req with
          | .stash _ _ w => w
          | _ => false
        let s := { s with pkts := tblDel s.pkts e.1 }
        let x := s.tile t
        let a := 128 * sector
        let g := granOf a
        let ok := whole && decide (x.role = .mapped) && x.dctl.enabled && s.carve t != 0 && x.task.isSome
          && decide ((s.granVein g).map (·.1) = some x.vein) && s.tagOf g == BitVec.ofNat 16 (0x8000 + x.context.getD 0) && !s.micaGran g
        let dirty := (s.sectorLines t sector).any (·.dirty)
        if ok && !dirty && s.cleanVictim t sector then
          let ls := if s.lineSize t = 64 then [2 * sector, 2 * sector + 1] else [sector]
          ls.foldl (fun s l => s.installDevice t l .good) s
        else s.sendPkt (.tile t) none (.drop sector) none)

/-- STASH_DROP_NOTICE: the notice clears the tile's presence bit, unless the tile holds another sector of the block. -/
def execStashDropNotice (t sector : Nat) (s : State) : Host.Outcome State Fault Refusal :=
  .next (match s.pkts.find? (fun e => decide (e.2.src = .tile t) && decide (e.2.req = .drop sector)) with
    | none => s
    | some e =>
      if s.ordHeld e.1 e.2 then s
      else
        let s := { s with pkts := tblDel s.pkts e.1 }
        if [0, 1, 2, 3].any (fun i => !(s.sectorLines t (sector / 4 * 4 + i)).isEmpty || decide (s.sectSt (sector / 4 * 4 + i) = .m t)) then s
        else
          let d := s.dirEntry (128 * sector)
          let pres := setDel d.presence t
          s.putDir (sector / 4) { d with
            presence := pres, sectors := if pres.isEmpty then d.sectors.map (fun x => if decide (x = .s) then .i else x) else d.sectors })

/-- RESERVATION_LOCK_TIMEOUT (R303): after 10 µs the lock ends. -/
def execReservationLockTimeout (granule : Nat) (s : State) : Host.Outcome State Fault Refusal :=
  .next { s with homes := { s.homes with locks := s.homes.locks.filter (fun l => !(l.1 == granule && s.passed l.2.2 1000)) } }

/-! ## The host (R313, R314) -/

/-- HOST_SNOOP: SnpInv first invalidates the tiles' copies; no answer carries data. -/
def execHostSnoop (hpa : Nat) (invalidate : Bool) (s : State) : Host.Outcome State Fault Refusal :=
  .next (if s.host.linkUp then
      let s := s.awake
      (if invalidate then s.invalidateHostSector (hpa / 128) none else s).emit (.hostSnoopAnswer (hpa / 64 * 64))
    else s)

/-- An acknowledgement of a source's own write: the task counts it as seen, and a tile's memory side goes on (R297, R323). -/
def State.acked (s : State) (src : Src) (task : Option Nat) (id : Nat) : State :=
  match src with
  | .tile t => ((s.modTile t (fun x => { x with pend := x.pend.filter (fun p => !(p.id == id && decide (p.kind = .ack))) })).seen task id).drainAll t
  | _ => s.seen task id

/-- HOST_GO: the write of a host line is globally observed; the writer's copy is updated. -/
def execHostGo (id : Nat) (s : State) : Host.Outcome State Fault Refusal :=
  .next (match tblFind s.host.up id with
    | none => s
    | some u =>
      if !(u.kind.isWrite && decide (u.kind ≠ .ioWrite) && u.sent) then s
      else
        let s := { s with host := { s.host with up := tblDel s.host.up id } }
        let s := match u.src with
          | .tile t => s.modTile t (fun x => x.updateLines (s.lineSize t) true u.addr u.bytes u.poisoned false)
          | _ => s
        (s.acked u.src u.task id).flushUp)

/-- HOST_CXLMEM_REQUEST: a read or write of device memory through the HDM decoder becomes a request to its home; `own` asks for,
or keeps, exclusive state. In SLEEP and in D3hot it is answered with an error (R416, R478); while a wake from
D3hot runs it is held (R417). -/
def execHostCxlmemRequest (hpa len : Nat) (wr : Option (List Byte)) (poisoned own : Bool) (s : State) :
    Host.Outcome State Fault Refusal :=
  .next (match s.hdmLocal hpa with
    | none => s
    | some a =>
      if !(s.host.linkUp && s.host.memEn) || len = 0 || 2 ^ 40 < a + len then s
      else if s.host.d3wake || !s.host.waiting.isEmpty then
        { s with host := { s.host with waiting := s.host.waiting ++ [.hostCxlmemRequest hpa len wr poisoned own] } }
      else if s.blk.state = .sleep || s.host.d3hot then s.emit .cxlMemError
      else
        let s := s.awake
        match wr with
        | some bs =>
          let s := s.sendPkt .hostMem none (.write a (bs.take len) poisoned none) none
          if own then s.sendPkt .hostMem none (.readOwn a len) none else s
        | none => s.sendPkt .hostMem none (if own then .readOwn a len else .read a len true) none)

/-- BI_RESPONSE: the host's answer, with the write-back of a sector that it owned. For a bulk access the sector's data is then
fresh for one read, or every copy of it is gone. -/
def execBiResponse (txn : Nat) (wb : Option (List Byte)) (hostKeepsShared : Bool) (s : State) : Host.Outcome State Fault Refusal :=
  .next (match tblFind s.homes.txns txn with
    | none => s
    | some x =>
      if !x.waiting.contains 416 || s.homes.biWait.contains txn then s
      else
        let a := 128 * x.sector
        let owned := s.hostOwns x.sector
        let s := match wb, owned with
          | some bs, true =>
            let s := s.copySees a 128
            ({ s with mem := s.mem.store a (bs.take 128) false }.breakReservations a 128 none).qcTouch (some ⟨noVein, false, true⟩) a 128
          | _, _ => s
        let before := s.homes
        let e := s.dirEntry a
        let s := match x.snoop with
          | .inv => if owned then s.putDir (x.sector / 4) (e.setSector (x.sector % 4) .i) else s
          | .shr => if owned then s.putDir (x.sector / 4) (e.setSector (x.sector % 4) (if hostKeepsShared then .s else .i)) else s
          | .cur => if x.pkt = 0 then { s with homes := { s.homes with fresh := setIns s.homes.fresh x.sector } } else s
        let cross := owned && wb.isNone && s.pkts.any (fun e => match e.2.req.range with
          | some (b, m) => s.isHostBack e.2 b m && (sectorsOf b m).contains x.sector
          | none => false)
        let s := if cross then { s with homes := before } else s
        let s := if decide (x.snoop = .inv) && x.pkt == 0 && !cross then s.invalidateSector x.sector none else s
        let y := { x with waiting := setDel x.waiting 416, crossing := if cross then setIns x.crossing 416 else x.crossing }
        ({ s with homes := { s.homes with txns := tblPut s.homes.txns txn y } }.goOn txn).hostLeft x.sector |>.flushBi)

end Sys2Proof.Machine
end

