-- ==== Sys2Proof/Machine/HostPort.lean ====
section
/-! DEFINITION. What the host port does with every request to a BAR (R12, R14, R408, R409, R416, R417, R422, R478, R511). -/

namespace Sys2Proof.Machine

/-- What becomes of a memory request to a BAR. -/
inductive PortTake where
  | absent | unsupported | held | taken
deriving DecidableEq, Repr

/-- Memory requests are taken with Memory Space Enable set in D0, and held while a wake from D3hot runs, or behind one that is held
(R408, R409, R416, R417). None arrives while the block is in reset or its link is down. -/
def State.portTake (s : State) : PortTake :=
  if !(s.blk.booted && s.host.linkUp) then .absent
  else if !(s.host.mse && !s.host.retry && !s.host.d3hot) then .unsupported
  else if s.host.d3wake || !s.host.waiting.isEmpty then .held
  else .taken

/-- A request is held at the port; it is taken up again in the order of arrival (R409, R417). -/
def State.hold (s : State) (i : PortReq) : State := { s with host := { s.host with waiting := s.host.waiting ++ [i] } }

/-- A non-posted request completes with Unsupported Request. -/
def State.unsupported (s : State) : State := (s.aer 20).emit .unsupportedRequest

/-- A non-posted request to a BAR, behind the posted writes before it where it must be; with a PASID prefix it is discarded (R409, R421). -/
def State.nonPosted (s : State) (i : PortReq) (pasid : Bool) (f : State → State) : State :=
  match s.portTake with
  | .absent => s
  | .unsupported => if pasid then s.awake.aer 25 else s.awake.unsupported
  | .held => s.hold i
  | .taken => if pasid then s.awake.aer 25 else f s.awake

/-- Every posted write accepted before is globally observed (R409). -/
def State.hostQuiet (s : State) : Bool := !s.pkts.any (fun e => decide (e.2.src = .hostPort) && e.2.req.onOrd)

/-- A register write that no register takes is recorded (R12, R422). -/
def State.registerIgnored (s : State) (off width : Nat) : State :=
  s.logBlock .registerIgnored .notice (off % 2 ^ 16) off width

/-- A posted write to a BAR: to a closed one dropped (R408), with a PASID prefix discarded (R421). -/
def State.postedIn (s : State) (i : PortReq) (m : HostMark) (f : State → State) : State :=
  match s.portTake with
  | .absent => s
  | .held => s.hold i
  | .unsupported => if m.pasid then s.awake.aer 25 else s.awake.aerAdvisory 20
  | .taken => if m.pasid then s.awake.aer 25 else f s

/-- A posted write to BAR0 or BAR2 (R408, R409, R422): poisoned, it is discarded and logged. -/
def State.posted (s : State) (i : PortReq) (m : HostMark) (off width : Nat) (f : State → State) : State :=
  s.postedIn i m (fun s =>
    if !s.hostQuiet then s.hold i
    else if m.ep then (s.awake.registerIgnored off width).aer 12
    else f s.awake)

/-- A posted write that travels on as a request of the host port, which keeps its order (R340, R409). -/
def State.postedOn (s : State) (i : PortReq) (m : HostMark) (off width : Nat) (f : State → State) : State :=
  s.postedIn i m (fun s => if m.ep then (s.awake.registerIgnored off width).aer 12 else f s.awake)

/-- A window access is ignored and counted (R339, R342). -/
def State.winIgnored (s : State) : State := { s with flint := { s.flint with winIgnored := satAdd 32 s.flint.winIgnored 1 } }

end Sys2Proof.Machine
end

