-- ==== Sys2Proof/Machine/TileEvents.lean ====
section
/-! DEFINITION. Launches and a tile's own events (R132 to R137, R142, R144, R147 to R149, R152, R186, R347). -/

namespace Sys2Proof.Machine

/-! ## LAUNCH and LAUNCH_DISPATCH (R132, R135, R136, R494) -/

/-- The block-wide logical ids of a grid (R55, R133). -/
def State.gridIds (s : State) (vein : Nat) (b : LaunchBody) : List Nat :=
  match s.vein? vein with
  | some v => (List.range b.gridCount).map (fun i => v.tileFirst + b.gridFirst + i)
  | none => []

/-- A LAUNCH names its grid and waits for its tiles (R132, R136). -/
def execLaunch (k : Nat) (s : State) : Host.Outcome State Fault Refusal :=
  .next (match s.task? k with
    | some x =>
      match x.body with
      | .launch b => if decide (x.phase = .dispatched) then s.setTask k { x with tiles := s.gridIds x.vein b } else s
      | _ => s
    | none => s)

/-- The priority of a task's queue. -/
def State.prioOf (s : State) (x : Task) : Nat :=
  match x.queue.bind s.queue? with
  | some q => q.prio
  | none => 0

/-- A waiting launch comes before another (R136): by priority, then by the arrival of its doorbell; of one doorbell, by its number. -/
def State.launchBefore (s : State) (a b : Nat × Task) : Bool :=
  let p := s.prioOf a.2
  let q := s.prioOf b.2
  decide (q < p) || (p == q && (decide (a.2.rung < b.2.rung) || (a.2.rung == b.2.rung && decide (a.1 < b.1))))

/-- A launch that waits for its tiles. -/
def Task.waitsTiles (x : Task) : Bool :=
  decide (x.phase = .dispatched) && !x.tiles.isEmpty && (match x.body with
    | .launch _ => true
    | _ => false)

/-- A launch that is held back by one before it which needs a tile of its own (R136). -/
def State.heldBack (s : State) (k : Nat) (x : Task) : Bool :=
  s.tasks.any (fun e => e.1 != k && e.2.vein == x.vein && e.2.waitsTiles && s.launchBefore e (k, x)
    && e.2.tiles.any (fun i => x.tiles.contains i))

/-- The tile that serves a logical id. -/
def State.served (s : State) (l : Nat) : Option Nat := tblFind s.strata.str.tileMap l

/-- The state in which a tile starts a launch (R109, R135, R239). -/
def Tile.launched (x : Tile) (k : Nat) (y : Task) (b : LaunchBody) (id : Nat) (isProt : Bool) (owned : NSet) (zero : Bool) : Tile :=
  let cleared : Tile := { x with
    task := some k, isProtected := isProt, g := [], v := [], p := [], gPoison := [], vPoison := [], pPoison := [], accs := []
    pc := b.entry, gridFirst := b.gridFirst, gridCount := b.gridCount, vein := y.vein, context := some y.context, args := b.args
    seed := b.seed, cycle := 0, unitCycles := 0, astat := 0, lfsr := lfsrSeed b.seed id, carry := [], lc := []
    stable := if b.stableLen = 0 then none else some ⟨b.stableLocal, b.stableLen⟩, stableSrc := b.stableSrc
    run := if b.stableLen = 0 then .running else .filling
    reservation := none, scFails := 0, held := [], released := [], fencePending := false, fullFence := false, observe := false
    lastFiles := 0, waitAddr := none, iplru := [], ifetch := []
    ckpt1 := none, validHalf := false, ckptLost := false, afterCommit := 0, matQueue := [], mmaRunning := none, accOps := []
    moves := [], micas := [], pend := [], miss := none, icache := [], waitSeq := none, owned := owned, segs := y.segs
    gated := [1, 2, 3]
    scratch := if zero then [] else x.scratch, poison := if zero then [] else x.poison, full := if zero then [] else x.full }
  { cleared with ckpt0 := some (cleared.snapshot 0 b.entry) }

/-- One tile of a dispatched launch; a launch of another context finds the data cache written back and emptied and the scratch
zeroed (R135, R262). -/
def State.launchTile (s : State) (k : Nat) (y : Task) (b : LaunchBody) (isProt : Bool) (owned : NSet) (l t : Nat) : State :=
  let first := match s.vein? y.vein with
    | some v => v.tileFirst
    | none => 0
  let other := decide ((s.tile t).context ≠ some y.context)
  let s := if other then s.disposeCache t else s
  s.modTile t (fun x => x.launched k y b (l - first) isProt owned other)

/-- Objects that the context owns at dispatch (R330). -/
def State.ownedBy (s : State) (c : Nat) : NSet := (s.flint.objs.filter (fun e => e.2.state != 0 && e.2.owner == c)).map (·.1)

/-- Protection of a launch (R132, R375). -/
def State.launchProt (s : State) (y : Task) (b : LaunchBody) : Bool :=
  if b.prot = 1 then true
  else if b.prot = 2 then false
  else match s.vein? y.vein with
    | some v => v.protect
    | none => false

/-- R136: the launch starts once every tile of its grid is free; one whose grid includes an unserved id ends (R494). -/
def execLaunchDispatch (k : Nat) (s : State) : Host.Outcome State Fault Refusal :=
  .next (match s.task? k with
    | none => s
    | some x =>
      match x.body with
      | .launch b =>
        if !x.waitsTiles || s.launchHeld x.vein || s.heldBack k x then s
        else
          let lost := (x.tiles.filter (fun l => (s.served l).isNone)).length
          if lost ≠ 0 then s.failTask k .poisonedOutput (mkDetail 0x42 none lost 0)
          else
            let ts := x.tiles.filterMap (fun l => (s.served l).map (fun t => (l, t)))
            if ts.all (fun t => (s.tile t.2).task.isNone && decide ((s.tile t.2).role = .mapped)) then
              let isProt := s.launchProt x b
              let owned := s.ownedBy x.context
              let s := s.setTask k { x with phase := .running }
              ts.foldl (fun s t => s.launchTile k x b isProt owned t.1 t.2) s
            else s
      | _ => s)

/-! ## The stable region (R134) -/

/-- A part of a stable region's source: its place in the region, its device address, its length, and whether the owner tags pass
it (R259). -/
def State.stableParts (s : State) (t : Nat) : List (Nat × Nat × Nat × Bool) :=
  let x := s.tile t
  match x.stable with
  | none => []
  | some r =>
    (chunks4K x.stableSrc r.len).map (fun p =>
      match s.reach (.tile t) (x.context.getD 0) x.segs p.2.1 false with
      | .to (.device a true) _ => (p.1, a, p.2.2, s.rangePass x.context a p.2.2)
      | _ => (p.1, p.2.1, p.2.2, false))

/-- The region filled with its source's bytes and poison marks, every word full. -/
def State.fillStable (s : State) (t : Nat) (ps : List (Nat × Nat × Nat × Bool)) : State :=
  match (s.tile t).stable with
  | none => s
  | some r =>
    ps.foldl (fun s p =>
      let bs := s.readFlagged p.2.1 p.2.2.1
      (s.dropFresh p.2.1 p.2.2.1).modTile t (fun x =>
        let x := x.storeBytes (r.base + p.1) bs
        { x with full := (wordsOf (r.base + p.1) bs.length).foldl setIns x.full })) s

/-- The source is read, or the launch stops where a granule refuses it (R260); host-held sectors are recalled first (R314). -/
def State.withStable (s : State) (t : Nat) (found : DramFinding) (f : State → State) : State :=
  let ps := s.stableParts t
  let x := s.tile t
  match ps.find? (fun p => !p.2.2.2) with
  | some p =>
    let s := s.logRefused (.tile t) x.context p.2.1 0
    match x.task with
    | some k => s.stopLaunch k .accessDenied (s.refusedDetail (.tile t) p.2.1)
    | none => s
  | none =>
    let held := ps.filter (fun p => !(s.hostHeld p.2.1 p.2.2.1 false).isEmpty)
    if held.isEmpty then f ((s.bulkFound (ps.map (fun p => (p.2.1, p.2.2.1))) found).fillStable t ps)
    else held.foldl (fun s p => s.recallHost p.2.1 p.2.2.1 false) s

def execStableRegionFilled (t : Nat) (f : DramFinding) (s : State) : Host.Outcome State Fault Refusal :=
  .next (if decide ((s.tile t).run = .filling) then s.withStable t f (fun s => s.modTile t (fun x => { x with run := .running })) else s)

/-! ## CHECKPOINT_DONE (R144, R146, R246, R493, R496) -/

/-- A scheduled change at a boundary: retirement, or the swap of a rotation step. Nothing is lost (R146). -/
def State.boundaryChange (s : State) (t : Nat) : State :=
  let x := s.tile t
  let q := quarryOf t
  if x.retireAsked then
    let r := s.replaceTile t .retired
    let s := if r.2.isSome then r.1.countRetired q else s.modTile t (fun x => { x with retireAsked := false })
    s.log .tileRetire .notice q x.vein t (ctxNo x.context) 0 x.deficit (spareNo r.2)
  else if x.rotateAsked then
    match s.replaceTile t .testing with
    | (r, some _) => r
    | (_, none) => s.modTile t (fun x => { x with rotateAsked := false })
  else s

/-- The acknowledged checkpoint: the valid half flips, and the next unit starts or the tile has halted. -/
def execCheckpointDone (t : Nat) (ck : CkptFinding) (s : State) : Host.Outcome State Fault Refusal :=
  let x := s.tile t
  .next (if !(decide (x.run = .committing) && x.pend.all (fun p => decide (p.kind = .ack)) && !x.released.any Held.asks) then s
    else
      let half := b2n (!x.validHalf)
      let s := s.modTile t (fun x => { x with validHalf := !x.validHalf, ckptLost := decide (ck.ecc = .uncorrectable), unitCycles := 0 })
      let s := s.ckptFound t half ck
      if x.afterCommit = 1 then
        let s := s.modTile t (fun x => { x with run := .halted, afterCommit := 0 })
        match x.task with
        | some k => s.settle k
        | none => s
      else (s.modTile t (fun x => { x with run := .running, afterCommit := 0, gated := setDel x.gated 0 })).boundaryChange t)

/-! ## UNIT_CYCLE_LIMIT (R142) -/

def execUnitCycleLimit (t : Nat) (s : State) : Host.Outcome State Fault Refusal :=
  let x := s.tile t
  .next (if x.canIssue && x.isProtected && decide (50000 ≤ x.unitCycles) then s.trap t .unitTooLong none else s)

/-! ## TILE_DATAPATH_FAULT and TILE_REPLAY_START (R147 to R149, R487, R494) -/

/-- The entry of a tile fault (R504): the lost span, the spare; the interruption of a masked fault is an open number. -/
def State.logTileFault (s : State) (t : Nat) (x : Tile) (o : Outc) (span : Nat) (u : Option Nat) : State :=
  let n := if decide (o = .masked) then s.openNat % 2 ^ 32 else 0
  let s := if decide (o = .masked) then s.used else s
  s.log .tileFault o (quarryOf t) x.vein t (ctxNo x.context) n (x.logical % 512 + span % 2 ^ 48 * 2 ^ 16) (spareNo u)

/-- The launch of a lost tile stops (R149, R190); its detail names the first loss, and counts every one (R370). -/
def State.tileLost (s : State) (k t : Nat) (cls : LogClass) : State :=
  match s.task? k with
  | none => s
  | some x =>
    if x.faults.any (fun f => f.2.cause == 0x42) then
      (s.modTask k (fun x => { x with faults := x.faults.map (fun f =>
        if f.2.cause = 0x42 then (f.1, { f.2 with count := f.2.count + 1 }) else f) })).gridStop k
    else s.stopLaunch k .poisonedOutput (mkDetail 0x42 none 1 (s.entrySeq cls (quarryOf t) t))

/-- R147: the datapath is out of service; a protected unit with a spare and a checkpoint is replayed. -/
def State.datapathFault (s : State) (t : Nat) : State :=
  let x := s.tile t
  let q := quarryOf t
  match x.role with
  | .mapped =>
    -- an unprotected halt does not wait for the check horizon, so its tile can still be found wrong (R117, R149, R151)
    let ended := (decide (x.run = .halted) && x.isProtected) || decide (x.run = .stopped)
    let replay := x.task.isSome && x.isProtected && (!x.ckptLost || decide (x.run = .committing)) && !ended
    let span := if decide (x.run = .committing) then 0 else x.unitCycles
    let s := s.countRetired q
    match s.replaceTile t .retired with
    | (s', some u) =>
      let s := s'.logTileFault t x (if replay || x.task.isNone || ended then .masked else .detected) span (some u)
      if replay then s
      else
        -- the spare serves the id from the next launch on; this one stops, or had nothing left to lose
        let s := s.modTile u (fun y => if y.task.isSome then { y with task := none, run := .none, gated := [0, 1, 2, 3] } else y)
        match x.task with
        | some k => if ended then s.settle k else s.tileLost k t .tileFault
        | none => s
    | (_, none) =>
      let s := (s.unserve t).logTileFault t x (if x.task.isSome then .detected else .masked) span none
      match x.task with
      | some k => if ended then s.settle k else s.tileLost k t .tileFault
      | none => s
  | .spare =>
    ((((s.countRetired q).leaveService t .retired).logTileFault t x .masked 0 none)).noteLastSpare q
  | _ => s

def execTileDatapathFault (t : Nat) (s : State) : Host.Outcome State Fault Refusal := .next (s.datapathFault t)

/-- Register state, carry set and files from a checkpoint; all else of the tile reads as R143 says. -/
def Tile.restore (x : Tile) (c : Checkpoint) : Tile :=
  { x with
    g := c.g, v := c.v, p := c.p, gPoison := c.gPoison, vPoison := c.vPoison, pPoison := c.pPoison, pc := c.pc, cycle := c.cycle
    astat := c.astat, lfsr := c.lfsr, carry := c.carry, lc := c.lc, scratch := c.mem, poison := c.poison, full := c.full
    accs := c.accs, unitCycles := 0, held := [], reservation := none, fencePending := false, fullFence := false, observe := false
    lastFiles := c.files }

/-- The memory side of an earlier tile of the same id still drains, or awaits the result that its checkpoint takes (R147). -/
def State.stillDrains (s : State) (t : Nat) : Bool :=
  let x := s.tile t
  s.tiles.any (fun e => e.1 != t && decide (e.2.task = x.task) && e.2.logical == x.logical && (!e.2.released.isEmpty || !e.2.pend.isEmpty))

/-- R147 steps 4 and 5. A valid half that turns out to be lost leaves nothing to replay from (R149, R246). -/
def execTileReplayStart (t : Nat) (ck : CkptFinding) (f : DramFinding) (s : State) : Host.Outcome State Fault Refusal :=
  let x := s.tile t
  .next (match x.run, x.validCkpt with
    | .replaying, some c =>
      if s.stillDrains t then s
      else
        let s := s.ckptFound t (b2n x.validHalf) ck
        if decide (ck.ecc = .uncorrectable) then
          match x.task with
          | some k => s.tileLost k t .ckptLost
          | none => s
        else
        let s := s.modTile t (fun x => x.restore c)
        s.withStable t f (fun s =>
          if x.afterCommit = 1 then
            let s := s.modTile t (fun x => { x with run := .halted, afterCommit := 0 })
            match x.task with
            | some k => s.settle k
            | none => s
          else s.modTile t (fun x => { x with run := .running, afterCommit := 0 }))
    | _, _ => s)

/-! ## TILE_CLOCK_GATE (R152) -/

/-- A unit of a tile is idle, or its sequencer waits, where a commit may wait for the word that an `fe.take` takes. -/
def Tile.idleUnit (x : Tile) : GateUnit → Bool
  | .sequencer => match x.run with
    | .waiting _ => true
    | .committing => x.pend.any (fun p => decide (p.kind = .take))
    | _ => false
  | .matrix => x.matQueue.isEmpty && x.mmaRunning.isNone && x.accOps.isEmpty
  | .vector => true
  | .mover => x.moves.isEmpty

/-- The number of a unit. -/
def gateNo : GateUnit → Nat
  | .sequencer => 0 | .matrix => 1 | .vector => 2 | .mover => 3

def execTileClockGate (t : Nat) (u : GateUnit) (s : State) : Host.Outcome State Fault Refusal :=
  let x := s.tile t
  .next (if decide (x.role = .mapped) && x.task.isSome && x.idleUnit u then
      s.modTile t (fun x => { x with gated := setIns x.gated (gateNo u) })
    else s)

/-! ## WAIT_WATCHDOG (R186, R347) -/

/-- The watchdog of a vein has expired since a tick (R58). -/
def State.watchdogOver (s : State) (vein since : Nat) : Bool :=
  match s.vein? vein with
  | some v => s.passed since v.watchdog
  | none => false

/-- A registered wait that can time out and has (R347). -/
def State.expired (s : State) (vein : Nat) (w : Waiter) : Bool :=
  let bounded := match w.obj with
    | some n => !(s.objView n).unbounded
    | none => true
  bounded && s.watchdogOver vein w.since

/-- The address of the instruction of a registered wait, and the object or the device-virtual address that it waits on (R188). -/
def Tile.waitOp (x : Tile) (seq : Nat) : Nat × Option Nat :=
  match x.pend.find? (fun p => p.id == seq) with
  | some p => (p.pc, some p.va)
  | none => (x.pc, none)

def execWaitWatchdog (w : WaitRef) (s : State) : Host.Outcome State Fault Refusal :=
  .next (match w with
    | .tile t =>
      let x := s.tile t
      match s.flint.waiters.find? (fun e => decide (e.who = .tile t)) with
      | some e => if s.expired x.vein e then (s.dropWait (.tile t)).trapAt t .watchdog (x.waitOp e.seq).2 (x.waitOp e.seq).1 else s
      | none =>
        match x.run, x.waitSeq with
        | .waiting .feTake, some (0, since) | .waiting .fePeek, some (0, since) =>
          if s.watchdogOver x.vein since then s.trap t .watchdog x.waitAddr else s
        | _, _ => s
    | .task k =>
      match s.task? k, s.flint.waiters.find? (fun e => decide (e.who = .task k)) with
      | some x, some e =>
        if s.expired x.vein e then
          (s.dropWait (.task k)).failTask k .watchdog (mkDetail 0x11 (match e.obj with
            | some n => some n
            | none => e.word) 0 0)
        else s
      | _, _ => s)

end Sys2Proof.Machine
end

