-- ==== Sys2Proof/Machine/FlintHome.lean ====
section
/-! DEFINITION. Flint at its homes (R326 to R359): counters, barriers and trees, waits and wakes, full/empty words, the host's
windows, restore and slice takeover. -/

namespace Sys2Proof.Machine

/-! ## Faults, conditions, waiters -/

/-- A saturation, or an event that sets OVF or UNF in a tree (R332, R349): flag count, log with the operation and its amount, task.
`kind` 0 OVF, 1 UNF. -/
def State.flintFault (s : State) (n kind op amount : Nat) (src : Src) (c : Option Nat) (task : Option Nat) : State :=
  let before := s.flt.newest
  let s := s.log .flintFault .notice (n / 2048) noVein n (ctxNo c) 0 kind src.code
  let s := if s.flt.newest = before then s
    else { s with flt := { s.flt with
      flintOps := tblPut (s.flt.flintOps.filter (fun e => decide (s.flt.newest < e.1 + 4096))) s.flt.newest (op, amount) } }
  let s := { s with flint := if kind = 0 then { s.flint with ovfs := satAdd 16 s.flint.ovfs 1 }
    else { s.flint with unfs := satAdd 16 s.flint.unfs 1 } }
  s.taskFault? task (if kind = 0 then .overflow else .underflow) (mkDetail 0x44 (some n) 0 (s.entrySeq .flintFault (n / 2048) n))

/-- A condition holds of an object (R334, R335). -/
def Obj.holds (o : Obj) : Cond → Bool
  | .ge v => decide (v ≤ o.value)
  | .eq v => o.value == v
  | .ne v => o.value != v
  | .phaseNot p => o.phase != p

/-- The value that a wake carries. -/
def Obj.answer (o : Obj) : Cond → Nat
  | .phaseNot _ => b2n o.phase
  | _ => o.value

/-- Waiters whose conditions now hold wake in the order they registered. -/
def State.evalWaiters (s : State) (n : Nat) : State :=
  (s.flint.waiters.filter (fun w => decide (w.obj = some n))).foldl (fun s w =>
    let o := s.objView n
    if o.holds w.cond then s.wake w (o.answer w.cond) false false else s) s

/-- ABOVE of a counter with a value (R341). -/
def Obj.aboveAt (o : Obj) (v : Nat) : Bool := !o.barrier && o.limit != 0 && decide (o.limit ≤ v)

/-- A changed object is stored with its time. -/
def State.stamp (s : State) (n : Nat) (o : Obj) : State := s.putObj n { o with when' := s.now }

/-- A changed object is stored with its time, its message is sent, and its waiters are looked at. -/
def State.flintApply (s : State) (n : Nat) (o : Obj) (notify : Bool) : State :=
  let s := s.stamp n o
  (if notify && o.notify then s.sendVector o.vector else s).evalWaiters n

/-- A counter takes a value (R331, R341). -/
def State.setValue (s : State) (n : Nat) (o : Obj) (v : Nat) : State :=
  let up := o.aboveAt v
  s.flintApply n { o with value := v, above := up } (up && !o.above)

/-! ## Barriers and trees (R335, R348, R349) -/

/-- A node's count is full: in one step PENDING_UP is set, VALUE falls by LIMIT, and one arrival goes to the parent, here or on another
device. The home looks at the waiters once the step is done (R334, R348). -/
def State.arriveUp (s : State) (n : Nat) (o : Obj) (notify : Bool) : State :=
  let s := s.flintApply n { o with pendingUp := true, value := o.value - o.limit } notify
  if o.parentDevice = s.fab.self then s.sendPkt (.flintHome n) (some o.owner) (.flintArrive o.parentObject) none
  else s.fabSend (mkFab o.parentDevice (.flintHome n) o.owner none 6 o.parentObject [] false 0 0)

/-- A phase completes: PHASE flips, waiters wake, the message is sent. A root's count starts again; a node whose later arrivals have
filled its count sends its next arrival in the same step (R335, R348). -/
def State.finishPhase (s : State) (n : Nat) (o : Obj) : State :=
  if o.hasParent then
    let o := { o with phase := !o.phase, pendingUp := false }
    if o.limit ≤ o.value then s.arriveUp n o true else s.flintApply n o true
  else s.flintApply n { o with phase := !o.phase, value := o.value - o.limit } true

/-- A phase is complete at this home: a node with children reads its list first, and its waiters are looked at after that. -/
def State.phaseDone (s : State) (n : Nat) (o : Obj) : State :=
  if o.childCount = 0 then s.finishPhase n o
  else
    let s := s.stamp n o
    { s with flint := { s.flint with childReads := setIns s.flint.childReads n } }

/-- One arrival (R335, R348). -/
def State.arrival (s : State) (n : Nat) (src : Src) (c task : Option Nat) : State :=
  let o := s.objView n
  let v := o.value + 1
  let past := o.hasParent && o.pendingUp
  let o := { o with value := v % 2 ^ 32, ovf := o.ovf || past }
  if past then (s.flintApply n o false).flintFault n 0 2 1 src c task
  else if v < o.limit then s.flintApply n o false
  else if o.hasParent then s.arriveUp n o false
  else s.phaseDone n o

/-- A release reaches a node (R348, R349). -/
def State.release (s : State) (n : Nat) (src : Src) (c : Option Nat) : State :=
  let o := s.objView n
  if o.pendingUp then s.phaseDone n o
  else (s.flintApply n { o with unf := true } false).flintFault n 1 3 0 src c none

/-! ## Operations arrive (R330, R354) -/

/-- What the home refuses (R327, R330, R349): no owner, another context, the wrong kind. -/
def State.flintRefused (s : State) (p : Packet) (n : Nat) : Bool :=
  let o := s.objView n
  let kind := match p.req with
    | .flintAdd _ _ | .flintSub _ _ => o.barrier
    | .flintArrive _ | .flintRelease _ => !o.barrier
    | .flintWait _ (.phaseNot _) => !o.barrier
    | _ => false
  decide (2 ^ 14 ≤ n) || o.state == 0 || kind || (match p.context with
    | some c => o.owner != c
    | none => false)

/-- The entry that tells of an object's abandonment, where one does (R354, R359, R370): the node's own, or that of its lost slice. -/
def State.abandonSeq (s : State) (n : Nat) : Nat :=
  ((s.flt.log.reverse.find? (fun e => decide ((s.objView n).when' ≤ e.time) &&
    ((decide (e.cls = .flintFault) && e.unit == n && e.detail0 == 3) || (decide (e.cls = .flintSliceLost) && e.unit == n / 2048)))).map (·.seq)).getD 0

/-- A refused operation has no effect; a window write is counted, another is logged and answered (R330, R339). -/
def State.flintRefuse (s : State) (id : Nat) (p : Packet) (n : Nat) : State :=
  if decide (p.src = .hostPort) then ({ s with pkts := tblDel s.pkts id }).winIgnored
  else
    let s := s.log .granuleRefused .notice (n / 2048 % 8) noVein p.src.code (ctxNo p.context) 0 n 3
    s.answer id p { okRsp [] false with st := .refusedObject, value := n, log := s.entrySeq .granuleRefused (n / 2048 % 8) p.src.code }

/-- A release-class operation at its object's home: refused, without effect on an ABANDONED object, or applied and acknowledged.
While a child list is read the object's operations wait. -/
def State.flintOp (s : State) (id : Nat) (accept : Req → Bool) (f : State → Packet → Nat → State) : State :=
  match tblFind s.pkts id with
  | none => s
  | some p =>
    match p.req.object with
    | none => s
    | some n =>
      if !accept p.req || s.ordHeld id p || setHas s.flint.childReads n then s
      else if s.flintRefused p n then s.flintRefuse id p n
      else if (s.objView n).abandoned then
        if decide (p.src = .hostPort) then ({ s with pkts := tblDel s.pkts id }).winIgnored
        else s.answer id p { okRsp [] false with st := .abandoned, value := n, log := s.abandonSeq n }
      else
        let phase := b2n (s.objView n).phase
        let s := f s p n
        let value := match p.req with
          | .flintAdd _ _ | .flintSub _ _ => (s.objView n).value
          | _ => phase
        if decide (p.src = .hostPort) then { s with pkts := tblDel s.pkts id } else s.answer id p { okRsp [] false with value := value }

/-- FLINT_HOME_ADD (R331, R332). -/
def execFlintHomeAdd (id : Nat) (s : State) : Host.Outcome State Fault Refusal :=
  .next (s.flintOp id (fun r => match r with | .flintAdd _ _ => true | _ => false) (fun s p n =>
    match p.req with
    | .flintAdd _ a =>
      let o := s.objView n
      let past := decide (2 ^ 32 ≤ o.value + a)
      let s := s.setValue n { o with ovf := o.ovf || past } (if past then 2 ^ 32 - 1 else o.value + a)
      if past then s.flintFault n 0 0 a p.src p.context p.task else s
    | _ => s))

/-- FLINT_HOME_SUB (R331, R332). -/
def execFlintHomeSub (id : Nat) (s : State) : Host.Outcome State Fault Refusal :=
  .next (s.flintOp id (fun r => match r with | .flintSub _ _ => true | _ => false) (fun s p n =>
    match p.req with
    | .flintSub _ a =>
      let o := s.objView n
      let under := decide (o.value < a)
      let s := s.setValue n { o with unf := o.unf || under } (o.value - a)
      if under then s.flintFault n 1 1 a p.src p.context p.task else s
    | _ => s))

/-- FLINT_HOME_ARRIVAL (R335, R348). -/
def execFlintHomeArrival (id : Nat) (s : State) : Host.Outcome State Fault Refusal :=
  .next (s.flintOp id (fun r => match r with | .flintArrive _ => true | _ => false) (fun s p n =>
    s.arrival n p.src p.context p.task))

/-- FLINT_HOME_RELEASE (R348, R349). -/
def execFlintHomeRelease (id : Nat) (s : State) : Host.Outcome State Fault Refusal :=
  .next (s.flintOp id (fun r => match r with | .flintRelease _ => true | _ => false) (fun s p n => s.release n p.src p.context))

/-! ## Waits and wakes (R334, R347, R358) -/

/-- The waiter that a source is. -/
def Src.waiter : Src → Option WaitRef
  | .tile t => some (.tile t)
  | .sequencer k => some (.task k)
  | _ => none

/-- The source still holds the wait with a sequence number (R358). -/
def State.holdsWait (s : State) (w : WaitRef) (seq : Nat) : Bool :=
  match w with
  | .tile t => (s.tile t).pend.any (fun p => p.id == seq)
  | .task k => match s.task? k with
    | some x => decide (x.waitSeq.map (·.1) = some seq)
    | none => false

/-- FLINT_WAIT_REGISTER: the condition is evaluated on arrival; an ABANDONED object answers at once. -/
def execFlintWaitRegister (id : Nat) (s : State) : Host.Outcome State Fault Refusal :=
  .next (match tblFind s.pkts id with
    | none => s
    | some p =>
      match p.req, p.src.waiter with
      | .flintWait n c, some who =>
        if setHas s.flint.childReads n then s
        else
          let s' := { s with pkts := tblDel s.pkts id }
          if !s.holdsWait who id then s'
          else if s.flintRefused p n then s.flintRefuse id p n
          else
            let o := s.objView n
            let w : Waiter := ⟨who, id, some n, none, false, c, s.now⟩
            if o.abandoned then s'.wake w o.value true false
            else if o.holds c then s'.wake w (o.answer c) false false
            else s'.putWaiters (s'.flint.waiters ++ [w])
      | _, _ => s)

/-- The object that a task waits on: that of its wait-before, or of its WAIT (R371, R379). -/
def Task.waitsOn (x : Task) : Option Nat :=
  if decide (x.phase = .waiting) then x.waitBefore.map (·.1)
  else match x.body with
    | .waitObject n _ => some n
    | _ => none

/-- FLINT_WAKE: a wait ends. ABANDONED traps at a tile and ends a task (R186, R347). -/
def execFlintWake (id : Nat) (s : State) : Host.Outcome State Fault Refusal :=
  .next (match tblFind s.flint.wakes id with
    | none => s
    | some w =>
      let s := { s with flint := { s.flint with wakes := tblDel s.flint.wakes id } }
      match w.who with
      | .tile t =>
        match (s.tile t).pend.find? (fun p => p.id == w.seq) with
        | none => s
        | some p =>
          if w.abandoned then
            (s.modTile t (fun x => { x with pend := x.pend.filter (fun q => q.id != w.seq) })).trapAt t .abandoned (some p.va) p.pc
          else s.deliver t p (BitVec.ofNat 64 w.value) w.poisoned true
      | .task k =>
        match s.task? k with
        | none => s
        | some x =>
          if decide (x.waitSeq.map (·.1) ≠ some w.seq) then s
          else
            let s := s.modTask k (fun x => { x with waitSeq := none })
            if w.abandoned then s.failTask k .abandoned (mkDetail 0x12 x.waitsOn 0 ((x.waitsOn.map s.abandonSeq).getD 0))
            else if decide (x.phase = .waiting) then s.modTask k (fun x => { x with phase := .ready })
            else
              let s := if w.poisoned then s.taskFault k .poisonedOutput (mkDetail 0x4A none 0 0) else s
              (s.modTask k (fun x => { x with result := w.value })).finish k)

/-! ## CHILD_LIST_READ (R349) -/

/-- The children of a node, if its list can be read. -/
def State.childList (s : State) (o : Obj) : Option (List (Nat × Nat)) :=
  match s.ctx? o.owner with
  | none => none
  | some c =>
    let n := 8 * o.childCount
    if isHostVa o.childList || !segCover c.segs (fun g => g.device == s.fab.self && g.r) o.childList n then none
    else
      let parts := localParts c.segs o.childList n
      if parts.any (fun p => !s.rangePass (some o.owner) p.1 p.2 || s.readPoison p.1 p.2) then none
      else
        let bs := (parts.map (fun p => s.readLatest p.1 p.2)).flatten
        some ((List.range o.childCount).map (fun i =>
          let v := leNat ((bs.drop (8 * i)).take 8)
          (v % 2 ^ 16, bits v 16 14)))

/-- A node that could not tell its children, or whose message failed, is ABANDONED and logged (R349, R354, R443). -/
def State.nodeFailed (s : State) (n : Nat) : State :=
  let o := s.objView n
  (s.abandon n).log .flintFault .notice (n / 2048) noVein n o.owner 0 3 (Src.flintHome n).code

/-- The list has been read: the phase completes and one release goes to each entry in order; else the node is ABANDONED. Sectors of
the list that the host owns are read first (R310). -/
def execChildListRead (obj : Nat) (f : DramFinding) (s : State) : Host.Outcome State Fault Refusal :=
  .next (if !setHas s.flint.childReads obj then s
    else
      let o := s.objView obj
      let segs := match s.ctx? o.owner with
        | some c => c.segs
        | none => []
      let src := Src.flintHome obj
      if !s.hostClear src o.owner segs o.childList (8 * o.childCount) false then s.recallRange src o.owner segs o.childList (8 * o.childCount) false
      else
        let s := { s with flint := { s.flint with childReads := setDel s.flint.childReads obj } }
        let s := s.bulkFound (s.deviceParts src o.owner segs o.childList (8 * o.childCount) false) f
        match s.childList o with
        | none => s.nodeFailed obj
        | some l =>
          let s := (s.deviceParts src o.owner segs o.childList (8 * o.childCount) false).foldl (fun s p => s.dropFresh p.1 p.2) s
          l.foldl (fun s c =>
            if c.1 = s.fab.self then s.sendPkt src (some o.owner) (.flintRelease c.2) none
            else s.fabSend (mkFab c.1 src o.owner none 7 c.2 [] false 0 0)) (s.finishPhase obj o))

/-! ## Full/empty words in device memory (R337, R338) -/

def State.feFull (s : State) (a : Nat) : Bool := setHas s.mem.full (a / 8)
def State.setFull (s : State) (a : Nat) (b : Bool) : State := { s with mem := { s.mem with full := setPut s.mem.full (a / 8) b } }

/-- The word's value and poison. -/
def State.word (s : State) (a : Nat) : Nat × Bool := (leNat (s.readLatest a 8), s.latestPoison (a / 8))

/-- After a fill: waiting peeks wake in order, then the oldest take, which empties the word. -/
def State.feedWaiters (s : State) (a : Nat) : State :=
  let ws := s.flint.waiters.filter (fun w => decide (w.word = some a))
  let v := s.word a
  let s := (ws.filter (fun w => !w.take)).foldl (fun s w => s.wake w v.1 false v.2) s
  match (ws.filter (·.take)).head? with
  | some w => (s.wake w v.1 false v.2).setFull a false
  | none => s

/-- The context of a word (R504): the one that its granule's owner tag names (DEDUCED, assumption 10). -/
def State.wordCtx (s : State) (a : Nat) : Nat :=
  let t := (s.tagOf (granOf a)).toNat
  if 0x8000 ≤ t ∧ t < 0x9000 then t - 0x8000 else noCtx

/-- A fill is applied (R337); an overrun is logged and the task completes with OVERFLOW (R338). -/
def State.feFill (s : State) (a v : Nat) (pois : Bool) (src : Src) (task : Option Nat) : State :=
  let past := s.feFull a
  let s := s.homeStore none a (leBytes 8 v) pois
  let s := if past then
      let s := s.log .feOverrun .notice (s.stackOf a) noVein 0 (s.wordCtx a) 0 a src.code
      let s := { s with flint := { s.flint with overruns := satAdd 16 s.flint.overruns 1 } }
      s.taskFault? task .overflow (mkDetail 0x45 (some a) 0 (s.entrySeq .feOverrun (s.stackOf a) 0))
    else s
  (s.setFull a true).feedWaiters a

/-- FE_HOME_FILL. -/
def execFeHomeFill (id : Nat) (f : HomeFinding) (s : State) : Host.Outcome State Fault Refusal :=
  .next (s.serve id f (fun r => match r with | .feFill _ _ _ => true | _ => false) (fun s id p =>
    match p.req with
    | .feFill a v pois =>
      let s := s.feFill a v pois p.src p.task
      if decide (p.src = .hostPort) then { s with pkts := tblDel s.pkts id } else s.answer id p (okRsp [] false)
    | _ => s))

/-- A wait on an empty word. -/
def State.waitWord (s : State) (id : Nat) (p : Packet) (a : Nat) (take : Bool) : State :=
  let s' := { s with pkts := tblDel s.pkts id }
  match p.src.waiter with
  | some who =>
    if s.holdsWait who id then
      s'.putWaiters (s'.flint.waiters ++ [⟨who, id, none, some a, take, .ge 0, s.now⟩])
    else s'
  | none => s'

/-- FE_HOME_TAKE. -/
def execFeHomeTake (id : Nat) (f : HomeFinding) (s : State) : Host.Outcome State Fault Refusal :=
  .next (s.serve id f (fun r => match r with | .feTake _ => true | _ => false) (fun s id p =>
    match p.req with
    | .feTake a =>
      if s.feFull a then
        let v := s.word a
        (s.setFull a false).answer id p { okRsp (leBytes 8 v.1) v.2 with flag := true }
      else s.waitWord id p a true
    | _ => s))

/-- FE_HOME_PEEK: waiting, or at once with the state of the word. -/
def execFeHomePeek (id : Nat) (f : HomeFinding) (s : State) : Host.Outcome State Fault Refusal :=
  .next (s.serve id f (fun r => match r with | .fePeek _ _ => true | _ => false) (fun s id p =>
    match p.req with
    | .fePeek a noWait =>
      if noWait || s.feFull a then
        let v := s.word a
        s.answer id p { okRsp (leBytes 8 v.1) v.2 with flag := s.feFull a }
      else s.waitWord id p a false
    | _ => s))

/-! ## The host's windows (R339 to R343) -/

/-- A write to a window travels to its home behind the host port's earlier writes. While UNSTRUCTURED the windows are closed (R511). -/
def State.winReq (s : State) (r : Req) : State := if s.unstructured then s else s.sendPkt .hostPort none r none

def State.winOp (s : State) (i : PortReq) (off : Nat) (m : HostMark) (r : Req) : State := s.postedOn i m off 4 (·.winReq r)

def execFlintWinAdd (obj : Nat) (v : Word32) (m : HostMark) (s : State) : Host.Outcome State Fault Refusal :=
  .next (s.winOp (.flintWinAdd obj v m) (0x300000 + 16 * obj) m (.flintAdd obj v.toNat))
def execFlintWinSub (obj : Nat) (v : Word32) (m : HostMark) (s : State) : Host.Outcome State Fault Refusal :=
  .next (s.winOp (.flintWinSub obj v m) (0x300004 + 16 * obj) m (.flintSub obj v.toNat))
def execFlintWinArrive (obj : Nat) (m : HostMark) (s : State) : Host.Outcome State Fault Refusal :=
  .next (s.winOp (.flintWinArrive obj m) (0x300008 + 16 * obj) m (.flintArrive obj))

/-- A clear of OVF and UNF; on a FREE or ABANDONED object it is ignored and counted. -/
def State.winClear (s : State) (obj : Nat) (v : Word32) : State :=
  let o := s.objView obj
  if s.unstructured then s
  else if o.state = 0 || o.abandoned then s.winIgnored
  else s.putObj obj { o with ovf := o.ovf && !v.getLsbD 6, unf := o.unf && !v.getLsbD 7, when' := s.now }

def execFlintWinClear (obj : Nat) (v : Word32) (m : HostMark) (s : State) : Host.Outcome State Fault Refusal :=
  .next (s.posted (.flintWinClear obj v m) m (0x30000C + 16 * obj) 4 (·.winClear obj v))

/-- A fill through the value-state window (R337, R342). -/
def State.winFill (s : State) (slot : Nat) (v : Word) : State := s.winReq (.feFill (s.flint.vsBase * 2 ^ 19 + 8 * slot) v.toNat false)

def execFeWinFill (slot : Nat) (v : Word) (m : HostMark) (s : State) : Host.Outcome State Fault Refusal :=
  .next (s.postedOn (.feWinFill slot v m) m (0x400000 + 16 * slot) 8 (·.winFill slot v))

/-- The state word of a window read (R342). -/
def feState (full pois : Bool) : Nat := b2n full + 2 * b2n pois

/-- FE_WIN_TAKE: an aligned 16-byte read of the take window, applied once at the home (R342, R343). -/
def execFeWinTake (slot : Nat) (pasid : Bool) (f : DramFinding) (s : State) : Host.Outcome State Fault Refusal :=
  .next (s.nonPosted (.feWinTake slot pasid f) pasid (fun s =>
    if s.unstructured then s.emit (.bytes (leBytes 16 0) false)
    else if !s.hostQuiet then s.hold (.feWinTake slot pasid f)
    else
      let a := s.flint.takeBase * 2 ^ 19 + 8 * slot
      if !(s.hostHeld a 8 false).isEmpty then (s.recallHost a 8 false).hold (.feWinTake slot pasid f)
      else
        let s := (s.dropFresh a 8).bulkFound [(a, 8)] f
        let v := s.word a
        if s.feFull a then (s.setFull a false).emit (.bytes (leBytes 8 v.1 ++ leBytes 8 (feState true v.2)) v.2)
        else s.emit (.bytes (leBytes 16 0) false)))

/-! ## CONTEXT_RESTORE (R353) -/

/-- One object leaves its image; outside its vein's range it is ABANDONED (R354). -/
def State.restoreObj (s : State) (v : Option Vein) (n : Nat) : State :=
  let o := s.objView n
  let s := { s with flint := { s.flint with objs := tblPut s.flint.objs n { o with state := 1 } } }.setObj n { o with state := 1 }
  let inRange := match v with
    | some v => decide (v.flintFirst ≤ n) && decide (n < v.flintFirst + v.flintCount)
    | none => false
  if inRange then s else s.abandon n

/-- An evicted context's objects are restored before its next task is dispatched. -/
def State.restoreCtx (s : State) (c : Nat) : State :=
  match s.ctx? c with
  | none => s
  | some x =>
    match x.evicted with
    | none => s
    | some _ =>
      let ns := (s.flint.objs.filter (fun e => e.2.state == 2 && e.2.owner == c)).map (·.1)
      (ns.foldl (fun s n => s.restoreObj (s.vein? x.vein) n) s).setCtx c { x with evicted := none }

/-- The ranges that hold the images of an evicted context's objects (R352). -/
def State.images (s : State) (c : Nat) : List (Nat × Nat) :=
  (s.flint.objs.filter (fun e => e.2.state == 2 && e.2.owner == c)).filterMap (fun e => (s.imageAt e.1).map (fun a => (a, 64)))

def execContextRestore (c : Nat) (f : DramFinding) (s : State) : Host.Outcome State Fault Refusal :=
  .next ((s.bulkFound (s.images c) f).restoreCtx c)

/-! ## FLINT_SLICE_FAULT (R359, R42) -/

/-- Every object homed for a quarry in use. -/
def State.homedIn (s : State) (q : Nat) : List Nat := (s.flint.objs.filter (fun e => e.1 / 2048 == q && e.2.state != 0)).map (·.1)

/-- The mirror's copies of objects and waits become the homes' state, and both quarries' objects run unmirrored. Operations not yet
acknowledged and wakes in flight stay on their way, each once (R358, R359). -/
def State.takeOverSlice (s : State) (q : Nat) : State :=
  let objs := s.flint.objs.filter (fun e => e.1 / 2048 != q)
  let objs := (s.flint.mirror.filter (fun e => e.1 / 2048 == q)).foldl (fun m e => tblPut m e.1 e.2) objs
  let here (w : Waiter) : Bool := match w.obj with
    | some n => n / 2048 == q
    | none => false
  let ws := s.flint.waiters.filter (fun w => !here w) ++ s.flint.mirrorWaiters.filter here
  { s with flint := { s.flint with
      objs := objs, moved := setIns s.flint.moved q, unmirrored := setIns (setIns s.flint.unmirrored q) (q ^^^ 4) } }.putWaiters ws

/-- A slice's state check fails: its mirror takes over, or, without a mirror, the objects that it serves are ABANDONED. -/
def execFlintSliceFault (quarry : Nat) (s : State) : Host.Outcome State Fault Refusal :=
  let other := quarry ^^^ 4
  .next (if setHas s.flint.moved quarry || decide (8 ≤ quarry) then s
    else if setHas s.flint.unmirrored quarry then
      let ns := s.homedIn quarry ++ (if setHas s.flint.moved other then s.homedIn other else [])
      let s := ns.foldl (fun s n => s.abandon n) s
      s.log .flintSliceLost .detected quarry noVein quarry noCtx 0 ns.length 0
    else
      let n := s.openNat % 1001
      let s := (s.takeOverSlice quarry).used
      s.log .flintTakeover .masked quarry noVein quarry noCtx n 2048 0)

end Sys2Proof.Machine
end

