-- ==== Sys2Proof/Machine/Owner.lean ====
section
/-! DEFINITION. Ownership (R15, R16, R516 to R525): who may write an owner-only register, claims, the lease, handovers, and
what a lapse and a change of epoch do to the block, the fabric port and the admin queue (R395, R450, R515, R523). -/

namespace Sys2Proof.Machine

/-! ## The path of a register write (R12, R516, R517) -/

/-- The registers that Quartz serves: ownership, the admin queue, the Strata status and report, the fault log (R488, R489). -/
def quartzServes (off : Nat) : Bool :=
  (decide (0x10000 ≤ off) && decide (off < 0x20020)) || (decide (0x30000 ≤ off) && decide (off < 0x40000))
    || (decide (0x100000 ≤ off) && decide (off < 0x141000))

/-- A register write arrives: from the host as a posted write, from the sideband in any block state while Quartz runs (R510, R517).
With both Quartz pairs lost nothing serves the registers of Quartz (R488). -/
def State.via (s : State) (i : PortReq) (w : Who) (off width : Nat) (f : State → State) : State :=
  match w with
  | .host => s.posted i ⟨false, false⟩ off width (fun s => if quartzServes off && s.blk.quartz.isNone then s else f s)
  | _ => if s.blk.quartz.isSome then f s else s

/-- The writer is the owner and carries the current epoch (R516, R522). -/
def State.isOwner (s : State) (w : Who) : Bool :=
  (decide (s.own.st = .held) || decide (s.own.st = .handover)) &&
    match w with
    | .host => decide (s.own.kind = .host) && s.own.hostEpoch == s.own.epoch
    | .sideband eid ep => decide (s.own.kind = .sideband) && eid == s.own.eid && ep == s.own.epoch
    | .remote eid ep => decide (s.own.kind = .remote) && eid == s.own.eid && ep == s.own.epoch

/-- An owner-only write is ignored and counted (R16, R519, R522). -/
def State.denied (s : State) : State := { s with own := { s.own with denied := satAdd 32 s.own.denied 1 } }

/-- A write to an RWO field (R16). -/
def State.rwo (s : State) (w : Who) (f : State → State) : State :=
  if s.isOwner w && decide (s.blk.state ≠ .halted) then f s else s.denied

/-- An owner-only register of BAR0. -/
def State.ownerWrite (s : State) (i : PortReq) (w : Who) (off : Nat) (f : State → State) : State := s.via i w off 8 (fun s => s.rwo w f)

/-! ## The admin queue leaves service (R364, R395, R523) -/

/-- The queue is disabled and empty. -/
def AdminQueue.disable (a : AdminQueue) : AdminQueue :=
  { a with enabled := false, baseWritten := false, tail := a.head, ownStall := false, running := none, disableAfter := false, recorded := none }

/-- The epoch changed: an entry still being fetched is dropped; a running command completes to the old ring first. -/
def State.ownerChanged (s : State) : State :=
  match s.adm.running with
  | none => { s with adm := s.adm.disable }
  | some k =>
    match s.task? k with
    | some x =>
      if decide (x.phase = .fetching) then { s with adm := s.adm.disable, tasks := tblDel s.tasks k }
      else { s with adm := { s.adm with tail := s.adm.head, disableAfter := true, recorded := none } }
    | none => { s with adm := s.adm.disable }

/-! ## Outbound operations end; nodes across devices are lost (R448, R450) -/

/-- An operation without a response is over; whether a put that was sent has been applied is open (R448). -/
def State.forgetOp (s : State) (id : Nat) (o : FabOp) : State :=
  let s' := { s with fab := { s.fab with ops := tblDel s.fab.ops id } }
  if !o.sent then s'.uncount o else if s.openNat % 2 = 0 then s'.used else s'.used.uncount o

/-- Operations without a response end with a failure. -/
def State.endOps (s : State) (p : FabOp → Bool) (st : RspSt) (log : Nat) : State :=
  ((s.fab.ops.filter (fun e => p e.2)).foldl (fun s e =>
    (s.forgetOp e.1 e.2).respond e.1
      { dst := e.2.src, task := e.2.task, st := st, value := e.2.device, remote := true, log := log, traps := e.2.valued }) s).flushUp

/-- Nodes whose parent or a child satisfies a condition on its device become ABANDONED (R354). -/
def State.abandonNodes (s : State) (p : Nat → Bool) : State :=
  let hit (e : Nat × Obj) : Bool :=
    let o := s.objView e.1
    o.state != 0 && o.barrier && ((o.hasParent && p o.parentDevice) ||
      (match (if o.childCount = 0 then none else s.childList o) with
        | some l => l.any (fun c => p c.1)
        | none => false))
  ((s.flint.objs.filter hit).map (·.1)).foldl (fun s n => s.abandon n) s

/-! ## Answers to inbound packets (R437, R440, R442) -/

/-- A sequence number of a queue pair is committed: the low mark moves past every committed number. -/
def advanceMark : Nat → Nat × NSet → Nat × NSet
  | 0, m => m
  | n + 1, m => if setHas m.2 m.1 then advanceMark n ((m.1 + 1) % 2 ^ 32, setDel m.2 m.1) else m

def State.commitSeq (s : State) (handle seq : Nat) : State :=
  let m := tblGet (0, []) s.fab.committed handle
  let m' := advanceMark (m.2.length + 1) (m.1, setIns m.2 (seq % 2 ^ 32))
  { s with fab := { s.fab with committed := tblPut s.fab.committed handle m' } }

/-- The channel of a queue pair of the entry (R431). -/
def DevEntry.channelOf (e : DevEntry) (handle : Nat) : Option Nat :=
  if e.qpBase ≤ handle ∧ handle < e.qpBase + e.qpCount then some ((e.channel + (handle - e.qpBase)) % 16) else none

/-- Answers leave oldest first, each against a RESPONSE credit of its channel. -/
def State.sendReplies (s : State) : State :=
  s.fab.inbound.foldl (fun s e =>
    match e.2.reply with
    | none => s
    | some r =>
      let cr := tblGet (0, 0) s.fab.credits e.2.channel
      if cr.2 = 0 then s
      else
        { s with fab := { s.fab with
            inbound := tblDel s.fab.inbound e.1
            credits := tblPut s.fab.credits e.2.channel (cr.1, cr.2 - 1) } }.emit (.response e.2.head.handle e.2.head.seq r.1 r.2.1 r.2.2)) s

/-- A packet held at the port is answered. -/
def State.reply (s : State) (id : Nat) (code : FabCode) (data : List Byte) (poison : List Bool) : State :=
  match tblFind s.fab.inbound id with
  | none => s
  | some p =>
    let s := s.commitSeq p.head.handle p.head.seq
    let s := if decide (code = .refused) then { s with fab := { s.fab with refused := satAdd 16 s.fab.refused 1 } } else s
    { s with fab := { s.fab with inbound := tblPut s.fab.inbound id { p with sent := true, reply := some (code, data, poison) } } }.sendReplies

/-- A packet that is not taken is answered: against a RESPONSE credit of its queue pair's channel, where the entry of its source gives it
one (R437), else at once. NOT_NOW commits nothing (R441). -/
def State.replyNow (s : State) (h : PacketHead) (code : FabCode) : State :=
  let f := s.fab
  let f := if decide (code = .notNow) then f
    else if decide (code = .refused) then { f with refused := satAdd 16 f.refused 1 }
    else { f with notReady := satAdd 16 f.notReady 1 }
  let s := { s with fab := f }
  let s := if decide (code = .notNow) then s else s.commitSeq h.handle h.seq
  match (s.devEntry? h.device).bind (fun e => e.channelOf h.handle) with
  | none => s.emit (.response h.handle h.seq code [] [])
  | some ch =>
    (State.bump { s with fab := { s.fab with
        inbound := tblPut s.fab.inbound s.nextId ⟨h, 0, .read 0 0 false, false, [], ch, true, true, some (code, [], [])⟩ } }).sendReplies

/-- A packet that the port holds is turned away: it leaves the port unapplied, and is answered (R442, R450). -/
def State.turnAway (s : State) (id : Nat) (code : FabCode) : State :=
  match tblFind s.fab.inbound id with
  | none => s
  | some p => { s with fab := { s.fab with inbound := tblDel s.fab.inbound id } }.replyNow p.head code

/-- Inbound packets that no home has begun to apply are answered ORPHANED, so that none of them is applied later (R450, R451). -/
def State.orphanInbound (s : State) : State :=
  let begun (id : Nat) : Bool := s.pkts.any (fun e => decide (e.2.src = .fabric id) && e.2.begun)
  let applying (e : Nat × InPkt) : Bool := e.2.reply.isSome || begun e.1 || s.rsps.any (fun r => decide (r.2.dst = .fabric e.1))
  let gone := ((s.fab.inbound.filter (fun e => !applying e)).map (·.1))
  gone.foldl (fun s id => s.turnAway id .orphaned)
    { s with pkts := s.pkts.filter (fun e => !gone.any (fun id => decide (e.2.src = .fabric id))) }

/-- The block becomes ORPHANED (R450, R515, R524). -/
def State.enterOrphaned (s : State) : State :=
  let s := s.setBlk .orphaned
  let me := s.fab.self
  ((s.endOps (fun _ => true) .peerLost 0).orphanInbound).abandonNodes (fun d => d != me)

/-- The state by STRUCTURE (R515). -/
def State.serviceState (s : State) : BlkSt := if s.structured then .structured else .unstructured

/-! ## Claims (R518, R521) -/

/-- A full lease from now. -/
def State.leaseFromNow (s : State) : Nat := s.now + s.own.leaseMs * msTicks

/-- A claim is accepted. -/
def State.claimOk (s : State) (kind : OwnKind) (eid : BitVec 8) (epoch : BitVec 32) : Bool :=
  match s.own.st with
  | .vacant | .lapsed => decide (s.own.epoch.toNat < epoch.toNat)
  | .handover => decide (s.own.succKind = kind) && (decide (kind = .host) || s.own.succEid == eid)
      && decide (epoch.toNat = s.own.epoch.toNat + 1)
  | .held => false

def State.claim (s : State) (kind : OwnKind) (eid : BitVec 8) (epoch : BitVec 32) : State × Bool :=
  if s.claimOk kind eid epoch then
    let s := { s with
      own := { s.own with
        st := .held, kind := kind, eid := if kind = OwnKind.host then 0 else eid, succKind := .none, succEid := 0, epoch := epoch
        leaseEnd := s.leaseFromNow, suspended := false, hostEpoch := if kind = OwnKind.host then epoch else s.own.hostEpoch }
      blk := { s.blk with resumeOrphaned := false } }
    let s := s.ownerChanged
    (if decide (s.blk.state = .orphaned) then s.setBlk s.serviceState else s, true)
  else (s.denied, false)

/-- OWN_CLAIM: the host's claim. -/
def execOwnClaim (epoch : BitVec 32) (s : State) : Host.Outcome State Fault Refusal :=
  .next (s.via (.ownClaim epoch) .host 0x10008 8 (fun s => (s.claim .host 0 epoch).1))

/-- CLAIM: a message; the response gives WON or LOST (R517). A host claims by OWN_CLAIM alone. -/
def execClaim (w : Who) (s : State) : Host.Outcome State Fault Refusal :=
  .next (if s.blk.quartz.isNone then s
    else match w with
      | .host => s
      | .sideband eid ep =>
        let r := s.claim .sideband eid ep
        r.1.emit (.claimResult r.2)
      | .remote eid ep =>
        let r := s.claim .remote eid ep
        r.1.emit (.claimResult r.2))

/-! ## The lease (R519, R520) -/

/-- OWN_RENEW: before the tick on which the lease ends. -/
def execOwnRenew (w : Who) (epoch : BitVec 32) (s : State) : Host.Outcome State Fault Refusal :=
  .next (s.ownerWrite (.ownRenew w epoch) w 0x10020 (fun s =>
    if epoch == s.own.epoch && decide (s.now < s.own.leaseEnd) then
      { s with own := { s.own with renewed := epoch, leaseEnd := s.leaseFromNow } }
    else s.denied))

/-- LEASE_LAPSE: the lease runs out. -/
def execLeaseLapse (s : State) : Host.Outcome State Fault Refusal :=
  .next (if (decide (s.own.st = .held) || decide (s.own.st = .handover)) && !s.own.suspended && decide (s.own.leaseEnd ≤ s.now) then
      let s := { s with own := { s.own with st := .lapsed, succKind := .none, succEid := 0 } }
      match s.blk.state with
      | .unstructured | .structured => s.enterOrphaned
      | .halted | .sleep => { s with blk := { s.blk with resumeOrphaned := true } }
      | .orphaned => s
    else s)

/-! ## Handover (R521) -/

/-- OWN_HANDOVER: the owner names a successor; KIND 0 cancels. -/
def execOwnHandover (w : Who) (v : Word) (s : State) : Host.Outcome State Fault Refusal :=
  .next (s.ownerWrite (.ownHandover w v) w 0x10028 (fun s =>
    let kind := OwnKind.ofCode (bits v.toNat 0 2)
    let eid := if kind = .host ∨ kind = .none then 0#8 else BitVec.ofNat 8 (bits v.toNat 8 8)
    let own := { s.own with hoKind := kind, hoEid := eid, succKind := kind, succEid := eid }
    if kind = .none then { s with own := { own with st := .held } }
    else { s with own := { own with st := .handover, hoEnd := s.now + 100 * msTicks } }))

/-- HANDOVER_LAPSE: 100 ms without the successor's claim. -/
def execHandoverLapse (s : State) : Host.Outcome State Fault Refusal :=
  .next (if decide (s.own.st = .handover) && decide (s.own.hoEnd ≤ s.now) then
      { s with own := { s.own with st := .held, succKind := .none, succEid := 0 } }
    else s)

end Sys2Proof.Machine
end

