-- ==== Sys2Proof/Machine/Queues.lean ====
section
/-! DEFINITION. The queues (R363 to R398): doorbells, fetch, the checks of an entry, halts, dispatch, deadlines. -/

namespace Sys2Proof.Machine

/-! ## Tasks of a queue -/

/-- A task whose completion is written and globally observed, or that is gone, is over (R380). -/
def Task.over (x : Task) : Bool := decide (x.phase = .written) && x.unseen.isEmpty
def State.over (s : State) (k : Nat) : Bool :=
  match s.task? k with
  | some x => x.over
  | none => true

/-- A task before its dispatch. -/
def Task.undispatched (x : Task) : Bool := decide (x.phase = .fetching) || decide (x.phase = .waiting) || decide (x.phase = .ready)

/-- The head stops at a registered wait-before and at a WAIT (R373). -/
def Task.stopsHead (x : Task) : Bool :=
  decide (x.phase = .waiting) || ((match x.body with
    | .waitObject _ _ | .waitWord _ => true
    | _ => false) && !(decide (x.phase = .ended) || decide (x.phase = .due) || decide (x.phase = .written)))

/-- A LAUNCH that waits for its tiles has not been dispatched to them (R136, R373). -/
def Task.launchWaits (x : Task) : Bool :=
  decide (x.phase = .dispatched) && (match x.body with
    | .launch _ => true
    | _ => false)

/-- The entry was malformed: once its completion is written and its interrupt sent, its queue halts (R389, R390). -/
def Task.malformed (x : Task) : Bool := x.faults.any (fun f => f.2.cause == 0x40)

/-- The tasks of a queue in ring order. -/
def State.queueTasks (s : State) (q : WorkQueue) : List (Nat × Task) :=
  q.order.filterMap (fun k => (s.task? k).map (fun x => (k, x)))

/-- The body is an inline write, which the sequencer makes itself (R376). -/
def WorkBody.isInline : WorkBody → Bool
  | .copyInline _ _ _ => true
  | _ => false

/-- What a vein's sequencer has written, completions and inline data, is globally observed: its next release may leave (R295, R344, R345). -/
def State.releasable (s : State) (v : Nat) : Bool :=
  s.tasks.all (fun e => e.2.queue.isNone || e.2.vein != v || !(decide (e.2.phase = .written) || e.2.body.isInline) || e.2.unseen.isEmpty)

/-- A queue with nothing submitted and no task in flight (R65, R398). -/
def State.queueIdle (s : State) (q : WorkQueue) : Bool := q.head == q.tail && (s.queueTasks q).all (fun e => e.2.over)

/-- A task as it is created at the fetch of an entry. -/
def mkTask (queue : Option Nat) (index context vein : Nat) (bell : Nat × Nat) : Task :=
  { queue := queue, index := index, context := context, vein := vein, opcode := 0, tag := 0, flags := 0, body := .nop, admin := none
    budget := none, start := bell.1, rung := bell.2, sigObj := none, waitBefore := none, phase := .fetching, faults := [], late := false, bytes := 0
    result := 0, segs := [], unseen := [], engine := none, tiles := [], stopping := false, trapped := 0, waitSeq := none, ticks := 0
    bodySent := false, source := [], srcLines := [] }

/-! ## Ring failures (R364) -/

/-- A fetch or a completion write failed: the queue halts, no completion is written for the entry. `why`: 0 XLAT_FAULT, 1 poisoned
data, 2 owner tag, 3 remote operation. -/
def State.ringFailed (s : State) (k why : Nat) : State :=
  match s.task? k with
  | none => s
  | some x =>
    let s := { s.dropStream (.sequencer k) with tasks := tblDel s.tasks k }
    let s := s.log .queueHalted .detected noQuarry (match x.queue with
      | some _ => x.vein
      | none => noVein) (queueNo x.queue) (match x.queue with
      | some _ => x.context
      | none => noCtx) 0 x.index why
    match x.queue with
    | some q => s.modQueue q (fun y => { y with halted := true, abort := none, order := y.order.filter (fun i => i != k) })
    | none => { s with adm := { s.adm with enabled := false, baseWritten := false, ringFailed := true, running := none, disableAfter := false } }

/-! ## Where a ring lies (R363, R382) -/

/-- What the admin side of the block reaches at an address of a SPACE (R382). -/
def State.reachSpace (s : State) (src : Src) (host : Bool) (addr : Nat) (write : Bool) : Reach :=
  if host then s.reachHost src s.admPasid addr write else .to (.device addr false) none

/-- Where an entry's byte lies. -/
def State.reachRing (s : State) (k : Nat) (x : Task) (o : Nat) (write : Bool) : Reach :=
  match x.queue with
  | some q =>
    match s.queue? q, s.ctx? x.context with
    | some y, some c => s.reach (.sequencer k) x.context c.segs (y.ring + 256 * x.index + o) write
    | _, _ => .outside
  | none => s.reachSpace (.sequencer k) s.adm.space (4096 * s.adm.addr + 256 * x.index + o) write

/-- A translation that a ring access misses is asked for (R274); a page that is not present is requested (R276). -/
def State.askRing (s : State) (k : Nat) (x : Task) (write : Bool) : State :=
  match x.queue with
  | some q =>
    match s.queue? q with
    | some y => s.askXlate (.sequencer k) (s.pasidOf x.context) (hostAddr (y.ring + 256 * x.index)) write true
    | none => s
  | none => s.askXlate (.sequencer k) s.admPasid (hostAddr (4096 * s.adm.addr + 256 * x.index)) write true

/-! ## ENTRY_FETCH (R366, R372) -/

/-- Nothing is fetched in these states (R390, R395, R476, R524), nor while a reset is under way (R428). -/
def State.fetchOpen (s : State) (adminToo : Bool) : Bool :=
  !s.host.retry && !s.blk.halting && match s.blk.state with
  | .halted | .sleep | .orphaned => false
  | .unstructured => adminToo && !s.blk.sleepAsked
  | .structured => !s.blk.sleepAsked

/-- A queue with an entry to fetch: at most 16 ahead of its oldest undispatched entry, its head not stopped, by a malformed entry either. -/
def State.fetchable (s : State) (n : Nat) (q : WorkQueue) : Bool :=
  let ts := (s.queueTasks q).map (·.2)
  let ahead := (ts.dropWhile (fun x => !(x.undispatched || x.launchWaits))).length
  s.fetchOpen false && n < 4096 && !setHas s.blk.fetchHold q.vein && (!(q.halted || ts.any (·.malformed)) || q.abort.isSome) && !q.ownStall && q.head != q.tail
    && !ts.any (fun x => decide (x.phase = .fetching)) && (q.abort.isSome || !ts.any (·.stopsHead)) && decide (ahead ≤ 16)
    && (match q.abort with
      | some e => q.head != e
      | none => true)

/-- The queue that the front end serves next: the highest priority, round-robin in queue order. -/
def State.nextQueue (s : State) : Option Nat :=
  let c := s.queues.filter (fun e => s.fetchable e.1 e.2)
  let top := c.foldl (fun p e => Nat.max p e.2.prio) 0
  let c := c.filter (fun e => e.2.prio == top)
  let last := tblGet 4096 s.blk.lastServed top
  match c.find? (fun e => decide (last < e.1)) with
  | some e => some e.1
  | none => (c.head?).map (·.1)

/-- The read of an entry's first line begins: a remote ring is asked for it (R452), a host ring is translated. -/
def State.askLine (s : State) (k : Nat) (o n : Nat) : State :=
  match s.task? k with
  | none => s
  | some x =>
    match s.reachRing k x o false with
    | .to (.remote d a) _ => s.fabSend (mkFab d (.sequencer k) x.context (some k) 1 a (List.replicate n 0) false 0 0)
    | .miss => s.askRing k x false
    | _ => s

/-- The tick of the doorbell that covers the head entry, and its place in the order of arrival (R136, R392). -/
def bellOf (bells : List Bell) (now : Nat) : Nat × Nat :=
  match bells with
  | b :: _ => (b.tick, b.serial)
  | [] => (now, 0)

/-- One covered entry has been taken from the ring. -/
def bellTake : List Bell → List Bell
  | b :: bs => if b.left ≤ 1 then bs else { b with left := b.left - 1 } :: bs
  | [] => []

/-- The fetch of a work queue's head entry begins; its deadline starts at the doorbell that covers it (R392). -/
def State.beginFetch (s : State) (n : Nat) : State :=
  match s.queue? n with
  | none => s
  | some q =>
    let k := s.nextId
    let s := s.setQueue n { q with order := q.order ++ [k] }
    let s := { s with blk := { s.blk with lastServed := tblPut s.blk.lastServed q.prio n } }
    (s.setTask k (mkTask (some n) q.head q.context q.vein (bellOf q.bells s.now))).bump.askLine k 0 64

/-- The admin queue fetches one entry at a time. -/
def State.beginAdmin (s : State) : State :=
  let k := s.nextId
  let s := { s with adm := { s.adm with running := some k } }
  (s.setTask k (mkTask none s.adm.head noCtx noVein (bellOf s.adm.bells s.now))).bump.askLine k 0 64

/-- The admin queue is served while a Quartz pair runs (R488). -/
def State.adminReady (s : State) : Bool := s.fetchOpen true && s.blk.quartz.isSome && s.adm.enabled && s.adm.head != s.adm.tail && s.adm.running.isNone

def execEntryFetch (q : Option Nat) (s : State) : Host.Outcome State Fault Refusal :=
  .next (match q with
    | some n => if decide (s.nextQueue = some n) then s.beginFetch n else s
    | none => if s.adminReady && !s.adm.ownStall then s.beginAdmin else s)

/-- A stalled head is read again (R366). -/
def State.reread (s : State) (q : Option Nat) : State :=
  match q with
  | some n =>
    match s.queue? n with
    | some y =>
      if y.ownStall && s.fetchable n { y with ownStall := false } then s.beginFetch n else s
    | none => s
  | none => if s.adminReady && s.adm.ownStall then s.beginAdmin else s

def execOwnStallRetry (q : Option Nat) (s : State) : Host.Outcome State Fault Refusal := .next (s.reread q)

/-! ## WORK_DOORBELL (R365, R409, R478, R498) -/

/-- An ignored doorbell is counted. -/
def State.dbIgnored (s : State) : State := { s with blk := { s.blk with dbIgnored := satAdd 32 s.blk.dbIgnored 1 } }

/-- A new tail is accepted: it covers the entries from the old tail. -/
def State.ring (s : State) (n t : Nat) : State :=
  match s.queue? n with
  | none => s
  | some q =>
    if q.tail = t then s
    else
      let more := (t + 2 ^ q.log2 - q.tail) % 2 ^ q.log2
      (s.setQueue n { q with tail := t, bells := (if q.head = q.tail then [] else q.bells) ++ [⟨more, s.now, s.nextId⟩] }).bump.reread (some n)

def execWorkDoorbell (off width : Nat) (v : Word) (m : HostMark) (s : State) : Host.Outcome State Fault Refusal :=
  let n := off / 4096
  let t := v.toNat % 2 ^ 16
  .next (s.posted (.workDoorbell off width v m) m off width (fun s =>
    match s.queue? n with
    | none => s.dbIgnored
    | some q =>
      if decide (s.blk.state = .halted) || width != 8 || off % 4096 != 0 || decide (2 ^ q.log2 ≤ t) then s.dbIgnored
      else if decide (s.blk.state = .sleep) || s.flt.selfTest then s.setQueue n { q with recorded := some t }
      else s.ring n t))

/-! ## The admin queue's registers (R396, R397) -/

/-- A write that the queue's own rules ignore. -/
def State.cfgIgnored (s : State) : State := { s with adm := { s.adm with cfgIgnored := true } }

/-- Configuration is taken while the queue is empty or failed. -/
def AdminQueue.open' (a : AdminQueue) : Bool := (a.head == a.tail && a.running.isNone) || a.ringFailed

def execAdmqBase (w : Who) (v : Word) (s : State) : Host.Outcome State Fault Refusal :=
  let space := bit v.toNat 0
  let addr := v.toNat / 4096
  .next (s.ownerWrite (.admqBase w v) w 0x20000 (fun s =>
    if !s.adm.open' || (!space && decide (2 ^ 28 ≤ addr)) then s.cfgIgnored
    else { s with adm := { s.adm with space := space, addr := addr, baseWritten := true } }))

def execAdmqSize (w : Who) (v : Word) (s : State) : Host.Outcome State Fault Refusal :=
  let n := bits v.toNat 0 5
  .next (s.ownerWrite (.admqSize w v) w 0x20008 (fun s =>
    if !s.adm.open' || !(n == 0 || (decide (4 ≤ n) && decide (n ≤ 16))) then s.cfgIgnored
    else
      let a := { s.adm with
        log2 := n, vector := bits v.toNat 16 11, intr := bit v.toNat 27, pasid := bits v.toNat 32 20, pasidValid := bit v.toNat 52 }
      if n = 0 then { s with adm := { a with enabled := false, baseWritten := false } }
      else if a.baseWritten then
        { s with adm := { a with enabled := true, head := 0, tail := 0, bells := [], ringFailed := false, ownStall := false } }
      else { s with adm := a }))

/-- A new admin tail is accepted. -/
def State.admRing (s : State) (t : Nat) : State :=
  if s.adm.tail = t then s
  else
    let more := (t + 2 ^ s.adm.log2 - s.adm.tail) % 2 ^ s.adm.log2
    (State.bump { s with adm := { s.adm with
        tail := t, bells := (if s.adm.head = s.adm.tail then [] else s.adm.bells) ++ [⟨more, s.now, s.nextId⟩] } }).reread none

def execAdmqDoorbell (w : Who) (v : Word) (s : State) : Host.Outcome State Fault Refusal :=
  let t := v.toNat % 2 ^ 16
  .next (s.ownerWrite (.admqDoorbell w v) w 0x20010 (fun s =>
    if !s.adm.enabled || decide (2 ^ s.adm.log2 ≤ t) then s.cfgIgnored
    else if decide (s.blk.state = .sleep) || s.flt.selfTest then { s with adm := { s.adm with recorded := some t } }
    else s.admRing t))

/-! ## The head moves (R366, R384) -/

/-- One entry has been taken from the ring. -/
def WorkQueue.advance (q : WorkQueue) : WorkQueue :=
  { q with
    head := (q.head + 1) % 2 ^ q.log2, ownStall := false
    bells := bellTake q.bells }

/-- A queue is aborted: its undrained entries and its tasks are all over (R384). -/
def State.aborted (s : State) (n : Nat) : Bool :=
  match s.queue? n with
  | none => true
  | some q => (match q.abort with
      | some e => q.head == e
      | none => true) && q.order.isEmpty

/-- The last step of R390: the block halts once no task of a work queue is left. -/
def State.settleHalt (s : State) : State :=
  if s.blk.halting && s.tasks.all (fun e => e.2.queue.isNone) then
    { s with blk := { s.blk with halting := false }, adm := { s.adm with haltCause := true } }.setBlk .halted
  else s

/-- The admin command that aborts a queue ends once every completion it caused has been written; so does a halt of the block. -/
def State.settleAbort (s : State) : State :=
  let s := s.settleHalt
  match s.adm.running with
  | none => s
  | some k =>
    match s.task? k with
    | none => s
    | some x =>
      if decide (x.phase ≠ .running) then s
      else
        let clear (y : WorkQueue) : WorkQueue := { y with abort := none }
        match x.admin with
        | some (.abortQueue n) => if s.aborted n then (s.modQueue n clear).finish k else s
        | some (.resetQueue n i) =>
          if s.aborted n then
            (s.modQueue n (fun y => { clear y with head := i, tail := i, bells := [], halted := false, ownStall := false, recorded := none })).finish k
          else s
        | some (.destroyQueue n) => if s.aborted n then ({ s with queues := tblDel s.queues n }).finish k else s
        | _ => s

/-! ## BLOCK_HALT (R390) -/

/-- Every task of a work queue in flight stops; an entry that is only being fetched is not taken. -/
def State.abortAll (s : State) (st : Status) (d : Detail) : State :=
  let gone := (s.tasks.filter (fun e => e.2.queue.isSome && decide (e.2.phase = .fetching))).map (·.1)
  let s := gone.foldl (fun s k => s.dropStream (.sequencer k)) s
  let s := { s with
    tasks := s.tasks.filter (fun e => !gone.contains e.1)
    queues := s.queues.map (fun (e : Nat × WorkQueue) => (e.1, { e.2 with order := e.2.order.filter (fun i => !gone.contains i) })) }
  s.stopTasks (fun _ => true) st d

/-- The malformed admin entry's completion is written: nothing more is fetched, every task in flight aborts, and the block halts once their
completions are written. -/
def State.blockHalt (s : State) (index : Nat) : State :=
  let s := s.log .adminHalt .detected noQuarry noVein 0 noCtx 0 index 0
  ({ s with blk := { s.blk with halting := true } }.abortAll .aborted abortDetail).settleHalt

/-! ## Deadlines (R391 to R393) -/

/-- The budget that applies to a task: the first of R391; 0 means none. -/
def State.budgetOf (s : State) (q : WorkQueue) (flags budget : Nat) : Option Nat :=
  let b := if budget ≠ 0 then budget else if q.budget ≠ 0 then q.budget else match s.vein? q.vein with
    | some v => v.deadline
    | none => 0
  if flagNoDeadline flags || b = 0 then none else some b

/-- A deadline is missed: logged, counted, marked; with ABORT_ON_LATE the task stops, unless it is due (R393). -/
def State.missDeadline (s : State) (k : Nat) : State :=
  match s.task? k with
  | none => s
  | some x =>
    match x.budget with
    | none => s
    | some b =>
      if x.late || !s.passed x.start b || decide (x.phase = .written) || decide (x.phase = .fetching) then s
      else
        let s := s.log .deadline .notice noQuarry x.vein (queueNo x.queue) x.context 0 x.index b
        let seq := s.entrySeq .deadline noQuarry (queueNo x.queue)
        let s := { s with blk := { s.blk with lateCount := satAdd 64 s.blk.lateCount 1 } }
        let s := s.modTask k (fun x => { x with late := true })
        if flagAbort x.flags && decide (x.phase ≠ .due) then s.stopTask k .aborted (mkDetail 0x43 (some b) 0 seq) else s

/-- DEADLINE_MISS: nothing is late that became due before its budget had passed. -/
def execDeadlineMiss (k : Nat) (s : State) : Host.Outcome State Fault Refusal :=
  .next (match s.task? k with
    | some x => if decide (x.phase = .due) && decide (x.ticks < (x.budget).getD 0) then s else s.missDeadline k
    | none => s)

/-! ## ENTRY_FETCHED (R364, R366, R388, R389, R390) -/

/-- What a read of a part of an entry found. -/
inductive LineRead where
  | notYet | failed (why : Nat) | bytes (b : List Byte)
deriving DecidableEq, Repr

/-! ## A sequencer's entry cache (R235, R237) -/

/-- The line that a sequencer's enabled entry cache returns for an address without looking at memory: one that it kept while it was
disabled, until memory changes again. -/
def State.keptLine (s : State) (n a : Nat) : Option (List Byte) :=
  if setHas s.blk.privOff (1024 + n) then none
  else ((tblGet [] s.blk.entryCache n).find? (fun l => l.line == a / 128 && decide (l.seen = some (s.readLatest (a / 128 * 128) 128)))).map
    (·.bytes)

/-- Lines that a read brings into an enabled entry cache of 64 lines; the oldest leave. -/
def State.cacheEntries (s : State) (n a len : Nat) : State :=
  if setHas s.blk.privOff (1024 + n) then s
  else
    let old := tblGet [] s.blk.entryCache n
    let new := (sectorsOf a len).filter (fun l => old.all (fun e => e.line != l))
    let ls := old ++ new.map (fun l => (⟨l, [], none⟩ : EntryLine))
    { s with blk := { s.blk with entryCache := tblPut s.blk.entryCache n (ls.drop (ls.length - 64)) } }

/-- Bytes of an entry in this block's memory, by way of the entry cache of the queue's sequencer; Quartz reads the admin ring. -/
def State.readEntry (s : State) (k : Nat) (x : Task) (a n : Nat) (checked : Bool) : State × LineRead :=
  let kept (b : Nat) : Option (List Byte) := if x.queue.isSome then s.keptLine x.vein b else none
  let byte (i : Nat) : Byte := match kept (a + i) with
    | some l => nth 0 l ((a + i) % 128)
    | none => s.latestByte (a + i)
  let bs := (List.range n).map byte
  if (sectorsOf a n).all (fun l => (kept (128 * l)).isSome) then (s, .bytes bs)
  else if checked && !s.rangePass (some x.context) a n then (s.logRefused (.sequencer k) (some x.context) a 0, .failed 2)
  else if !(s.hostHeld a n false).isEmpty then (s.recallHost a n false, .notYet)
  else
    let p := s.readPoison a n
    let s := s.dropFresh a n
    if p then (s, .failed 1) else (if x.queue.isSome then s.cacheEntries x.vein a n else s, .bytes bs)

/-- Bytes of an entry: device memory is read at its home, host bytes come with the command, a remote ring's are in its responses. -/
def State.readRing (s : State) (k : Nat) (x : Task) (o n : Nat) (host : HostData) : State × LineRead :=
  match s.reachRing k x o false with
  | .to (.device a checked) _ =>
    s.readEntry k x a n checked
  | .to (.host _ io) _ =>
    if !s.hostAnswers io host then (s, .notYet)
    else
      let s := s.awake
      match host with
      | .data bs p =>
        if bs.length < o + n then (s, .notYet)
        else if p then (if io then s.aer 12 else s, .failed 1)
        else (s, .bytes ((bs.drop o).take n))
      | .timedOut => (s.aer 14, .failed 1)
      | .refused => (s, .failed 0)
  | .to (.remote _ _) _ =>
    let rs := s.rsps.filter (fun e => decide (e.2.dst = .sequencer k))
    match (if o = 0 then rs.head? else (rs.drop 1).head?) with
    | none => (s, .notYet)
    | some r => (s, if decide (r.2.st ≠ .ok) then .failed 3 else if r.2.poisoned then .failed 1 else .bytes r.2.data)
  | .miss => (s.askRing k x false, .notYet)
  | .held => (s, .notYet)
  | .outside | .noRight => (s, .failed 0)

/-- The head entry was found with OWN = 0: the head stalls, or an aborted queue skips the entry. -/
def State.ownZero (s : State) (k : Nat) (x : Task) : State :=
  let s := ({ s with tasks := tblDel s.tasks k }).takeRsps (.sequencer k)
  match x.queue with
  | some n =>
    (s.modQueue n (fun q =>
      let q := { q with order := q.order.filter (fun i => i != k) }
      if q.abort.isSome then q.advance else { q with ownStall := true })).settleAbort
  | none => { s with adm := { s.adm with ownStall := true, running := none } }

/-- A wait of the sequencer goes to the object's home (R344); its sequence number is the packet's. -/
def State.registerWait (s : State) (k obj : Nat) (c : Cond) : State :=
  match s.task? k with
  | none => s
  | some x =>
    let id := s.nextId
    (s.sendPkt (.sequencer k) (some x.context) (.flintWait obj c) (some k)).modTask k (fun y => { y with waitSeq := some (id, s.now) })

/-- A whole work entry has been read: it is checked in full, and completes at once, waits, or is ready for dispatch. -/
def State.entryRead (s : State) (k n : Nat) (x : Task) (q : WorkQueue) (e : List Byte) : State :=
  let segs := match s.ctx? x.context with
    | some c => c.segs
    | none => []
  let flags := field e 2 2
  let s := s.modQueue n WorkQueue.advance
  let y := { x with
    opcode := field e 1 1, tag := field e 4 4, flags := flags % 64, body := .nop, segs := segs
    budget := s.budgetOf q flags (field e 0x08 5)
    sigObj := if flagSignal flags then some (field e 0x10 2 % 2 ^ 14) else none }
  let down := mkDetail 0x47 (some x.vein) 0 (s.entrySeq .domainDown noQuarry x.vein)
  match s.vein? x.vein with
  | none => (s.setTask k y).failTask k .domainDown down
  | some v =>
    if setHas s.blk.veinDown x.vein then (s.setTask k y).failTask k .domainDown down
    else if q.abort.isSome then ((s.setTask k y).failTask k .aborted abortDetail).settleAbort
    else match s.malformedAt (some v) segs e with
      | some off =>
        (s.setTask k { y with sigObj := none, budget := none }).failTask k .malformed (mkDetail 0x40 (some off) 0 0)
      | none =>
        let wait := if flagWait flags then some (field e 0x18 2 % 2 ^ 14, condOf (bits (field e 0x18 2) 14 2) (field e 0x1C 4)) else none
        let y := { y with body := workBody e, waitBefore := wait, phase := if wait.isSome then .waiting else .ready }
        let s := (s.setTask k y).missDeadline k
        match wait, (s.task? k).map (·.phase) with
        | some (obj, c), some Phase.waiting => s.registerWait k obj c
        | _, _ => s

/-- A whole admin entry has been read. -/
def State.adminRead (s : State) (k : Nat) (x : Task) (e : List Byte) : State :=
  let s := { s with adm := { s.adm with head := (s.adm.head + 1) % 2 ^ s.adm.log2, ownStall := false, bells := bellTake s.adm.bells } }
  let y := { x with opcode := field e 1 1, tag := field e 4 4, flags := field e 2 2 % 64 }
  match s.malformedAt none [] e with
  | some off => (s.setTask k y).failTask k .malformed (mkDetail 0x40 (some off) 0 0)
  | none => s.setTask k { y with admin := some (adminBody e), phase := .ready }

/-- The lines of an entry have been read. -/
def State.entryFetched (s : State) (q : Option Nat) (host : HostData) : State :=
  match s.tasks.find? (fun e => decide (e.2.queue = q) && decide (e.2.phase = .fetching)) with
  | none => s
  | some (k, x) =>
    match s.readRing k x 0 64 host with
    | (r, .notYet) => r
    | (r, .failed why) => ((r.takeRsps (.sequencer k)).ringFailed k why).settleAbort
    | (s, .bytes a) =>
      if !bit (field a 0 1) 0 then s.ownZero k x
      else
        let remote := match s.reachRing k x 0 false with
          | .to (.remote _ _) _ => true
          | _ => false
        let pending := s.fab.ops.any (fun e => decide (e.2.src = .sequencer k))
        let asked := decide (1 < (s.rsps.filter (fun e => decide (e.2.dst = .sequencer k))).length)
        if remote && !pending && !asked then s.askLine k 64 192
        else match s.readRing k x 64 192 host with
          | (s, .notYet) => s
          | (s, .failed why) => ((s.takeRsps (.sequencer k)).ringFailed k why).settleAbort
          | (s', .bytes b) =>
            let segs := match s.ctx? x.context with
              | some c => c.segs
              | none => []
            -- a child list that the entry is checked with is read like any other data (R310, R328)
            let ps := if x.queue.isSome then s.configList segs (a ++ b) else []
            if ps.any (fun p => !(s.hostHeld p.1 p.2 false).isEmpty) then ps.foldl (fun s p => s.recallHost p.1 p.2 false) s
            else
              let s := (s'.takeRsps (.sequencer k)).dropGrants (.sequencer k)
              match q with
              | none => s.adminRead k x (a ++ b)
              | some n => match s.queue? n with
                | some y => ps.foldl (fun s p => s.dropFresh p.1 p.2) (s.entryRead k n x y (a ++ b))
                | none => s

/-- What the codes found where an entry lies in this block's memory (R246, R257). -/
def State.entryFound (s : State) (q : Option Nat) (f : DramFinding) : State :=
  match s.tasks.find? (fun e => decide (e.2.queue = q) && decide (e.2.phase = .fetching)) with
  | none => s
  | some (k, x) =>
    match s.reachRing k x 0 false with
    | .to (.device a _) _ => if (s.hostHeld a 256 false).isEmpty then s.bulkFound [(a, 256)] f else s
    | _ => s

def execEntryFetched (q : Option Nat) (host : HostData) (f : DramFinding) (s : State) : Host.Outcome State Fault Refusal :=
  .next ((s.entryFound q f).entryFetched q host)

/-! ## ENTRY_DISPATCH (R373, R380) -/

/-- A FENCE of the queue before this entry holds it, with the entries that the FENCE covers (R380). -/
def fenced (before : List (Nat × Task)) : Bool :=
  before.any (fun e => (match e.2.body with
    | .fence _ => true
    | _ => false) && !(decide (e.2.phase = .ended) || decide (e.2.phase = .due) || decide (e.2.phase = .written)))

/-- A condition of R373 and R380 that an entry still waits for. -/
def State.mayDispatch (s : State) (k : Nat) (x : Task) (q : WorkQueue) : Bool :=
  let before := (s.queueTasks q).takeWhile (fun e => e.1 != k)
  before.all (fun e => !e.2.undispatched) && !fenced before
    && (!flagSerial x.flags || before.all (fun e => e.2.over))
    && (match x.body with
      | .timestamp => !before.any (·.2.launchWaits)
      | _ => true)

/-- The entries that a FENCE covers: every earlier one of its queue, and with VEIN every one of the vein that has been dispatched. -/
def State.covered (s : State) (k : Nat) (x : Task) (q : WorkQueue) : NSet :=
  let mine := ((s.queueTasks q).takeWhile (fun e => e.1 != k)).map (·.1)
  match x.body with
  | .fence true => (s.tasks.filter (fun e => mine.contains e.1 || (e.1 != k && e.2.queue.isSome && e.2.vein == x.vein
      && !e.2.undispatched && !e.2.launchWaits))).map (·.1)
  | .fence false => mine
  | _ => x.tiles

/-- The entry is handed to its engines; the command's own row then runs it. New work of an evicted context finds its objects restored
(R353), and takes the segment set of its dispatch (R267). -/
def execEntryDispatch (k : Nat) (s : State) : Host.Outcome State Fault Refusal :=
  .next (match s.task? k with
    | none => s
    | some x =>
      if decide (x.phase ≠ .ready) then s
      else
        let r := if x.opcode = 0x20 then s.now else x.result
        match x.queue with
        | none => if decide (s.adm.running = some k) then s.setTask k { x with phase := .dispatched, result := r } else s
        | some n =>
          match s.queue? n with
          | none => s
          | some q =>
            if s.host.retry || decide (s.blk.state = .halted) || decide (s.blk.state = .sleep) || !s.mayDispatch k x q then s
            else
              let s := s.restoreCtx x.context
              let segs := match s.ctx? x.context with
                | some c => c.segs
                | none => x.segs
              s.setTask k { x with phase := .dispatched, segs := segs, result := r, tiles := s.covered k x q })

end Sys2Proof.Machine
end

