-- ==== Sys2Proof/Machine/Completion.lean ====
section
/-! DEFINITION. Completions (R38, R323, R364, R369 to R371, R394): the 64 bytes, their write into the ring, the interrupt and the
after-completion signal. -/

namespace Sys2Proof.Machine

/-! ## The bytes of a completion (R369, R370) -/

/-- COUNT of a fault detail: the tiles that trapped, the tiles lost, the overruns of the task. -/
def Task.detailCount (x : Task) (d : Detail) : Nat :=
  if 1 ≤ d.cause ∧ d.cause ≤ 0x15 ∧ d.logical.isSome then x.trapped
  else if d.cause = 0x42 then (x.faults.filter (fun f => f.2.cause == 0x42)).foldl (fun n f => n + f.2.count) 0
  else if d.cause = 0x45 then (x.faults.filter (fun f => f.2.cause == 0x45)).length
  else d.count

/-- Bytes 0x20 to 0x3F. -/
def Task.detailBytes (x : Task) : List Byte :=
  match x.detail with
  | none => leBytes 32 0
  | some d =>
    leBytes 1 d.cause ++ leBytes 1 (b2n d.logical.isSome + 2 * b2n d.pc.isSome + 4 * b2n d.address.isSome) ++
      leBytes 2 (d.logical.getD 0) ++ leBytes 4 (x.detailCount d) ++ leBytes 8 (d.pc.getD 0) ++ leBytes 8 (d.address.getD 0) ++ leBytes 8 d.logSeq

/-- Word 0: OWN is 0. -/
def Task.word0 (x : Task) : List Byte :=
  leBytes 1 0 ++ leBytes 1 x.opcode ++ leBytes 1 x.status.code ++ leBytes 1 (b2n x.late + 2 * b2n x.detail.isSome) ++ leBytes 4 x.tag

/-- Bytes 0x08 to 0x3F. -/
def Task.completionBody (x : Task) : List Byte :=
  leBytes 8 x.ticks ++ leBytes 8 x.bytes ++ leBytes 8 x.result ++ x.detailBytes

/-! ## TASK_COMPLETION (R323, R364, R371) -/

/-- The completion is in its ring; an admin completion is told over the sideband (R517). -/
def State.completed (s : State) (k : Nat) (x : Task) (ids : NSet) : State :=
  let s := s.modTask k (fun y => { y with phase := .written, unseen := ids })
  match x.queue with
  | some _ => s
  | none => if s.adm.intr && !flagNoIntr x.flags then s.emit (.event 0 x.index) else s

/-- Tiles that a launch has left take the changes asked for at a boundary (R493, R496). -/
def State.freeTileChanges (s : State) : State :=
  (s.tiles.filter (fun e => e.2.task.isNone && (e.2.retireAsked || e.2.rotateAsked))).foldl (fun s e => s.boundaryChange e.1) s

/-- The completion is written: at once into device memory, body first; elsewhere its body first, and word 0 once that is observed. -/
def State.writeCompletion (s : State) (k : Nat) (x : Task) : State :=
  match s.reachRing k x 0 true with
  | .to (.device a checked) _ =>
    if checked && !s.rangePass (some x.context) a 64 then (s.logRefused (.sequencer k) (some x.context) a 1).ringFailed k 2
    else if !(s.hostHeld a 64 true).isEmpty then s.recallHost a 64 true
    else if s.lockedFor none a 64 then s
    else
      let u := s.qcUseOf x.vein (if checked then some x.context else none) a true
      ((s.homeStore none (a + 8) x.completionBody false u).homeStore none a x.word0 false u).completed k x []
  | .to d _ =>
    let part := if x.bodySent then (0, x.word0) else (8, x.completionBody)
    let d' : Dest := match d with
      | .device a c => .device (a + part.1) c
      | .host a io => .host (a + part.1) io
      | .remote dev a => .remote dev (a + part.1)
    let s' := s.sendWrite (.sequencer k) x.context (some k) d' part.2 false none
    let ids := idsBetween s s'
    if x.bodySent then (s'.dropGrants (.sequencer k)).completed k x ids else s'.modTask k (fun y => { y with bodySent := true, unseen := ids })
  | .miss => s.askRing k x true
  | .held => s
  | .outside | .noRight => s.ringFailed k 0

def execTaskCompletion (k : Nat) (s : State) : Host.Outcome State Fault Refusal :=
  .next (match s.task? k with
    | none => s
    | some x =>
      if !(decide (x.phase = .due) && x.unseen.isEmpty) then s
      else
        let late := match x.budget with
          | some b => decide (b ≤ x.ticks)
          | none => false
        let s := if late then s.missDeadline k else s
        let s := s.freeTileChanges
        match s.task? k with
        | some x => (s.writeCompletion k x).settleAbort
        | none => s)

/-! ## COMPLETION_INTERRUPT (R38, R344, R394) -/

/-- An admin command is over: its queue may leave service with it (R523). -/
def State.adminOver (s : State) (k : Nat) : State :=
  if decide (s.adm.running = some k) then
    if s.adm.disableAfter then { s with adm := s.adm.disable } else { s with adm := { s.adm with running := none } }
  else s

/-- A sideband owner holds the block (R517). -/
def State.sidebandOwner (s : State) : Bool :=
  (decide (s.own.st = .held) || decide (s.own.st = .handover)) && (decide (s.own.kind = .sideband) || decide (s.own.kind = .remote))

def execCompletionInterrupt (k : Nat) (s : State) : Host.Outcome State Fault Refusal :=
  .next (match s.task? k with
    | none => s
    | some x =>
      if !x.over || (x.sigObj.isSome && !s.releasable x.vein) then s
      else
        let s := { s with tasks := tblDel s.tasks k }
        match x.queue with
        | none =>
          let s := if s.adm.intr && !flagNoIntr x.flags && !s.sidebandOwner then s.sendVector s.adm.vector else s
          if x.malformed then (s.adminOver k).blockHalt x.index else s.adminOver k
        | some n =>
          let s := match s.queue? n with
            | some q => if q.intr && !flagNoIntr x.flags then s.sendVector q.vector else s
            | none => s
          let s := s.modQueue n (fun q => { q with halted := q.halted || x.malformed, order := q.order.filter (fun i => i != k) })
          let s := match x.sigObj with
            | some o => if x.status = Status.malformed then s else s.sendPkt (.veinSeq x.vein) (some x.context) (.flintAdd o 1) none
            | none => s
          s.settleAbort)

end Sys2Proof.Machine
end

