-- ==== Sys2Proof/Machine/WorkCommands.lean ====
section
/-! DEFINITION. Work commands (R35, R328, R329, R344, R376 to R381): NOP, TIMESTAMP, the data commands on copy engines, the Flint
commands, FLUSH and FENCE. A command runs once ENTRY_DISPATCH has handed it to its engines. -/

namespace Sys2Proof.Machine

/-- A task of a work queue that has been dispatched. -/
def State.onWork (s : State) (k : Nat) (f : Task → State) : State :=
  match s.task? k with
  | some x => if decide (x.phase = .dispatched) && x.queue.isSome then f x else s
  | none => s

/-- NOP and TIMESTAMP run on both kinds of queue (R374, R381). RESULT of TIMESTAMP was taken at dispatch. -/
def execNop (k : Nat) (s : State) : Host.Outcome State Fault Refusal :=
  .next (match s.task? k with
    | some x => if decide (x.phase = .dispatched) && x.opcode == 0x00 then s.finish k else s
    | none => s)

def execTimestamp (k : Nat) (s : State) : Host.Outcome State Fault Refusal :=
  .next (match s.task? k with
    | some x => if decide (x.phase = .dispatched) && x.opcode == 0x20 then s.finish k else s
    | none => s)

/-! ## COPY, FILL, COPY_INLINE, COPY_COMPLETE (R35, R376) -/

/-- The quarry whose copy engines run a transfer: that of its source data in device memory, else of its destination, else of the
vein's sequencer (R33, R35). -/
def State.copyQuarry (s : State) (k : Nat) (x : Task) (src : Option Nat) (dst : Nat) : Nat :=
  let at' (va : Nat) (w : Bool) : Option Nat := match s.reach (.copy k) x.context x.segs va w with
    | .to (.device a _) _ => some (s.stackOf a)
    | _ => none
  match src.bind (fun a => at' a false), at' dst true with
  | some q, _ => q
  | none, some q => q
  | none, none => x.vein / 4

/-- Gets of the parts of a source that lie on other devices, in address order (R434). -/
def State.sendGets (s : State) (k : Nat) (x : Task) (src len : Nat) : State :=
  (chunks4K src len).foldl (fun s p =>
    match s.reach (.copy k) x.context x.segs p.2.1 false with
    | .to (.remote dev a) _ => s.fabSend (mkFab dev (.copy k) x.context (some k) 1 a (List.replicate p.2.2 0) false 0 0)
    | _ => s) s

/-- A transfer starts on an engine in service of its quarry, whose source-line cache is empty; without one it waits. -/
def State.startCopy (s : State) (k : Nat) (x : Task) (src : Option Nat) (dst len : Nat) : State :=
  let q := s.copyQuarry k x src dst
  match (s.quarry q).engines with
  | [] => s
  | e :: es =>
    let source := match src with
      | some a => (chunks4K a len).filterMap (fun p => match s.reach (.copy k) x.context x.segs p.2.1 false with
        | .to (.device d _) _ => some (d, p.2.2)
        | _ => none)
      | none => []
    let s' := s.used.setTask k { x with phase := .running, engine := some (q, nth e (e :: es) (s.openNat % (es.length + 1))), source := source }
    match src with
    | some a => ((s'.sendGets k x a len).askRange (.copy k) x.context a len false).askRange (.copy k) x.context dst len true
    | none => s'.askRange (.copy k) x.context dst len true

def execCopy (k : Nat) (s : State) : Host.Outcome State Fault Refusal :=
  .next (s.onWork k (fun x => match x.body with
    | .copy src dst len _ => s.startCopy k x (some src) dst len
    | _ => s))

def execFill (k : Nat) (s : State) : Host.Outcome State Fault Refusal :=
  .next (s.onWork k (fun x => match x.body with
    | .fill dst len _ => s.startCopy k x none dst len
    | _ => s))

/-- Data of a host range that came with the command: bytes with poison, or the failure that the task takes (R275, R411, R422, R425). -/
def State.hostBytes (s : State) (k n : Nat) (pa : Nat) (io : Bool) (h : HostData) : State × Option (List (Byte × Bool)) :=
  match h with
  | .data bs p => (if io && p then s.aerAdvisory 12 else s, some (flagged ((bs ++ List.replicate (n - bs.length) 0).take n) p))
  | .timedOut =>
    let bs := s.openBytes n
    ({ s with free := s.free + n }.aer 14, some (flagged bs true))
  | .refused =>
    if io then
      let bs := s.openBytes n
      ({ s with free := s.free + n }.taskFault k .refusedP2p (mkDetail 0x4C (some pa) 0 0), some (flagged bs true))
    else (s, none)

/-- What one part of a source gave. -/
inductive PartRead where
  | bytes (b : List (Byte × Bool))
  | refused (a : Nat)
  | failed (r : Rsp)
  | hostFailed (va : Nat)
deriving DecidableEq, Repr

/-- The parts of a copy's source in address order; `gets` are the responses not yet used, `host` the host's bytes by position. -/
def State.sourceParts (s : State) (k : Nat) (x : Task) (host : Option (List (Byte × Bool))) :
    List (Nat × Nat × Nat) → List (Nat × Rsp) → List (Nat × PartRead)
  | [], _ => []
  | p :: ps, gets =>
    match s.reach (.copy k) x.context x.segs p.2.1 false with
    | .to (.device a checked) _ =>
      let r := if checked && !s.rangePass (some x.context) a p.2.2 then .refused a else .bytes (s.copyBytes x a p.2.2)
      (p.2.2, r) :: s.sourceParts k x host ps gets
    | .to (.remote _ _) _ =>
      match gets with
      | g :: gs =>
        let r := if decide (g.2.st ≠ .ok) then .failed g.2
          else .bytes g.2.flagged
        (p.2.2, r) :: s.sourceParts k x host ps gs
      | [] => []
    | _ =>
      let r := match host with
        | some bs => .bytes ((bs.drop p.1).take p.2.2)
        | none => .hostFailed p.2.1
      (p.2.2, r) :: s.sourceParts k x host ps gets

/-- The bytes before the first part that failed, and that part. -/
def goodPrefix : List (Nat × PartRead) → List (Byte × Bool) × Option PartRead
  | [] => ([], none)
  | (_, .bytes b) :: ps =>
    let r := goodPrefix ps
    (b ++ r.1, r.2)
  | (_, r) :: _ => ([], some r)

/-- Poisoned output of a copy: the task completes with POISONED_OUTPUT (R121, R370). -/
def State.notePoison (s : State) (k : Nat) (va : Nat) (bs : List (Byte × Bool)) : State :=
  match bs.findIdx? (·.2) with
  | some i => s.taskFault k .poisonedOutput (mkDetail 0x4A (some (va + i)) 0 0)
  | none => s

/-- Flagged bytes go to the destination; the command's engine is done (R260, R376). -/
def State.landCopy (s : State) (k : Nat) (x : Task) (dst : Nat) (bs : List (Byte × Bool)) (stash : Option Nat) : State :=
  let r := s.engineWrite (.copy k) x.context x.segs (some k) dst bs stash
  let s := (r.1.notePoison k dst bs).modTask k (fun y => { y with bytes := y.bytes + r.2 })
  ((s.takeRsps (.copy k)).modTask k (fun y => { y with source := [], srcLines := [] })).finish k

/-- The destination, and the source, are translated and free of the host's copies, with room in the directory for a stash; else what is
missing is asked for. -/
def State.copyReady (s : State) (k : Nat) (x : Task) (src : Option (Nat × Nat)) (dst len : Nat) (stash : Option Nat) : State × Bool :=
  let c := x.context
  let e := Src.copy k
  let room (s : State) : State × Bool := match s.stashRoom e c x.segs dst len stash with
    | some b => (s.recallBlock b, false)
    | none => (s, true)
  match src with
  | some (a, _) =>
    if !s.ready e c a len false then (s.askRange e c a len false, false)
    else if !s.ready e c dst len true then (s.askRange e c dst len true, false)
    else if !s.hostClear e c x.segs a len false then (s.recallRange e c x.segs a len false, false)
    else if !s.hostClear e c x.segs dst len true then (s.recallRange e c x.segs dst len true, false)
    else room s
  | none =>
    if !s.ready e c dst len true then (s.askRange e c dst len true, false)
    else if !s.hostClear e c x.segs dst len true then (s.recallRange e c x.segs dst len true, false)
    else room s

/-- COPY_COMPLETE: the last chunk of a COPY or FILL. A copy stops at the first part that fails; bytes already written stay. -/
def execCopyComplete (k : Nat) (host : HostData) (f : DramFinding) (s : State) : Host.Outcome State Fault Refusal :=
  .next (match s.task? k with
    | none => s
    | some x =>
      if decide (x.phase ≠ .running) || s.sourcesHeld then s
      else match x.body with
        | .copy src dst len stash =>
          match s.copyReady k x (some (src, len)) dst len stash with
          | (r, false) => r
          | (s, true) =>
            if s.fab.ops.any (fun e => decide (e.2.src = .copy k) && e.2.kind == 1) || !s.answersOf (.copy k) x.context x.segs src len host then s
            else
              let io := match s.reach (.copy k) x.context x.segs src false with
                | .to (.host _ io) _ => io
                | _ => false
              let h := if isHostVa src then s.hostBytes k len (s.hostPa (.copy k) x.context x.segs src) io host else (s, some [])
              let s := h.1
              let s := s.bulkFound (s.deviceParts (.copy k) x.context x.segs src len false) f
              let gets := s.rsps.filter (fun e => decide (e.2.dst = .copy k))
              let r := goodPrefix (s.sourceParts k x h.2 (chunks4K src len) gets)
              let s := (s.deviceParts (.copy k) x.context x.segs src len false).foldl (fun s p => s.dropFresh p.1 p.2) s
              let s := match r.2 with
                | some (.refused a) =>
                  let s := s.logRefused (.copy k) (some x.context) a 0
                  s.taskFault k .accessDenied (s.refusedDetail (.copy k) a)
                | some (.failed q) => s.taskFault k q.st.status q.detail
                | some (.hostFailed va) => s.taskFault k .xlatFault (mkDetail 0x46 (some va) 0 0)
                | _ => s
              s.landCopy k x dst r.1 stash
        | .fill dst len pat =>
          match s.copyReady k x none dst len none with
          | (r, false) => r
          | (s, true) => s.landCopy k x dst ((List.range len).map (fun i => (nth 0 pat (i % 8), false))) none
        | _ => s)

/-- COPY_INLINE: the sequencer writes the payload itself. -/
def execCopyInline (k : Nat) (s : State) : Host.Outcome State Fault Refusal :=
  .next (s.onWork k (fun x => match x.body with
    | .copyInline dst bs stash =>
      let e := Src.sequencer k
      if s.sourcesHeld then s
      else if !s.ready e x.context dst bs.length true then s.askRange e x.context dst bs.length true
      else if !s.hostClear e x.context x.segs dst bs.length true then s.recallRange e x.context x.segs dst bs.length true
      else match s.stashRoom e x.context x.segs dst bs.length stash with
      | some b => s.recallBlock b
      | none =>
        let r := s.engineWrite e x.context x.segs (some k) dst (flagged bs false) stash
        (r.1.modTask k (fun y => { y with bytes := y.bytes + r.2 })).finish k
    | _ => s))

/-! ## SIGNAL, BARRIER_ARRIVE, WAIT (R328, R329, R344, R346) -/

/-- A task of the vein's sequencer that waits for earlier Flint operations of that sequencer on an object: they reach its home first
(R29, R333). -/
def State.flintBehind (s : State) (k n : Nat) : Bool :=
  s.pkts.any (fun e => decide (e.2.req.object = some n) && s.sender e.2.src == s.sender (.sequencer k))

/-- An operation leaves for its object's home; the task ends, and completes once the home has applied it. -/
def State.sendOp (s : State) (k : Nat) (x : Task) (dev : Option Nat) (r : Req) (kind obj amount : Nat) : State :=
  if !s.releasable x.vein then s
  else
  let s' := match dev with
    | none => s.sendPkt (.sequencer k) (some x.context) r (some k)
    | some d => s.fabSend (mkFab d (.sequencer k) x.context (some k) kind obj [] false amount 0)
  s'.modTask k (fun y => { y with phase := .ended, unseen := idsBetween s s' })

def execSignalAdd (k : Nat) (s : State) : Host.Outcome State Fault Refusal :=
  .next (s.onWork k (fun x => match x.body with
    | .signalAdd dev obj n => s.sendOp k x dev (.flintAdd obj n) 4 obj n
    | _ => s))

def execSignalSub (k : Nat) (s : State) : Host.Outcome State Fault Refusal :=
  .next (s.onWork k (fun x => match x.body with
    | .signalSub dev obj n => s.sendOp k x dev (.flintSub obj n) 5 obj n
    | _ => s))

def execBarrierArrive (k : Nat) (s : State) : Host.Outcome State Fault Refusal :=
  .next (s.onWork k (fun x => match x.body with
    | .barrierArrive dev obj => s.sendOp k x dev (.flintArrive obj) 6 obj 0
    | _ => s))

/-- An object as CONFIGURE leaves it (R328, R341). -/
def configured (b : ConfigBody) (c now : Nat) : Obj :=
  { value := b.value, limit := b.limit, barrier := b.barrier, unbounded := b.unbounded, state := 1
    above := !b.barrier && b.limit != 0 && decide (b.limit ≤ b.value), owner := c, vector := b.vector, notify := b.notify
    parentDevice := b.parentDevice, parentObject := b.parentObject, hasParent := b.hasParent, childCount := b.childCount
    childList := b.childList, when' := now }

/-- SIGNAL CONFIGURE by the state of the object before (R328). -/
def execSignalConfigure (k : Nat) (s : State) : Host.Outcome State Fault Refusal :=
  .next (s.onWork k (fun x => match x.body with
    | .signalConfigure n b =>
      let o := s.obj n
      let mine := o.state == 1 && o.owner == x.context
      if s.flintBehind k n then s
      else if o.state == 0 || (s.objView n).abandoned || (mine && !s.flint.waiters.any (fun w => decide (w.obj = some n))) then
        ({ s with flint := { s.flint with childReads := setDel s.flint.childReads n } }.setObj n (configured b x.context s.now)).finish k
      else if mine then s.failTask k .busy noDetail
      else s.failTask k .accessDenied (mkDetail 0x0A (some n) 0 0)
    | _ => s))

/-- SIGNAL FREE: waiters wake with ABANDONED (R329). -/
def execSignalFree (k : Nat) (s : State) : Host.Outcome State Fault Refusal :=
  .next (s.onWork k (fun x => match x.body with
    | .signalFree n =>
      let o := s.obj n
      if s.flintBehind k n then s
      else if o.state == 1 && o.owner == x.context then
        let ws := s.flint.waiters.filter (fun w => decide (w.obj = some n))
        let s := ws.foldl (fun s w => s.wake w o.value true false) s
        ({ s with flint := { s.flint with childReads := setDel s.flint.childReads n } }.setObj n { when' := s.now }).finish k
      else s.failTask k .accessDenied (mkDetail 0x0A (some n) 0 0)
    | _ => s))

/-- WAIT: registered at the home of the object or the word; a word that is not on this block, or cannot be read, is refused. -/
def execWait (k : Nat) (s : State) : Host.Outcome State Fault Refusal :=
  .next (s.onWork k (fun x => match x.body with
    | .waitObject obj c => (s.setTask k { x with phase := .running }).registerWait k obj c
    | .waitWord va =>
      match findSeg x.segs va with
      | some g =>
        if g.device = s.fab.self ∧ g.r then
          let id := s.nextId
          (s.sendPkt (.sequencer k) (some x.context) (.fePeek (g.local' va) false) (some k)).setTask k
            { x with phase := .running, waitSeq := some (id, s.now) }
        else s.failTask k .accessDenied (mkDetail 0x07 (some va) 0 0)
      | none => s.failTask k .accessDenied (mkDetail 0x06 (some va) 0 0)
    | _ => s))

/-! ## FLUSH, FENCE (R238, R379, R380) -/

/-- The physical tiles that serve a vein's logical ids. -/
def State.veinTiles (s : State) (v : Nat) : List Nat :=
  match s.vein? v with
  | some x => (List.range x.tileCount).filterMap (fun i => s.served (x.tileFirst + i))
  | none => []

/-- A launch of the vein is running. -/
def State.launchRuns (s : State) (v : Nat) : Bool :=
  s.tasks.any (fun e => e.2.vein == v && decide (e.2.phase = .running) && (match e.2.body with
    | .launch _ => true
    | _ => false))

/-- The device ranges that a QUARRY flush names. -/
def State.flushRanges (s : State) (x : Task) (range len : Nat) : List (Nat × Nat) :=
  if len = 0 then
    match s.vein? x.vein with
    | some v => (v.ranges.map (fun r => (List.range r.count).map (fun i => ((r.first + i) * 2 ^ 21, 2 ^ 21)))).flatten
    | none => []
  else (chunks4K range len).filterMap (fun p => match findSeg x.segs p.2.1 with
    | some g => if g.device = s.fab.self then some (g.local' p.2.1, p.2.2) else none
    | none => none)

/-- The lines of ranges, those that still wait for their insertion too (R245), are written to DRAM, and with INVALIDATE leave the quarry
caches. -/
def State.flushQuarry (s : State) (ps : List (Nat × Nat)) (inv : Bool) : State :=
  let hit (l : Nat) : Bool := ps.any (fun p => decide (p.1 / 128 ≤ l) && decide (l ≤ (p.1 + p.2 - 1) / 128))
  let lines : Tbl QcLine := if inv then s.qc.lines.filter (fun e => !hit e.1)
    else s.qc.lines.map (fun (e : Nat × QcLine) => if hit e.1 then (e.1, { e.2 with dirty := false }) else e)
  let queue := (s.qc.queue.map (fun e => (e.1, e.2.filter (fun x => !hit x.1)))).filter (fun e => !e.2.isEmpty)
  { s with qc := { s.qc with lines := lines, queue := queue } }

/-- FLUSH: TILES with INVALIDATE waits until no launch of the vein runs, and as a running task holds the vein's launches back. `par`: what
parity found in the dirty lines of tile `t` (R233); a vein that goes down ends its task. -/
def execFlush (k t : Nat) (par : CacheParity) (s : State) : Host.Outcome State Fault Refusal :=
  .next (match s.task? k with
    | none => s
    | some x =>
      if !(decide (x.phase = .dispatched) || decide (x.phase = .running)) then s
      else match x.body with
        | .flush tiles quarry inv range len =>
          if tiles && inv && s.launchRuns x.vein then
            s.setTask k { x with phase := .running }
          else
            let ts := s.veinTiles x.vein
            let r := if tiles && ts.contains t then s.parityChecks t (s.tile t).dirtyLines par else (s, true)
            if !r.2 then r.1
            else
              let s := if tiles then ts.foldl (fun s t => if inv then s.cycleTileCache t else s.flushTile t) r.1 else r.1
              let s := if quarry then s.flushQuarry (s.flushRanges x range len) inv else s
              s.finish k
        | _ => s)

/-- FENCE completes once every entry that it covers has completed. -/
def execFence (k : Nat) (s : State) : Host.Outcome State Fault Refusal :=
  .next (s.onWork k (fun x => match x.body with
    | .fence _ => if x.tiles.all (fun i => s.over i) then s.finish k else s
    | _ => s))

end Sys2Proof.Machine
end

