-- ==== Sys2Proof/Machine/AdminCommands.lean ====
section
/-! DEFINITION. Admin commands on queues, contexts, segments and Flint state (R267, R352, R356, R364, R382 to R385). A command acts
once its entry has been dispatched; where several statuses apply the first of R387 is given. -/

namespace Sys2Proof.Machine

/-- The running admin command. `early`: it runs without a structure; any other then completes with BUSY (R383). -/
def State.onAdmin (s : State) (early : Bool) (f : Nat → AdminBody → State) : State :=
  match s.adm.running with
  | none => s
  | some k =>
    match s.task? k with
    | none => s
    | some x =>
      match x.admin, x.phase with
      | some b, .dispatched => if early || s.structured then f k b else s.failTask k .busy noDetail
      | _, _ => s

/-- The first of some conditions that holds gives the status; else the command is granted. -/
def State.grant (s : State) (k : Nat) (l : List (Bool × Status)) (f : State) : State :=
  match l.find? (·.1) with
  | some c => s.failTask k c.2 noDetail
  | none => f

/-! ## Queues (R364, R383, R384) -/

/-- A ring that R364 allows: aligned, and in segment space wholly in Normal, untagged segments, not Mica-resident, with R and W. -/
def ringOk (segs : Tbl Segment) (ring len : Nat) : Bool :=
  ring % 4096 == 0 && inReach segs (fun g => g.r && g.w && !g.isDevice && !g.tagged && !g.mica) ring len

def execCreateQueue (s : State) : Host.Outcome State Fault Refusal :=
  .next (s.onAdmin false (fun k b => match b with
    | .createQueue n c log2 prio vector intr ring budget =>
      match s.ctx? c with
      | none => s.failTask k .accessDenied noDetail
      | some x =>
        let held := (s.queues.filter (fun e => e.2.vein == x.vein)).length
        let quota := match s.vein? x.vein with
          | some v => v.queueQuota
          | none => 0
        s.grant k [(!ringOk x.segs ring (256 * 2 ^ log2), .accessDenied), ((s.queue? n).isSome || decide (quota ≤ held), .busy)]
          ((s.setQueue n ⟨c, x.vein, prio, log2, ring, vector, intr, budget, 0, 0, false, false, [], [], none, none⟩).finish k)
    | _ => s))

/-- A queue is aborted up to its tail; the command runs until every completion that this causes is written. -/
def State.abortQueue (s : State) (k n : Nat) : State :=
  match s.queue? n with
  | none => s.failTask k .accessDenied noDetail
  | some q =>
    let s := (s.setQueue n { q with abort := some q.tail, ownStall := false }).modTask k (fun x => { x with phase := .running })
    (s.stopTasks (fun x => decide (x.queue = some n) && decide (x.phase ≠ .fetching)) .aborted abortDetail).settleAbort

def execDestroyQueue (s : State) : Host.Outcome State Fault Refusal :=
  .next (s.onAdmin false (fun k b => match b with
    | .destroyQueue n => s.abortQueue k n
    | _ => s))

def execResetQueue (s : State) : Host.Outcome State Fault Refusal :=
  .next (s.onAdmin false (fun k b => match b with
    | .resetQueue n _ => s.abortQueue k n
    | _ => s))

def execAbortQueue (s : State) : Host.Outcome State Fault Refusal :=
  .next (s.onAdmin false (fun k b => match b with
    | .abortQueue n => s.abortQueue k n
    | _ => s))

/-! ## Contexts (R352, R383, R385) -/

def execCreateContext (s : State) : Host.Outcome State Fault Refusal :=
  .next (s.onAdmin false (fun k b => match b with
    | .createContext c vein pasid =>
      match s.vein? vein with
      | none => s.failTask k .accessDenied noDetail
      | some v =>
        let held := (s.ctxs.filter (fun e => e.2.vein == vein)).length
        s.grant k [((s.ctx? c).isSome || decide (v.contextQuota ≤ held), .busy)] ((s.setCtx c ⟨vein, pasid, [], none⟩).finish k)
    | _ => s))

/-- The local granules of a segment (R264). -/
def State.segGranules (s : State) (g : Segment) : List Nat :=
  if g.device = s.fab.self then (List.range g.gran).map (fun i => granOf g.plocal + (if g.step8 then 8 * i else i)) else []

/-- The segment reaches a granule. -/
def State.segHasGran (s : State) (g : Segment) (n : Nat) : Bool :=
  g.device == s.fab.self &&
    (let o := n - granOf g.plocal
     decide (granOf g.plocal ≤ n) && (if g.step8 then o % 8 == 0 && decide (o / 8 < g.gran) else decide (o < g.gran)))

/-- Some segment of the contexts maps a granule. -/
def State.mapped (s : State) (n : Nat) : Bool := s.ctxs.any (fun c => c.2.segs.any (fun e => s.segHasGran e.2 n))

/-- Owner tags change by GRANULE_TAG_CHANGE; without one the command is done. -/
def State.askTags (s : State) (k : Nat) (l : List (Nat × BitVec 16)) : State :=
  let ch := l.foldl (fun (m : Tbl (BitVec 16)) (e : Nat × BitVec 16) => tblPut m e.1 e.2) s.mem.changes
  ({ s with mem := { s.mem with changes := ch } }.modTask k (fun x => { x with phase := .running })).changesDone

def execDestroyContext (s : State) : Host.Outcome State Fault Refusal :=
  .next (s.onAdmin false (fun k b => match b with
    | .destroyContext c =>
      match s.ctx? c with
      | none => s.failTask k .accessDenied noDetail
      | some x =>
        s.grant k [(s.queues.any (fun e => e.2.context == c), .busy)] (
          let s := s.restoreCtx c
          let s := (s.ownedBy c).foldl (fun s n => s.abandon n) s
          let s := { s with ctxs := tblDel s.ctxs c, xlat := { s.xlat with placed := s.xlat.placed.filter (fun p => p.context != c) } }
          let gs := (x.segs.map (fun e => s.segGranules e.2)).flatten ++
            (s.mem.tags.filter (fun e => e.2 == BitVec.ofNat 16 (0x8000 + c))).map (·.1)
          s.askTags k ((gs.filter (fun g => !s.mapped g && s.tagOf g != 0)).map (fun g => (g, 0))))
    | _ => s))

/-- A task of a context that is in flight. -/
def State.ctxBusy (s : State) (c : Nat) : Bool := s.tasks.any (fun e => e.2.queue.isSome && e.2.context == c && !e.2.over)

/-- A registered wait belongs to a context. -/
def State.waiterOf (s : State) (c : Nat) (w : Waiter) : Bool :=
  match w.who with
  | .tile t => decide ((s.tile t).context = some c)
  | .task k => match s.task? k with
    | some x => x.context == c
    | none => false

/-- EVICT_CONTEXT: each object that the context owns is written to the image and becomes EVICTED. One that a partial load put outside the
vein's range has no record in the image's area and stays at its home, ABANDONED (R70, R352; DEDUCED, assumption 75). -/
def execEvictContext (s : State) : Host.Outcome State Fault Refusal :=
  .next (s.onAdmin false (fun k b => match b with
    | .evictContext c image =>
      match s.ctx? c with
      | none => s.failTask k .accessDenied noDetail
      | some x =>
        let v := s.vein? x.vein
        let n := 64 * ((v.map (·.flintCount)).getD 0)
        let first := (v.map (·.flintFirst)).getD 0
        let areaOk := n = 0 || inSlots x.segs (fun g => g.device == s.fab.self && g.w && !g.tagged && !g.mica) image n
        let busy := s.ctxBusy c || s.flint.waiters.any (fun w => s.waiterOf c w)
        s.grant k [(!areaOk, .accessDenied), (busy, .busy)] (
          let src := Src.quartz
          if !s.hostClear src c x.segs image n true then s.recallRange src c x.segs image n true
          else
            let s := s.restoreCtx c
            let s := ((s.ownedBy c).filter (fun o => decide (first ≤ o) && decide (64 * (o - first) < n))).foldl (fun s o =>
              match findSeg x.segs (image + 64 * (o - first)) with
              | some g =>
                let y := s.obj o
                (s.homeStore none (g.local' (image + 64 * (o - first))) (s.record o y) false).setObj o { y with state := 2 }
              | none => s) s
            (s.setCtx c { x with evicted := some ⟨image, first⟩ }).finish k)
    | _ => s))

/-! ## SET_SEGMENT (R261, R264, R267) -/

/-- Two ranges of segment space share a byte. -/
def Segment.overlaps (a b : Segment) : Bool :=
  decide (a.vbase < b.vbase + b.gran * 2 ^ 21) && decide (b.vbase < a.vbase + a.gran * 2 ^ 21)

/-- A slot is removed, shrunk or moved. -/
def Segment.cuts (old new : Segment) : Bool :=
  new.gran == 0 || decide (new.gran < old.gran) || new.vbase != old.vbase || new.device != old.device || new.plocal != old.plocal
    || new.step8 != old.step8

/-- Its rights, policy or attributes change. -/
def Segment.differs (old new : Segment) : Bool :=
  new.r != old.r || new.w != old.w || new.x != old.x || new.isDevice != old.isDevice || new.policy != old.policy
    || new.tagged != old.tagged || new.mica != old.mica || new.shared != old.shared

/-- A launch, copy or Mica command of a context in flight (R267). -/
def State.workOf (s : State) (c : Nat) : Bool :=
  s.tasks.any (fun e => e.2.queue.isSome && e.2.context == c &&
    (decide (e.2.phase = .dispatched) || decide (e.2.phase = .running) || decide (e.2.phase = .ended)) && (match e.2.body with
      | .launch _ | .copy _ _ _ _ | .copyInline _ _ _ | .fill _ _ _ | .mica _ => true
      | _ => false)) || s.mica.cmds.any (fun e => e.2.context == c)

/-- The tag that a segment of a context gives its granules (R258, R261). -/
def segTag (c : Nat) (g : Segment) : BitVec 16 := if g.shared then 0xFFFF else BitVec.ofNat 16 (0x8000 + c)

/-- A granule may not be mapped by a segment of the context (R267). -/
def State.granDenied (s : State) (c vein : Nat) (d : Segment) (g : Nat) : Bool :=
  let t := s.tagOf g
  let v := (s.granVein g).map (·.1)
  !(decide (v = some vein) || (d.shared && v.isNone)) || !(t == 0 || t == segTag c d)

/-- The slot meets the device range of a placement (R285). -/
def State.meetsPlaced (s : State) (c : Nat) (g : Segment) : Bool :=
  s.xlat.placed.any (fun p => p.context == c && decide (p.dva < g.vbase + g.gran * 2 ^ 21) && decide (g.vbase < p.dva + p.len))

def execSetSegment (s : State) : Host.Outcome State Fault Refusal :=
  .next (s.onAdmin false (fun k b => match b with
    | .setSegment c slot d =>
      match s.ctx? c with
      | none => s.failTask k .accessDenied noDetail
      | some x =>
        let old := tblFind x.segs slot
        let gs := s.segGranules d
        let clash := d.gran != 0 && x.segs.any (fun e => e.1 != slot && e.2.overlaps d)
        let denied := gs.any (fun g => s.granDenied c x.vein d g) || (!s.fab.assigned && d.device != 0)
        let busy := match old with
          | some o => ((o.cuts d || o.differs d) && s.workOf c) || ((o.cuts d || (o.r && !d.r) || (o.w && !d.w)) && s.meetsPlaced c o)
          | none => false
        s.grant k [(clash, .malformed), (denied, .accessDenied), (busy, .busy)] (
          let after := s.putSlot c slot d
          let newTags := (gs.filter (fun g => s.tagOf g != segTag c d)).map (fun g => (g, segTag c d))
          let freed := match old with
            | some o => ((s.segGranules o).filter (fun g => !after.mapped g && s.tagOf g != 0)).map (fun g => (g, (0 : BitVec 16)))
            | none => []
          s.askTags k (newTags ++ freed))
    | _ => s))

/-! ## DUMP_SYNC_STATE (R356) -/

/-- The records of all objects in order; an evicted object's is that of its image. -/
def State.dump (s : State) : List Byte := ((List.range 16384).map (fun n => s.record n (s.objView n))).flatten

/-- The 1 MiB of records goes to device memory or to host space; an untranslated page is asked for first. -/
def execDumpSyncState (s : State) : Host.Outcome State Fault Refusal :=
  .next (s.onAdmin true (fun k b => match b with
    | .dumpSyncState 0 addr =>
      if !(s.hostHeld addr (2 ^ 20) true).isEmpty then s.recallHost addr (2 ^ 20) true
      else (s.homeStore none addr s.dump false).finish k
    | .dumpSyncState _ addr =>
      let src := Src.sequencer k
      let miss := (pagesOf (hostAddr addr) (2 ^ 20)).find? (fun p => decide (s.reachHost src s.admPasid p true = .miss))
      match miss with
      | some p => s.askXlate src s.admPasid p true true
      | none =>
        let bytes := s.dump
        let s' := (chunks4K addr (2 ^ 20)).foldl (fun (s : State) p =>
          match s.reachHost src s.admPasid p.2.1 true with
          | .to d _ => s.sendWrite src noCtx (some k) d ((bytes.drop p.1).take p.2.2) false none
          | _ => s) s
        (s'.modTask k (fun y => { y with phase := .ended, unseen := idsBetween s s' })).settle k
    | _ => s))

end Sys2Proof.Machine
end

