-- ==== Sys2Proof/Machine/Translation.lean ====
section
/-! DEFINITION. Host-space translation (R272 to R286): completions of Translation Requests, page requests and their responses,
invalidations with their drain, PREFETCH_XLAT, the advice codes, and placements. -/

namespace Sys2Proof.Machine

/-! ## The translation cache (R273) -/

/-- The largest stored size that a translation covers. -/
def atcSize (size : Nat) : Nat := if 2 ^ 30 ≤ size then 2 ^ 30 else if 2 ^ 21 ≤ size then 2 ^ 21 else 4096

/-- The slice and set of an entry, as one number below 4,096: a hash of the PASID and the address bits that the size leaves. -/
def atcPlace (pasid va size : Nat) : Nat :=
  Config.atcHash pasid (if size = 2 ^ 30 then bits va 30 33 * 2 else bits va 21 42 * 2 + 1) % 4096

/-- An entry enters its set of 8 ways; a full set loses one, whose choice pseudo-LRU leaves to the block. -/
def State.atcFill (s : State) (e : AtcEntry) : State :=
  let same (x : AtcEntry) : Bool := x.pasid == e.pasid && x.va == e.va && x.size == e.size
  let set := s.xlat.atc.filter (fun x => !same x && atcPlace x.pasid x.va x.size == atcPlace e.pasid e.va e.size)
  let out := if set.length < 8 then none else set[s.openNat % set.length]?
  let s := if set.length < 8 then s else s.used
  { s with xlat := { s.xlat with
      atc := s.xlat.atc.filter (fun x => !same x && decide (out ≠ some x)) ++ [{ e with stamp := s.nextId }] } }.bump

/-- The entry of a translation of `size` bytes at `base` that covers a page. -/
def atcEntry (pasid page base size : Nat) (r w : Bool) : AtcEntry :=
  let n := atcSize size
  let a := page * 4096
  ⟨pasid, a / n * n, n, base + (a / n * n - a / size * size), r, w, 0⟩

/-! ## Failures (R275, R278) -/

/-- An entry of the fault log. `kind`: 0 read, 1 write, 2 drain timeout (R504). -/
def State.logXlat (s : State) (src : Src) (pasid page kind : Nat) : State :=
  let d := pasid % 2 ^ 20 + page % 2 ^ 44 * 2 ^ 20
  match src with
  | .tile t => s.log .xlatFailure .notice (quarryOf t) (s.tile t).vein src.code (ctxNo (s.tile t).context) 0 d kind
  | .copy k | .sequencer k =>
    match s.task? k with
    | some x => s.log .xlatFailure .notice noQuarry x.vein src.code x.context 0 d kind
    | none => s.log .xlatFailure .notice noQuarry noVein src.code noCtx 0 d kind
  | _ => s.log .xlatFailure .notice noQuarry noVein src.code noCtx 0 d kind

/-- The entry of a source's translation failure that was just logged (R370, R504). -/
def State.xlatSeq (s : State) (src : Src) : Nat :=
  s.entrySeq .xlatFailure (match src with
    | .tile t => quarryOf t
    | _ => noQuarry) src.code

/-- A Strata image that cannot be fetched is the load's own affair (R64); STRATA_STAGED finds this mark in the task. -/
def Task.fetchesImage (x : Task) : Bool :=
  match x.admin with
  | some (.loadStrata _ _ _ _ _) => decide (x.phase = .running)
  | _ => false

/-- An access of a stream to a page has failed: a tile traps, a task ends with XLAT_FAULT, a ring fails (R275, R364). -/
def State.xlatFailed (s : State) (src : Src) (page logSeq : Nat) : State :=
  let va := 2 ^ 63 + page * 4096
  let d := mkDetail 0x46 (some va) 0 logSeq
  match src with
  | .tile t =>
    let x := s.tile t
    if x.task.isSome && !(decide (x.run = .halted) || decide (x.run = .stopped)) then s.trap t .xlat (some va) else s
  | .copy k => s.stopTask k .xlatFault d
  | .sequencer k =>
    match s.task? k with
    | none => s
    | some x =>
      if decide (x.phase = .fetching) || decide (x.phase = .due) then (s.ringFailed k 0).settleAbort
      else if x.fetchesImage then s.taskFault k .xlatFault d
      else s.stopTask k .xlatFault d
  | _ => s

/-- Requests of a stream that a withdrawn translation held back and that now fail are dropped (R280). -/
def State.dropHeldUp (s : State) (src : Src) (page : Nat) : State :=
  let gone := (s.host.up.filter (fun e => decide (e.2.src = src) && decide (e.2.va.map (· / 4096) = some page))).map (·.1)
  gone.foldl (fun s id =>
    let task := (tblFind s.host.up id).bind (·.task)
    ({ s with host := { s.host with up := tblDel s.host.up id } }).acked src task id) s

/-- The access type and FAULT_IN of a task that prefetches translations. -/
def Task.prefetching (x : Task) : Option (Bool × Bool) :=
  if decide (x.phase = .running) then
    match x.body with
    | .prefetchXlat _ _ w fi => some (w, fi)
    | .adviseWillNeed _ _ => some (true, true)
    | _ => none
  else none

/-- A page of a prefetch is done: translated or skipped (R283). -/
def State.pageDone (s : State) (src : Src) (page : Nat) : State :=
  match src with
  | .sequencer k =>
    match s.task? k with
    | some x =>
      match x.prefetching with
      | some (w, fi) =>
        let left := setDel x.tiles page
        let s := s.setTask k { x with tiles := left }
        if left.isEmpty then s.finish k
        else (left.take 8).foldl (fun s p => s.askXlate src (s.pasidOf x.context) (p * 4096) w fi) s
      | none => s
    | none => s
  | _ => s

/-- The fetch of a prefetch: it makes no access of its own. -/
def State.isPrefetch (s : State) (src : Src) : Bool :=
  match src with
  | .sequencer k =>
    match s.task? k with
    | some x => x.prefetching.isSome
    | none => false
  | _ => false

/-! ## Page requests (R276, R277) -/

/-- A fault waits on a page request that suits it. -/
def PageSlot.serves (p : PageSlot) (q : XReq) : Bool := !p.dead && p.pasid == q.pasid && p.page == q.page && (p.write || !q.write)

/-- The slots that may be in use. -/
def State.slotLimit (s : State) : Nat := Nat.min 512 s.host.priAlloc

/-- The Page Request of a slot leaves and is counted; without Bus Master Enable it waits in its slot (R278, R288, R408). -/
def State.sendPage (s : State) (slot : Nat) (p : PageSlot) : State :=
  if s.host.bme && s.host.linkUp then
    ({ s.awake with xlat := { s.xlat with
        slots := tblPut s.xlat.slots slot { p with since := s.now, unsent := false }
        pageRequests := satAdd 64 s.xlat.pageRequests 1 } }).emit (.pageRequest slot p.pasid p.page p.write)
  else { s with xlat := { s.xlat with slots := tblPut s.xlat.slots slot { p with unsent := true } } }

/-- Those that waited leave. -/
def State.sendPages (s : State) : State := (s.xlat.slots.filter (·.2.unsent)).foldl (fun s e => s.sendPage e.1 e.2) s

/-- A page request is joined, sent, or waits for a slot. -/
def State.pageRequest (s : State) (q : XReq) : State :=
  match s.xlat.slots.find? (fun e => e.2.serves q) with
  | some e =>
    let p := { e.2 with waiters := if e.2.waiters.contains q.stream then e.2.waiters else e.2.waiters ++ [q.stream] }
    { s with xlat := { s.xlat with slots := tblPut s.xlat.slots e.1 p } }
  | none =>
    if s.xlat.slots.length < s.slotLimit then
      match (List.range 512).find? (fun i => (tblFind s.xlat.slots i).isNone) with
      | some i =>
        s.sendPage i ⟨q.pasid, q.page, q.write, [q.stream], 1, s.now, false, false⟩
      | none => s
    else { s with xlat := { s.xlat with slotWait := s.xlat.slotWait ++ [q] } }

/-- A permission is missing: the page is requested, skipped where FAULT_IN is clear, or the access fails at once where PRI is
stopped or disabled (R275, R276, R278, R283). -/
def State.pageFault (s : State) (q : XReq) : State :=
  if !q.faultIn then s.pageDone q.stream q.page
  else if s.xlat.priStopped || !s.host.priEn then
    let s := s.logXlat q.stream q.pasid q.page (b2n q.write)
    (s.xlatFailed q.stream q.page (s.xlatSeq q.stream)).dropHeldUp q.stream q.page
  else s.pageRequest q

/-- Faults that wait take the slots that are free; in the stopped state they fail (R278). -/
def State.serveSlots (s : State) : State :=
  s.xlat.slotWait.foldl (fun s q => s.pageFault q) { s with xlat := { s.xlat with slotWait := [] } }

/-! ## TRANSLATION_COMPLETION (R275, R278) -/

/-- The permission that an access needs: R for a read, R and W for a write. -/
def permits (write r w : Bool) : Bool := r && (w || !write)

/-- A stream is given the translation that its access waits for, or leave to make it untranslated; a prefetch has got its page. -/
def State.giveXlat (s : State) (q : XReq) (pa : Option Nat) (w : Bool) : State :=
  if s.isPrefetch q.stream then s.pageDone q.stream q.page
  else { s with xlat := { s.xlat with grants := s.xlat.grants ++ [⟨q.stream, q.pasid, q.page, pa, w⟩] } }

/-- An access of a stream fails. -/
def State.xlateFail (s : State) (q : XReq) (logSeq : Nat) : State := (s.xlatFailed q.stream q.page logSeq).dropHeldUp q.stream q.page

/-- Every waiter of a page request fails. -/
def State.failWaiters (s : State) (p : PageSlot) : State :=
  p.waiters.foldl (fun s w =>
    let s := s.logXlat w p.pasid p.page (b2n p.write)
    (s.xlatFailed w p.page (s.xlatSeq w)).dropHeldUp w p.page) s

/-- A page request has ended without Success (R278, R288). -/
def State.failSlot (s : State) (p : PageSlot) : State :=
  ({ s with xlat := { s.xlat with pageFails := satAdd 64 s.xlat.pageFails 1 } }).failWaiters p

/-- A slot is free again. -/
def State.freeSlot (s : State) (slot : Nat) : State := { s with xlat := { s.xlat with slots := tblDel s.xlat.slots slot } }

/-- The translation that follows a Success (R278): the waiters go on, or the page is requested again, at most four times in a row. -/
def State.slotAnswer (s : State) (slot : Nat) (p : PageSlot) (x : XlatReply) : State :=
  let each (s : State) (pa : Option Nat) (w : Bool) : State :=
    p.waiters.foldl (fun s v => s.giveXlat ⟨v, p.pasid, p.page, p.write, true, none⟩ pa w) s
  match x with
  | .success base size r w u =>
    let e := atcEntry p.pasid p.page base size r w
    if u then each (s.freeSlot slot) none true
    else if permits p.write r w then each ((s.freeSlot slot).atcFill e) (some (e.pa + (p.page * 4096 - e.va))) w
    else if p.tries < 4 && !s.xlat.priStopped && s.host.priEn then
      s.sendPage slot { p with tries := p.tries + 1 }
    else (s.freeSlot slot).failWaiters p
  | .timedOut => ((s.aer 14).freeSlot slot).failWaiters p
  | _ => (s.freeSlot slot).failWaiters p

/-- A Translation Completion arrives. One of a request that was made again, or that a reset abandoned, is discarded (R279, R419); one that
matches no request is unexpected (R421). -/
def State.translated (s : State) (req : Nat) (r : XlatReply) : State :=
  match tblFind s.xlat.reqs req with
  | none =>
    if setHas s.host.abandoned req then { s with host := { s.host with abandoned := setDel s.host.abandoned req } } else s.aer 16
  | some q =>
    if s.host.timeoutOff && decide (r = .timedOut) then s else
    let s := { s with xlat := { s.xlat with reqs := tblDel s.xlat.reqs req } }
    let s := match q.slot with
      | some slot =>
        match tblFind s.xlat.slots slot with
        | some p => (s.slotAnswer slot p r).serveSlots
        | none => s
      | none =>
        match r with
        | .success base size rr ww u =>
          let e := atcEntry q.pasid q.page base size rr ww
          if u then s.giveXlat q none true
          else if permits q.write rr ww then (s.atcFill e).giveXlat q (some (e.pa + (q.page * 4096 - e.va))) ww
          else s.pageFault q
        | .unsupported | .completerAbort => s.xlateFail q 0
        | .timedOut =>
          let s := (s.aer 14).logXlat q.stream q.pasid q.page (b2n q.write)
          s.xlateFail q (s.xlatSeq q.stream)
    s.flushUp

def execTranslationCompletion (req : Nat) (r : XlatReply) (s : State) : Host.Outcome State Fault Refusal := .next (s.translated req r)

/-! ## PRG_RESPONSE, PRI_TIMEOUT (R278) -/

/-- The Translation Request that follows a Success is outstanding. -/
def State.slotAsked (s : State) (slot : Nat) : Bool :=
  s.xlat.reqs.any (fun e => decide (e.2.slot = some slot)) || s.xlat.waiting.any (fun q => decide (q.slot = some slot))

/-- The front end's Translation Request for the page of a slot. -/
def State.askSlot (s : State) (slot : Nat) (p : PageSlot) : State :=
  s.sendXlate ⟨.quartz, p.pasid, p.page, p.write, true, some slot⟩

def execPrgResponse (slot : Nat) (r : PrgReply) (s : State) : Host.Outcome State Fault Refusal :=
  .next (match tblFind s.xlat.slots slot with
    | none => s
    | some p =>
      if p.unsent || s.slotAsked slot then s
      else
        let s :=
          if p.dead then s.freeSlot slot
          else match r with
            | .success => s.askSlot slot p
            | .invalid => (s.freeSlot slot).failSlot p
            | .failure =>
              let s := { s with xlat := { s.xlat with priStopped := true } }
              (s.freeSlot slot).failSlot p
        s.serveSlots.flushUp)

/-- PRI_TIMEOUT: the slot is held until its response arrives. -/
def execPriTimeout (slot : Nat) (s : State) : Host.Outcome State Fault Refusal :=
  .next (match tblFind s.xlat.slots slot with
    | none => s
    | some p =>
      if p.dead || p.unsent || s.slotAsked slot || !s.passed p.since s.xlat.priTimeout then s
      else ({ s with xlat := { s.xlat with slots := tblPut s.xlat.slots slot { p with waiters := [], dead := true } } }).failSlot p)

/-! ## Invalidations (R279 to R282) -/

/-- An invalidation covers a PASID. -/
def covers (i : Option Nat) (pasid : Nat) : Bool :=
  match i with
  | none => true
  | some p => p == pasid

/-- The PASID of a tile's launch. -/
def State.tilePasid (s : State) (x : Tile) : Nat := s.pasidOf (x.context.getD 0)

/-- The PASID of an engine. -/
def State.srcPasid (s : State) : Src → Nat
  | .tile t => s.tilePasid (s.tile t)
  | .copy k | .sequencer k => s.pasidOf (((s.task? k).map (·.context)).getD 0)
  | _ => 2 ^ 20

/-- A request that a host-space access of an engine has sent to a home of this block's own memory (R271): it carries no context. -/
def Packet.fromHost (p : Packet) : Bool :=
  p.context.isNone && p.req.range.isSome && (match p.src with
    | .tile _ | .copy _ | .sequencer _ => true
    | _ => false)

/-- Accesses under the PASID that have been sent: upstream requests, requests to homes of the own memory (R271), and the host parts of
inbound moves. -/
def State.sentUses (s : State) (i : Option Nat) : Tbl Nat :=
  let up := (s.host.up.filter (fun e => e.2.sent && covers i e.2.pasid)).foldl (fun m e =>
    tblPut m e.1 (e.2.page.getD 0)) ([] : Tbl Nat)
  let up := (s.pkts.filter (fun e => e.2.fromHost && covers i (s.srcPasid e.2.src))).foldl (fun m e => tblPut m e.1 0) up
  s.tiles.foldl (fun m e =>
    if covers i (s.tilePasid e.2) then
      e.2.moves.foldl (fun m v => match v.hosts.head? with
        | some h => tblPut m v.slot (hostAddr h.2.2.1 / 4096)
        | none => m) m
    else m) up

/-- A held or released write to host space, in host memory or routed to the own memory (R271). -/
def Held.toHost (h : Held) : Bool :=
  isHostVa h.va && match h.eff with
    | .write (.host _ _) _ _ | .write (.device _ false) _ _ => true
    | _ => false

/-- A load whose cache miss has not wholly left is made past the cache instead, one request for each piece, which returns to lookup; answers
to the part that has left find nothing (R280; DEDUCED, assumption 76). -/
def State.returnMiss (s : State) (t : Nat) (m : Miss) : State :=
  let mine (i : Nat) : Bool := decide (m.id ≤ i) && decide (i < m.id + m.count)
  let s := { s.modTile t (fun x => { x with miss := none }) with
    host := { s.host with up := s.host.up.filter (fun e => !mine e.1 || e.2.sent) } }
  match m.load with
  | none => s
  | some (op, ps) =>
    let x := s.tile t
    let again (p : Piece) : UpReq :=
      ⟨.tile t, x.task, .rdCurr, s.tilePasid x, 0, p.len, [], false, false, false, some (hostAddr p.va), some (hostAddr p.va / 4096)⟩
    let s' := ps.foldl (fun (s : State) p => State.bump { s with host := { s.host with up := tblPut s.host.up s.nextId (again p) } }) s
    let waits := (idsBetween s s').zip (ps.map (fun p => (p.off, p.len)))
    s'.modTile t (fun x => { x with pend := x.pend.map (fun o => if o.id = op then { o with waits := waits } else o) })

/-- Misses of host lines under the PASID with a request that has not left. -/
def State.returnMisses (s : State) (i : Option Nat) : State :=
  s.tiles.foldl (fun s e => match e.2.miss with
    | some m =>
      if covers i (s.tilePasid e.2) && s.host.up.any (fun u => decide (m.id ≤ u.1) && decide (u.1 < m.id + m.count) && !u.2.sent)
        then s.returnMiss e.1 m else s
    | none => s) s

/-- Requests not yet sent return to lookup; a CXL.io request of an untranslated address holds no translation. -/
def State.returnUp (s : State) (i : Option Nat) : State :=
  let up := s.host.up.map (fun (e : Nat × UpReq) =>
    if !e.2.sent && e.2.va.isNone && covers i e.2.pasid then
      match e.2.page with
      | some p => (e.1, { e.2 with va := some (p * 4096 + e.2.addr % 4096) })
      | none => e
    else e)
  { s with host := { s.host with up := up } }

/-- Held and released effects of the PASID to host memory are marked: the first for retranslation (R281), the others as uses that
are waited for (R280). -/
def State.markHeld (s : State) (i : Option Nat) : State :=
  let mark (h : Held) : Held := if h.toHost then { h with retranslate := true } else h
  { s with tiles := s.tiles.map (fun (e : Nat × Tile) =>
      if covers i (s.tilePasid e.2) then (e.1, { e.2 with held := e.2.held.map mark, released := e.2.released.map mark }) else e) }

/-- Translation Requests of the PASID are made again; the completions of the old ones are discarded. -/
def State.resend (s : State) (i : Option Nat) : State :=
  let l := s.xlat.reqs.filter (fun e => covers i e.2.pasid)
  let s := { s with
    xlat := { s.xlat with reqs := s.xlat.reqs.filter (fun e => !covers i e.2.pasid) }
    host := { s.host with abandoned := l.foldl (fun m e => setIns m e.1) s.host.abandoned } }
  l.foldl (fun s e => s.sendXlate e.2) s

/-- ATS_INVALIDATION: every entry of the PASID goes at once; placements stay (R282). The block accepts 32 at a time. -/
def execAtsInvalidation (pasid : Option Nat) (s : State) : Host.Outcome State Fault Refusal :=
  .next (if !s.host.linkUp || decide (32 ≤ s.xlat.invals.length) then s
    else
      let uses := s.sentUses pasid
      let s := ((s.returnMisses pasid).returnUp pasid).markHeld pasid
      let s := { s with xlat := { s.xlat with
        atc := s.xlat.atc.filter (fun e => !covers pasid e.pasid)
        grants := s.xlat.grants.filter (fun g => !covers pasid g.pasid), invals := s.xlat.invals ++ [(pasid, s.now, uses)] } }
      (s.resend pasid).flushUp)

/-- A use that is still under way: an upstream request, a request to a home, or an inbound move. -/
def State.useOpen (s : State) (id : Nat) : Bool :=
  (tblFind s.host.up id).isSome || (tblFind s.pkts id).isSome || s.tiles.any (fun e => e.2.moves.any (fun m => m.slot == id))

/-- A released effect that was under way to host memory when an invalidation of its PASID arrived. -/
def State.releasedUse (s : State) (i : Option Nat) : Bool :=
  s.tiles.any (fun e => covers i (s.tilePasid e.2) && e.2.released.any (·.retranslate))

/-- The oldest invalidation completes (R279, R280). -/
def State.invalDone (s : State) : State :=
  match s.xlat.invals with
  | [] => s
  | i :: rest =>
    ({ s with xlat := { s.xlat with
        invals := rest, invalidations := satAdd 64 s.xlat.invalidations 1
        drainMax := Nat.max s.xlat.drainMax (s.now - i.2.1) } }).emit (.invalidationDone i.1)

def execInvalidationCompletion (s : State) : Host.Outcome State Fault Refusal :=
  .next (match s.xlat.invals with
    | [] => s
    | i :: _ => if i.2.2.any (fun e => s.useOpen e.1) || s.releasedUse i.1 then s else s.invalDone)

/-- Some invalidation waits for accesses (R280, R290). -/
def State.draining (s : State) : Bool := s.xlat.invals.any (fun i => i.2.2.any (fun e => s.useOpen e.1) || s.releasedUse i.1)

/-- A task is in a phase. -/
def State.inPhase (s : State) (k : Nat) (p : Phase) : Bool :=
  match s.task? k with
  | some x => decide (x.phase = p)
  | none => false

/-- A request to a home of the own memory ends in the same way. -/
def State.endHomeUse (s : State) (id : Nat) : State :=
  match tblFind s.pkts id with
  | some p =>
    let s := ({ s with pkts := tblDel s.pkts id }.aer 14).logXlat p.src (s.srcPasid p.src) 0 2
    let d := mkDetail 0x46 none 0 (s.xlatSeq p.src)
    let s := match p.src, p.task with
      | .tile t, some k => (s.modTile t (fun x => { x with
          miss := none, pend := x.pend.filter (fun p => !p.waits.any (fun w => w.1 == id) || decide (p.kind = PendKind.ack)) })).stopLaunch k .xlatFault d
      | _, some k => if s.inPhase k .ended then s.taskFault k .xlatFault d else s.stopTask k .xlatFault d
      | _, none => s
    s.acked p.src p.task id
  | none => s

/-- An upstream request ends as a completion timeout, and its task fails (R280, R411). -/
def State.endUse (s : State) (id page : Nat) : State :=
  match tblFind s.host.up id with
  | some u =>
    let s := (({ s with host := { s.host with up := tblDel s.host.up id } }).aer 14).logXlat u.src u.pasid page 2
    let d := mkDetail 0x46 (some (2 ^ 63 + page * 4096)) 0 (s.xlatSeq u.src)
    let s := match u.src, u.task with
      | .tile t, some k => (s.modTile t (fun x => { x with miss := none, pend := x.pend.filter (fun p => !p.waits.any (fun w => w.1 == id) || decide (p.kind = PendKind.ack)) })).stopLaunch k .xlatFault d
      | .sequencer _, some k =>
        if s.inPhase k .due || s.inPhase k .written then (s.ringFailed k 0).settleAbort else s.stopTask k .xlatFault d
      | _, some k =>
        if s.inPhase k .ended then s.taskFault k .xlatFault d else s.stopTask k .xlatFault d
      | _, none => s
    s.acked u.src u.task id
  | none =>
    match s.tiles.findSome? (fun e => (e.2.moves.find? (fun m => m.slot == id)).map (fun m => (e.1, m))) with
    | some (t, m) =>
      let s := ((s.aer 14).logXlat (.tile t) (s.tilePasid (s.tile t)) page 2).dropMove t m
      match (s.tile t).task with
      | some k => s.stopLaunch k .xlatFault (mkDetail 0x46 (some (2 ^ 63 + page * 4096)) 0 (s.xlatSeq (.tile t)))
      | none => s
    | none => s.endHomeUse id

/-- Released effects that have not left in time are ended in the same way. -/
def State.endReleased (s : State) (i : Option Nat) : State :=
  (s.tiles.filter (fun e => covers i (s.tilePasid e.2) && e.2.released.any (·.retranslate))).foldl (fun s e =>
    match e.2.released.find? (·.retranslate) with
    | none => s
    | some h =>
      let page := hostAddr h.va / 4096
      let s := s.modTile e.1 (fun x => { x with released := x.released.filter (fun h => !h.retranslate) })
      let s := (s.aer 14).logXlat (.tile e.1) (s.tilePasid e.2) page 2
      let s := match e.2.task with
        | some k => s.stopLaunch k .xlatFault (mkDetail 0x46 (some h.va) 0 (s.xlatSeq (.tile e.1)))
        | none => s
      s.drainAll e.1) s

/-- INVALIDATION_DRAIN_TIMEOUT: 200 µs after the oldest invalidation arrived. -/
def execInvalidationDrainTimeout (s : State) : Host.Outcome State Fault Refusal :=
  .next (match s.xlat.invals with
    | [] => s
    | i :: _ =>
      let uses := i.2.2.filter (fun e => s.useOpen e.1)
      if !s.passed i.2.1 20000 || (uses.isEmpty && !s.releasedUse i.1) then s
      else ((uses.foldl (fun s e => s.endUse e.1 e.2) s).endReleased i.1).invalDone)

/-! ## PREFETCH_XLAT and advice (R283, R284) -/

/-- The pages of a range that miss are translated, eight at a time. -/
def State.prefetch (s : State) (k : Nat) (x : Task) (a n : Nat) (w fi : Bool) : State :=
  let pasid := s.pasidOf x.context
  let src := Src.sequencer k
  let left := if decide (x.phase = .running) then x.tiles
    else ((pagesOf (hostAddr a) n).filter (fun p => (s.atcHit pasid p w).isNone)).map (· / 4096)
  let s := s.setTask k { x with phase := .running, tiles := left }
  if left.isEmpty then s.finish k else (left.take 8).foldl (fun s p => s.askXlate src pasid (p * 4096) w fi) s

/-- A work command that may be taken up again while it runs. -/
def State.onGoing (s : State) (k : Nat) (f : Task → State) : State :=
  match s.task? k with
  | some x => if (decide (x.phase = .dispatched) || decide (x.phase = .running)) && x.queue.isSome then f x else s
  | none => s

def execPrefetchXlat (k : Nat) (s : State) : Host.Outcome State Fault Refusal :=
  .next (s.onGoing k (fun x => match x.body with
    | .prefetchXlat a n w fi => s.prefetch k x a (4096 * n) w fi
    | _ => s))

/-- Device parts of a segment-space range that lie on this block, each with its check. -/
def State.advisedParts (s : State) (x : Task) (a n : Nat) : List (Nat × Nat) :=
  (chunks4K a n).filterMap (fun p => match findSeg x.segs p.2.1 with
    | some g => if g.device = s.fab.self then some (g.local' p.2.1, p.2.2) else none
    | none => none)

/-- Lines enter the quarry cache at the least-recently-used position; lines already there keep theirs. -/
def State.qcBring (s : State) (v a n : Nat) : State :=
  (sectorsOf a n).foldl (fun s l =>
    if (tblFind s.qc.lines l).isSome then s
    else s.qcLine ⟨v, true, false⟩ l) s

def execAdviseWillNeed (k : Nat) (s : State) : Host.Outcome State Fault Refusal :=
  .next (s.onGoing k (fun x => match x.body with
    | .adviseWillNeed a n =>
      if isHostVa a then s.prefetch k x a n true true
      else
        let ps := s.advisedParts x a n
        match ps.find? (fun p => !s.rangePass (some x.context) p.1 p.2) with
        | some p =>
          let s := s.logRefused (.sequencer k) (some x.context) p.1 0
          s.failTask k .accessDenied (s.refusedDetail (.sequencer k) p.1)
        | none => (ps.foldl (fun s p => s.qcBring x.vein p.1 p.2) s).finish k
    | _ => s))

/-- Tile copies of a host-space range of a PASID go; they are clean. -/
def State.dropHostRange (s : State) (pasid a n : Nat) : State :=
  { s with tiles := s.tiles.map (fun (e : Nat × Tile) =>
      (e.1, { e.2 with dcache := e.2.dcache.filter (fun l => match l.origin with
        | some (p, v) => !(l.host && p == pasid && decide (v < a + n) && decide (a < v + s.lineSize e.1))
        | none => true) })) }

def execAdviseWillNotNeed (k : Nat) (s : State) : Host.Outcome State Fault Refusal :=
  .next (s.onWork k (fun x => match x.body with
    | .adviseWillNotNeed a n =>
      if isHostVa a then
        let h := hostAddr a
        let hit (e : AtcEntry) : Bool := e.pasid == s.pasidOf x.context && decide (e.va < h + n) && decide (h < e.va + e.size)
        let s := s.dropHostRange (s.pasidOf x.context) h n
        ({ s with xlat := { s.xlat with atc := s.xlat.atc.filter (fun e => !hit e) } }).finish k
      else (s.flushQuarry (s.advisedParts x a n) true).finish k
    | _ => s))

/-! ## Placements (R285, R286) -/

/-- The range overlaps an entry of the context, or no entry is free. -/
def State.placeBusy (s : State) (c a n : Nat) : Bool :=
  decide (64 ≤ s.xlat.placed.length) || s.xlat.placed.any (fun p => p.context == c && decide (p.host < a + n) && decide (a < p.host + p.len))

/-- PREFER_DEVICE: the range is copied, then its entry is installed. -/
def execPreferDevice (k : Nat) (host : HostData) (s : State) : Host.Outcome State Fault Refusal :=
  .next (s.onWork k (fun x => match x.body with
    | .preferDevice a n d =>
      let src := Src.sequencer k
      let c := x.context
      if !isHostVa a then s.finish k
      else if !segCover x.segs (fun g => g.r && g.w && g.device == s.fab.self) d n then s.failTask k .accessDenied (mkDetail 0x07 (some d) 0 0)
      else if s.placeBusy c a n then s.failTask k .busy noDetail
      else if !s.ready src c a n false then s.askRange src c a n false
      else if !s.hostClear src c x.segs d n true then s.recallRange src c x.segs d n true
      else
        let io := match s.reach src c x.segs a false with
          | .to (.host _ io) _ => io
          | _ => false
        if !s.answersOf src c x.segs a n host then s
        else match s.hostBytes k n (s.hostPa src c x.segs a) io host with
        | (s, none) => s.failTask k .xlatFault (mkDetail 0x46 (some a) 0 0)
        | (s, some bs) =>
          let bs := s.engineRead src x a n bs
          let r := s.engineWrite src c x.segs (some k) d bs none
          let s := r.1.notePoison k d bs
          let s := if r.2 = n then { s with xlat := { s.xlat with placed := s.xlat.placed ++ [⟨c, a, n, d, false⟩] } } else s
          s.finish k
    | _ => s))

/-- An access through a placement is in flight: an effect that a tile still holds or drains, or a request at a home of D. -/
def State.placedUse (s : State) (c a n : Nat) (parts : List (Nat × Nat)) : Bool :=
  s.tiles.any (fun e => decide (e.2.context = some c) && e.2.task.isSome
      && (e.2.held ++ e.2.released).any (fun h => decide (a ≤ h.va) && decide (h.va < a + n)))
    || s.pkts.any (fun e => decide (e.2.context = some c) && (match e.2.req with
      | .read b m _ | .readOwn b m => parts.any (fun p => decide (p.1 < b + m) && decide (b < p.1 + p.2))
      | .write b bs _ _ => parts.any (fun p => decide (p.1 < b + bs.length) && decide (b < p.1 + p.2))
      | .feFill b _ _ => parts.any (fun p => decide (p.1 ≤ b) && decide (b < p.1 + p.2))
      | _ => false))

/-- The copy-back: D is read at its homes and written to H, page by page. -/
def State.copyBack (s : State) (k : Nat) (x : Task) (a n d : Nat) : State :=
  let src := Src.sequencer k
  let bs := s.engineRead src x d n []
  let s' := (chunks4K a n).foldl (fun (s : State) p =>
    match s.reachHost src (s.pasidOf x.context) p.2.1 true with
    | .to dst _ => (lines64 p.2.1 p.2.2).foldl (fun (s : State) l =>
        let part := (bs.drop (p.1 + l.1)).take l.2.2
        let dst' : Dest := match dst with
          | .device b c => .device (b + l.1) c
          | .host b io => .host (b + l.1) io
          | .remote v b => .remote v (b + l.1)
        s.sendWrite src x.context (some k) dst' (part.map (·.1)) (part.any (·.2)) none) s
    | _ => s) s
  ((s'.notePoison k a bs).dropGrants src).modTask k (fun y => { y with
    unseen := idsBetween s s', tiles := [0], phase := .running })

/-- PREFER_HOST: accesses wait, those in flight end, D is copied back to H under fresh translations, and once that is observed the
entry goes. A range that is not placed is left as it is. -/
def execPreferHost (k : Nat) (f : DramFinding) (s : State) : Host.Outcome State Fault Refusal :=
  .next (s.onGoing k (fun x => match x.body with
    | .preferHost a n =>
      match s.xlat.placed.find? (fun p => p.context == x.context && p.host == a && p.len == n) with
      | none => s.finish k
      | some p =>
        let here (q : Placement) : Bool := q.context == x.context && q.host == a && q.len == n
        let src := Src.sequencer k
        if !x.tiles.isEmpty then
          if x.unseen.isEmpty then ({ s with xlat := { s.xlat with placed := s.xlat.placed.filter (fun q => !here q) } }).finish k else s
        else
          let s := ({ s with xlat := { s.xlat with placed := s.xlat.placed.map (fun q => if here q then { q with ending := true } else q) } }).setTask k
            { x with phase := .running }
          let parts := s.deviceParts src x.context x.segs p.dva n false
          match (pagesOf (hostAddr a) n).find? (fun g => decide (s.reachHost src (s.pasidOf x.context) g true = .miss)) with
          | some g => s.askXlate src (s.pasidOf x.context) g true true
          | none =>
            if s.placedUse x.context a n parts then s
            else match s.refusedRead src x.context x.segs p.dva n with
              | some b =>
                let s := s.logRefused src (some x.context) b 0
                (s.keepPlaced x.context x.body).failTask k .accessDenied (s.refusedDetail src b)
              | none =>
                if !s.hostClear src x.context x.segs p.dva n false then s.recallRange src x.context x.segs p.dva n false
                else (s.bulkFound parts f).copyBack k x a n p.dva
    | _ => s))

end Sys2Proof.Machine
end

