-- ==== Sys2Proof/Machine/FabricPort.lean ====
section
/-! DEFINITION. The fabric port (R430 to R454): the device table and its cache, inbound packets with their order, responses,
credits, loss of a peer. -/

namespace Sys2Proof.Machine

/-! ## Order at the receiver (R440, R441) -/

/-- Bytes that a packet reaches. -/
def Req.span : Req → Nat × Nat
  | .read a n _ => (a, n)
  | .write a bs _ _ => (a, bs.length)
  | .amo a _ _ _ _ _ => (a, 8)
  | .feFill a _ _ => (a, 8)
  | _ => (0, 0)

/-- A put or a get. -/
def Req.plain : Req → Bool
  | .read _ _ _ | .write _ _ _ _ => true
  | _ => false

/-- How far a sequence number lies above the low mark of its queue pair. -/
def State.ahead (s : State) (h : PacketHead) : Nat :=
  (h.seq + 2 ^ 32 - (tblGet (0, []) s.fab.committed h.handle).1) % 2 ^ 32

/-- Every earlier packet of the queue pair has arrived: only then is it known which of them overlap (R440; DEDUCED, assumption 77). -/
def State.gapless (s : State) (h : PacketHead) : Bool :=
  let before (q : Nat) : Bool := decide (s.ahead { h with seq := q } < s.ahead h)
  let done := (tblGet (0, []) s.fab.committed h.handle).2.filter before
  let here := s.fab.inbound.filter (fun e => e.2.head.handle == h.handle && e.2.reply.isNone && before e.2.head.seq)
  decide (s.ahead h ≤ done.length + here.length)

/-- A packet may commit. -/
def State.mayCommit (s : State) (id : Nat) (p : InPkt) : Bool :=
  if p.req.plain then
    let x := p.req.span
    s.gapless p.head && s.fab.inbound.all (fun e =>
      let y := e.2.req.span
      e.1 == id || e.2.head.handle != p.head.handle || e.2.reply.isSome || decide (s.ahead p.head ≤ s.ahead e.2.head)
        || decide (x.1 + x.2 ≤ y.1) || decide (y.1 + y.2 ≤ x.1))
  else s.ahead p.head == 0

/-- A packet goes to its home under the entry's context; an ORPHANED block applies none (R450). -/
def State.commitPkt (s : State) (id : Nat) : State :=
  match tblFind s.fab.inbound id with
  | none => s
  | some p =>
    if !p.checked || p.sent || !s.mayCommit id p then s
    else if s.blk.state = .orphaned then s.turnAway id .orphaned
    else
      { s with fab := { s.fab with inbound := tblPut s.fab.inbound id { p with sent := true } } }.sendPkt (.fabric id) (some p.context) p.req none

/-! ## Checks of an inbound packet (R442, R446 to R450) -/

/-- The code of a packet that the block's own state turns away. -/
def State.turnedAway (s : State) : Option FabCode :=
  if decide (s.blk.state = .orphaned) then some .orphaned
  else if !s.blk.booted || s.host.retry || !s.fab.assigned || !s.structured || decide (s.blk.state = .sleep) then some .notReady
  else none

/-- The window of a channel has no slot for the packet. -/
def State.windowFull (s : State) (ch : Nat) (h : PacketHead) : Bool :=
  let held := (s.fab.inbound.filter (fun e => e.2.channel == ch && e.2.reply.isNone)).length
  s.ahead h != 0 && decide (4032 ≤ held)

/-- The stash hint of a put names a logical tile of the context's vein (R434). -/
def State.withHint (s : State) (c : Nat) : Req → Req
  | .write a bs p st => .write a bs p (s.hintTile c st)
  | r => r

/-- A packet is held against the entry of its source. -/
def State.takeIn (s : State) (id : Nat) : State :=
  match tblFind s.fab.inbound id with
  | none => s
  | some p =>
    match s.devEntry? p.head.device with
    | none => s
    | some e =>
      let i := p.head.handle - e.qpBase
      let ch := (e.channel + i) % 16
      let bad := !e.valid || !e.inbound || decide (p.head.handle < e.qpBase) || decide (e.qpCount ≤ i) || p.head.keyMark != e.keySlot
        || (s.ctx? e.context).isNone
      if bad then
        let s := s.log .granuleRefused .notice noQuarry noVein (Src.fabric id).code (ctxNo (some e.context)) 0
          (s.fab.self * 2 ^ 48 + p.req.span.1) p.req.kindNo
        s.turnAway id .refused
      else if s.windowFull ch p.head then s.turnAway id .notNow
      else
        let q := { p with context := e.context, req := s.withHint e.context p.req, channel := ch, checked := true }
        { s with fab := { s.fab with inbound := tblPut s.fab.inbound id q } }.commitPkt id

/-- A packet arrives. One from a peer that is not NORMAL is discarded; one whose source has no cached entry waits for it. -/
def State.arrive (s : State) (h : PacketHead) (req : Req) (get : Bool) (poison : List Bool) : State :=
  match s.turnedAway with
  | some c => s.replyNow h c
  | none =>
    if decide (s.peerSt h.device ≠ .normal) then s
    else if !s.fab.tabValid then
      (s.log .granuleRefused .notice noQuarry noVein (Src.fabric 0).code noCtx 0 (s.fab.self * 2 ^ 48 + req.span.1) req.kindNo).replyNow h .refused
    else
      let id := s.nextId
      let p : InPkt := ⟨h, 0, req, get, poison, 16, false, false, none⟩
      ({ s with fab := { s.fab with inbound := tblPut s.fab.inbound id p } }.bump).takeIn id

def execInboundPut (h : PacketHead) (addr : Nat) (bytes : List Byte) (poison : List Bool) (stash : Option Nat) (s : State) :
    Host.Outcome State Fault Refusal :=
  .next (s.arrive h (.write addr bytes (poison.any id) stash) false poison)

def execInboundGet (h : PacketHead) (addr len : Nat) (s : State) : Host.Outcome State Fault Refusal :=
  .next (s.arrive h (.read addr len false) true [])

/-- A remote atomic: `amo.add`, or `amo.cas` with the value compared. -/
def execInboundAtomic (h : PacketHead) (addr : Nat) (cas : Option Word) (v : Word) (s : State) : Host.Outcome State Fault Refusal :=
  .next (s.arrive h (match cas with
    | none => .amo addr true 0 0 v.toNat false
    | some c => .amo addr true 2 c.toNat v.toNat false) false [])

def execInboundSignal (h : PacketHead) (obj : Nat) (subtract : Bool) (amount : Word32) (s : State) :
    Host.Outcome State Fault Refusal :=
  .next (s.arrive h (if subtract then .flintSub obj amount.toNat else .flintAdd obj amount.toNat) false [])

def execInboundArrival (h : PacketHead) (obj : Nat) (s : State) : Host.Outcome State Fault Refusal :=
  .next (s.arrive h (.flintArrive obj) false [])

def execInboundRelease (h : PacketHead) (obj : Nat) (s : State) : Host.Outcome State Fault Refusal :=
  .next (s.arrive h (.flintRelease obj) false [])

def execInboundFill (h : PacketHead) (addr : Nat) (v : Word) (s : State) : Host.Outcome State Fault Refusal :=
  .next (s.arrive h (.feFill addr v.toNat false) false [])

/-- PACKET_COMMIT: a held packet of the channel whose order now allows it. -/
def execPacketCommit (channel id : Nat) (s : State) : Host.Outcome State Fault Refusal :=
  .next (match tblFind s.fab.inbound id with
    | some p => if p.channel = channel then s.commitPkt id else s
    | none => s)

/-- The home's answer to an inbound packet becomes its response (R434, R442). -/
def State.answerPeer (s : State) (id : Nat) (r : Rsp) : State :=
  match tblFind s.fab.inbound id with
  | none => s
  | some p =>
    match r.st with
    | .ok =>
      let data := match p.req with
        | .read _ _ _ | .amo _ _ _ _ _ _ => r.data
        | .flintArrive _ => leBytes 8 r.value
        | _ => []
      s.reply id .done data (if p.get then r.marks else [])
    | .abandoned => s.reply id .abandoned [] []
    | _ => s.reply id .refused [] []

/-! ## The device table (R431, R432) -/

/-- An entry as the table holds it; a malformed one is not VALID. -/
def devEntryOf (b : List Byte) : DevEntry × Bool :=
  let f (o n : Nat) : Nat := field b o n
  let ok := f 3 1 == 0 && [1, 2, 4, 8, 16].contains (f 4 1) && decide (f 5 1 < 16) && decide (f 7 1 < 4) && decide (f 8 2 < 4096) && f 10 6 == 0
  (⟨f 0 3, f 4 1, f 5 1, f 6 1, ok && bit (f 7 1) 0, bit (f 7 1) 1, f 8 2 % 4096⟩, ok)

/-- An entry enters the cache of 4,096; the block chooses which one leaves a full cache. -/
def State.cacheEntry (s : State) (d : Nat) (e : DevEntry) : State :=
  let c := tblDel s.fab.cache d
  if c.length < 4096 then { s with fab := { s.fab with cache := tblPut c d e } }
  else
    let out := (nth (0, e) c (s.openNat % c.length)).1
    { s.used with fab := { s.fab with cache := tblPut (tblDel c out) d e } }

/-- Something waits for the entry of a device. -/
def State.wantsEntry (s : State) (d : Nat) : Bool :=
  setHas s.fab.rereads d || ((s.devEntry? d).isNone &&
    (s.fab.ops.any (fun e => e.2.device == d && !e.2.sent) || s.fab.inbound.any (fun e => e.2.head.device == d && !e.2.checked)))

/-- DEVTAB_FILL: the entry has been read; what waited for it goes on. -/
def execDevtabFill (device : Nat) (f : DramFinding) (s : State) : Host.Outcome State Fault Refusal :=
  let a := s.fab.tabBase * 2 ^ 20 + 16 * device
  .next (if !s.blk.booted || !s.fab.tabValid || decide (2 ^ 16 ≤ device) || !s.wantsEntry device then s
    else if !(s.hostHeld a 16 false).isEmpty then s.recallHost a 16 false
    else
      let s := s.bulkFound [(a, 16)] f
      let r := devEntryOf (s.readLatest a 16)
      let good := r.2 && !s.readPoison a 16
      let e := { r.1 with valid := r.1.valid && good }
      let s := (s.dropFresh a 16).cacheEntry device e
      let s := if good then s else s.log .peer .notice noQuarry noVein device noCtx 0 2 0
      let s := if setHas s.fab.rereads device then
          { s with fab := { s.fab with
              rereads := setDel s.fab.rereads device
              peers := if e.valid then tblDel s.fab.peers device else s.fab.peers } }
        else s
      let s := ((s.fab.inbound.filter (fun p => p.2.head.device == device && !p.2.checked)).map (·.1)).foldl (fun s i => s.takeIn i) s
      if e.valid then s.fabPump else s.endOps (fun o => o.device == device && !o.sent) .refused 0)

/-- Cached entries are dropped; the new entries of peers that are not NORMAL are read again. -/
def State.dropEntries (s : State) (p : Nat → Bool) : State :=
  { s with fab := { s.fab with
      cache := s.fab.cache.filter (fun e => !p e.1)
      rereads := if s.fab.tabValid then (s.fab.peers.filter (fun e => p e.1 && decide (e.2 ≠ .normal))).foldl (fun m e => setIns m e.1) s.fab.rereads
        else s.fab.rereads } }

/-- A write to FAB_DEVTAB_INVAL. -/
def execDevtabInvalidateOne (w : Who) (device : Nat) (s : State) : Host.Outcome State Fault Refusal :=
  .next (s.via (.devtabInvalidateOne w device) w 0xA0018 4 (fun s => s.rwo w (fun s =>
    { s with fab := { s.fab with invalDevice := device % 2 ^ 16, invalAll := false } }.dropEntries (fun d => d == device))))

def execDevtabInvalidateAll (w : Who) (s : State) : Host.Outcome State Fault Refusal :=
  .next (s.via (.devtabInvalidateAll w) w 0xA0018 4 (fun s => s.rwo w (fun s => { s with fab := { s.fab with invalAll := true } }.dropEntries (fun _ => true))))

/-- FAB_DEVTAB_BASE: ignored and logged while an operation is outstanding. -/
def execFabDevtabBase (w : Who) (v : Word) (s : State) : Host.Outcome State Fault Refusal :=
  .next (s.ownerWrite (.fabDevtabBase w v) w 0xA0010 (fun s =>
    if s.fab.ops.isEmpty then { s with fab := { s.fab with tabValid := v.getLsbD 0, tabBase := bits v.toNat 20 20 } }
    else s.log .peer .notice noQuarry noVein 0 noCtx 0 3 0))

/-- ASSIGN_DEVICE_NUMBER. -/
def execAssignDeviceNumber (s : State) : Host.Outcome State Fault Refusal :=
  .next (s.onAdmin true (fun k b => match b with
    | .assignDeviceNumber d =>
      s.grant k [(!s.ctxs.isEmpty, .busy)] (({ s with fab := { s.fab with self := d % 2 ^ 16, assigned := true } }.fabPump).finish k)
    | _ => s))

/-! ## Responses and credits (R437, R442, R443) -/

/-- Status of a response code at the source. -/
def FabCode_status : FabCode → RspSt
  | .done => .ok
  | .refused => .refused
  | .abandoned => .abandoned
  | _ => .peerLost

/-- What a response brings to the source of its operation. -/
def FabOp.response (o : FabOp) (code : FabCode) (bytes : List Byte) (poison : List Bool) : Rsp :=
  let base : Rsp := { dst := o.src, task := o.task, st := FabCode_status code }
  if code ≠ FabCode.done then { base with value := o.device, remote := true, traps := o.valued }
  else match o.kind with
    | 1 => { base with data := bytes, marks := poison, poisoned := poison.any id, skew := o.addr % 8 }
    | 2 => { base with data := bytes, value := 8, flag := true }
    | 3 => { base with data := bytes, value := 8, flag := leNat bytes == o.value2 % 2 ^ 64 }
    | 6 => { base with value := leNat bytes }
    | _ => base

/-- FABRIC_RESPONSE. NOT_NOW ends nothing: the transport sends the packet again (R441). -/
def execFabricResponse (id : Nat) (code : FabCode) (bytes : List Byte) (poison : List Bool) (s : State) :
    Host.Outcome State Fault Refusal :=
  .next (match tblFind s.fab.ops id with
    | none => s
    | some o =>
      if !o.sent || decide (code = .notNow) then s
      else
        let s := { s with fab := { s.fab with ops := tblDel s.fab.ops id } }
        (if decide (code = .done) then s else s.uncount o).respond id (o.response code bytes poison))

/-- CREDIT_GRANT: a channel that grants credits is up. -/
def execCreditGrant (channel requests responses : Nat) (s : State) : Host.Outcome State Fault Refusal :=
  .next (if !s.blk.booted || decide (16 ≤ channel) then s
    else
      let c := tblGet (0, 0) s.fab.credits channel
      { s with fab := { s.fab with
          credits := tblPut s.fab.credits channel (c.1 + requests, c.2 + responses)
          channelsUp := setIns s.fab.channelsUp channel } }.sendReplies.fabPump.flushUp)

/-! ## Loss of a peer (R447, R448) -/

/-- A device is lost in one of the two ways: its operations end, its nodes are abandoned, its packets are discarded. -/
def State.losePeer (s : State) (d : Nat) (p : Peer) (st : RspSt) (why : Nat) : State :=
  if !s.blk.booted || decide (s.peerSt d ≠ .normal) then s
  else
    let s := (s.log .peer .notice noQuarry noVein d noCtx 0 why 0)
    let s := { s with fab := { s.fab with
      peers := tblPut s.fab.peers d p
      inbound := s.fab.inbound.filter (fun e => e.2.head.device != d || e.2.sent)
      peerLosses := if why = 0 then satAdd 16 s.fab.peerLosses 1 else s.fab.peerLosses
      authFailures := if why = 1 then satAdd 16 s.fab.authFailures 1 else s.fab.authFailures } }
    (s.endOps (fun o => o.device == d) st (s.entrySeq .peer noQuarry d)).abandonNodes (fun x => x == d)

def execQpTimeout (device : Nat) (s : State) : Host.Outcome State Fault Refusal := .next (s.losePeer device .lost .peerLost 0)
def execQpAuthFailed (device : Nat) (s : State) : Host.Outcome State Fault Refusal :=
  .next (s.losePeer device .authFailed .authFailed 1)

end Sys2Proof.Machine
end

