-- ==== Sys2Proof/Machine/Responses.lean ====
section
/-! DEFINITION. MEMORY_RESPONSE: what a response or acknowledgement on RSP does at its requester (R28, R38, R169, R186, R190, R260,
R292, R297, R299, R323, R330, R354, R364, R369, R443). -/

namespace Sys2Proof.Machine

/-- A response is taken off RSP. -/
def State.taken (s : State) (id : Nat) : State := { s with rsps := tblDel s.rsps id }

/-! ## Tiles -/

/-- A response that the tile's cache miss, its fetch of code from another device, or one of its moves still needs. -/
def Tile.keeps (x : Tile) (id : Nat) : Bool :=
  (match x.miss with
    | some m => decide (m.id ≤ id) && decide (id < m.id + m.count)
    | none => false) || x.ifetch.any (fun f => f.1 == id) || x.moves.any (fun m => m.gets.any (fun g => g.1 == id))

/-- Bytes of one request arrive at a load; the tile's own later-visible bytes stand over them (R140, R299). -/
def PendOp.arrive (p : PendOp) (id : Nat) (bs : List (Byte × Bool)) : PendOp :=
  match p.waits.find? (fun w => w.1 == id) with
  | none => p
  | some w =>
    let bs := bs.take w.2.2
    let own (i : Nat) : Option (Byte × Bool) := (p.overlay.find? (fun o => o.1 == w.2.1 + i)).map (·.2)
    let vs := bs.zipIdx.map (fun b => (own b.2).getD b.1)
    { p with
      buf := p.buf.take w.2.1 ++ vs.map (·.1) ++ p.buf.drop (w.2.1 + vs.length)
      poisoned := p.poisoned || vs.any (·.2)
      waits := p.waits.filter (fun w => w.1 != id) }

/-- The value of a load, a reservation or an atomic. -/
def PendOp.value (p : PendOp) : Word := extend p.size p.zx (leNat (p.buf.take p.size))

/-- The write or operation of a tile's task is seen, and what waited for it drains (R297, R323). -/
def State.tileSeen (s : State) (t : Nat) (task : Option Nat) (id : Nat) : State := (s.seen task id).drainAll t

/-- A good response of an operation that the tile awaits. -/
def State.tileGood (s : State) (t id : Nat) (r : Rsp) (p : PendOp) : State :=
  match p.kind with
  | .ack => s.acked r.dst r.task id
  | .arrive => (s.deliver t p (BitVec.ofNat 64 r.value) false true).tileSeen t r.task id
  | .cond =>
    let s := s.countBytes r.task (if r.flag then r.value else 0)
    (s.deliver t p (if r.flag then 0 else 1) false true).tileSeen t r.task id
  | .atomic =>
    let s := s.countBytes r.task (if r.flag then r.value else 0)
    let q := p.arrive id r.flagged
    (s.deliver t q q.value q.poisoned true).tileSeen t r.task id
  | .load | .reserve =>
    let q := p.arrive id r.flagged
    if q.waits.isEmpty then (s.deliver t q q.value q.poisoned true).drainAll t
    else s.modTile t (fun x => { x with pend := x.pend.map (fun y => if y.id == p.id then q else y) })
  | .take | .peek | .sample | .wait =>
    let q := p.arrive id r.flagged
    s.deliver t q q.value q.poisoned r.flag

/-- A failed one: the operation is over. An operation on an ABANDONED object of this block lets the grid run on (R354). -/
def State.tileBad (s : State) (t id : Nat) (r : Rsp) (p : PendOp) : State :=
  if decide (r.st = .abandoned) && !r.remote then
    let s := s.taskFault? r.task .abandoned (mkDetail 0x12 (some r.value) 0 r.log)
    match p.kind with
    | .arrive => (s.used.deliver t p s.openWord false true).tileSeen t r.task id
    | _ => s.acked r.dst r.task id
  else
    let s := s.modTile t (fun x => { x with pend := x.pend.filter (fun y => y.id != p.id) })
    (s.tileFailed t r p.pc).tileSeen t r.task id

/-- A response at a tile. -/
def State.tileAnswer (s : State) (t id : Nat) (r : Rsp) : State :=
  let x := s.tile t
  if x.keeps id then s
  else
    let s := s.taken id
    match x.pend.find? (fun p => p.waits.any (fun w => w.1 == id)) with
    | none => s.tileSeen t r.task id
    | some p => if decide (r.st = .ok) then s.tileGood t id r p else s.tileBad t id r p

/-! ## Copy engines and sequencers -/

/-- A task's own Flint operation has been applied: RESULT is the value or phase (R378, R344); that of one on another device, whose
response carries no value, is open. -/
def State.opResult (s : State) (k : Nat) (x : Task) (r : Rsp) : State :=
  match x.body with
  | .signalAdd none _ _ | .signalSub none _ _ | .barrierArrive _ _ => s.modTask k (fun y => { y with result := r.value })
  | .signalAdd (some _) _ _ | .signalSub (some _) _ _ => s.used.modTask k (fun y => { y with result := s.openWord.toNat })
  | _ => s

/-- The completion of a task is being written. -/
def Task.completing (x : Task) : Bool := decide (x.phase = .written) || decide (x.phase = .due)

/-- A write or operation that a task awaits (R38, R323, R364, R443). -/
def State.taskAck (s : State) (k id : Nat) (x : Task) (r : Rsp) : State :=
  if decide (r.st = .ok) then (if decide (x.phase = .ended) then s.opResult k x r else s).seen (some k) id
  else if x.completing then (s.ringFailed k 3).settleAbort
  else (s.taskFault k r.st.status (if decide (r.st = .abandoned) && !r.remote then mkDetail 0x12 (some r.value) 0 r.log else r.detail)).seen
    (some k) id

/-- A wait's answer: a refusal, or a word that was full (R337, R346). -/
def State.waitAnswer (s : State) (k : Nat) (x : Task) (r : Rsp) : State :=
  let s := s.modTask k (fun y => { y with waitSeq := none })
  if decide (r.st ≠ .ok) then s.failTask k r.st.status r.detail
  else if decide (x.phase = .waiting) then s.modTask k (fun y => { y with phase := .ready })
  else
    let s := if r.poisoned then s.taskFault k .poisonedOutput (mkDetail 0x4A none 0 0) else s
    (s.modTask k (fun y => { y with result := leNat r.data })).finish k

/-- A response at a sequencer. Data of an entry fetch stays for ENTRY_FETCHED. -/
def State.sequencerAnswer (s : State) (k id : Nat) (r : Rsp) : State :=
  match s.task? k with
  | none => s.taken id
  | some x =>
    if setHas x.unseen id then (s.taken id).taskAck k id x r
    else if decide (x.waitSeq.map (·.1) = some id) then (s.taken id).waitAnswer k x r
    else if decide (x.phase = .fetching) then s
    else s.taken id

/-- A copy stops at a failing packet: those that have not left the fabric port yet never do (R443). -/
def State.stopPuts (s : State) (k : Nat) : State :=
  (s.fab.ops.filter (fun e => decide (e.2.src = .copy k) && !e.2.sent)).foldl (fun s e => (s.forgetOp e.1 e.2).seen (some k) e.1) s

/-- A response at a copy engine. Data of a get stays for COPY_COMPLETE. -/
def State.copyAnswer (s : State) (k id : Nat) (r : Rsp) : State :=
  match s.task? k with
  | none => s.taken id
  | some x =>
    if setHas x.unseen id then
      let s := if decide (r.st = .ok) then s else s.stopPuts k
      (s.taken id).taskAck k id x r
    else s

/-! ## MEMORY_RESPONSE -/

def execMemoryResponse (id : Nat) (s : State) : Host.Outcome State Fault Refusal :=
  .next (match tblFind s.rsps id with
    | none => s
    | some r =>
      if s.rspHeld r then s
      else match r.dst with
      | .tile t => s.tileAnswer t id r
      | .copy k => s.copyAnswer k id r
      | .sequencer k => s.sequencerAnswer k id r
      | .mica _ =>
        let s := s.taken id
        (if decide (r.st = .ok) then s else s.taskFault? r.task r.st.status r.detail).seen r.task id
      | .veinSeq _ => s.taken id
      | .hostPort => if r.data.isEmpty then s.taken id else (s.taken id).emit (.bytes r.data r.poisoned)
      | .hostMem => (s.taken id).emit (.bytes r.data r.poisoned)
      | .fabric i => (s.taken id).answerPeer i r
      | .flintHome n => if decide (r.st = .ok) then s.taken id else (s.taken id).nodeFailed n
      | .quartz => if r.data.isEmpty then s.taken id else (s.taken id).emit (.sidebandBytes r.data r.poisoned))

end Sys2Proof.Machine
end

