-- ==== Sys2Proof/Machine/Upstream.lean ====
section
/-! DEFINITION. Answers to the block's CXL.io requests and their timeouts (R292, R411, R421, R422, R425), and the configuration writes
that open and close its upstream paths (R290, R400, R403, R408, R412 to R416). -/

namespace Sys2Proof.Machine

/-! ## CXLIO_READ_COMPLETION (R411, R422, R425) -/

/-- The host-space address of a load, for its trap. -/
def UpReq.loadVa (u : UpReq) : Nat :=
  2 ^ 63 + (match u.page with
    | some p => p * 4096 + u.addr % 4096
    | none => u.addr)

/-- The bytes that a read's answer brings; those of a failed one are open and poisoned. -/
def State.answerBytes (s : State) (n : Nat) (d : HostData) : List Byte × Bool :=
  match d with
  | .data bs p => ((bs ++ s.openBytes (n - bs.length)).take n, p)
  | _ => (s.openBytes n, true)

/-- A tile's uncached load is answered. A load whose tile has stopped is over. -/
def State.loadAnswered (s : State) (t id : Nat) (u : UpReq) (d : HostData) : State :=
  match (s.tile t).pend.find? (fun p => p.waits.any (fun w => w.1 == id)) with
  | none => s
  | some p =>
    let r := s.hostFailed t u.loadVa (.host u.addr (decide (u.kind = .ioRead))) d (s.tile t).pc
    if !r.2 then r.1
    else
      let b := r.1.answerBytes u.len d
      let s := { r.1 with free := r.1.free + u.len }
      s.tileGood t id { dst := .tile t, task := u.task, st := .ok, data := b.1, poisoned := b.2 } p

/-- The zero-length read behind a CXL.io write has been answered: the write is globally observed (R292), was refused, or its fate is
unknown. A completion that is being written fails its ring (R364). -/
def State.writeAnswered (s : State) (id : Nat) (u : UpReq) (d : HostData) : State :=
  let ringWrite := match u.src with
    | .sequencer k => match s.task? k with
      | some x => if x.completing then some k else none
      | none => none
    | _ => none
  match d, ringWrite with
  | .data _ _, _ => s.acked u.src u.task id
  | .refused, some k | .timedOut, some k => (s.ringFailed k 0).settleAbort
  | .refused, none => (s.taskFault? u.task .refusedP2p (mkDetail 0x4C (some u.addr) 0 0)).acked u.src u.task id
  | .timedOut, none => (s.taskFault? u.task .poisonedOutput noDetail).acked u.src u.task id

/-- What the report of an answer's error is (R421). -/
def State.reportAnswer (s : State) (d : HostData) : State :=
  match d with
  | .data _ true => s.aerAdvisory 12
  | .timedOut => s.aer 14
  | _ => s

/-- An upstream request is over. -/
def State.upDone (s : State) (id : Nat) : State := { s with host := { s.host with up := tblDel s.host.up id } }

/-- A completion reaches the block. A cache miss keeps its answers for CACHE_FILL_DATA; one of a request that FLR abandoned is discarded
(R419), and one that matches no request is unexpected. -/
def State.ioAnswer (s : State) (id : Nat) (d : HostData) : State :=
  match tblFind s.host.up id with
  | none =>
    if setHas s.host.abandoned id then { s with host := { s.host with abandoned := setDel s.host.abandoned id } } else s.aer 16
  | some u =>
    if !u.sent then s.aer 16
    else if s.host.timeoutOff && decide (d = .timedOut) then s
    else match u.kind, u.src with
      | .itoMWr, _ | .wrCur, _ => s.aer 16
      | .ioWrite, _ => ((s.upDone id).reportAnswer d).writeAnswered id u d
      | _, .tile t => if (s.tile t).keeps id then s else ((s.upDone id).reportAnswer d).loadAnswered t id u d
      | _, _ => s.upDone id

def execCxlioReadCompletion (id : Nat) (d : HostData) (s : State) : Host.Outcome State Fault Refusal := .next (s.ioAnswer id d)

/-! ## COMPLETION_TIMEOUT (R411) -/

/-- A non-posted CXL.io request of the block. -/
def UpKind.nonPosted : UpKind → Bool
  | .ioRead | .ioWrite => true
  | _ => false

/-- The entry fetch of a task whose ring lies in host memory. -/
def State.fetchesHost (s : State) (k : Nat) : Option Task :=
  match s.task? k with
  | some x =>
    match decide (x.phase = .fetching), s.reachRing k x 0 false with
    | true, .to (.host _ _) _ => some x
    | _, _ => none
  | none => none

/-- COMPLETION_TIMEOUT: by the kind of the request with this number; none where the host has disabled it. -/
def execCompletionTimeout (id : Nat) (s : State) : Host.Outcome State Fault Refusal :=
  .next (if s.host.timeoutOff then s else match tblFind s.host.up id, tblFind s.xlat.reqs id, s.fetchesHost id with
    | some u, _, _ => if u.sent && u.kind.nonPosted then s.ioAnswer id .timedOut else s
    | none, some _, _ => s.translated id .timedOut
    | none, none, some x => s.entryFetched x.queue .timedOut
    | none, none, none => s)

/-! ## CONFIGURATION_WRITE -/

/-- A pending message leaves once nothing holds it (R408, R413, R414). -/
def State.flushMessages (s : State) : State :=
  if !(s.host.bme && s.host.linkUp) then s
  else if s.host.msixEn then
    if s.host.functionMask then s
    else
      let open' := s.host.pba.filter (fun v => !(tblGet {} s.host.msix v).masked)
      open'.foldl (fun s v =>
        let e : MsixEntry := tblGet {} s.host.msix v
        (State.awake { s with host := { s.host with pba := setDel s.host.pba v } }).emit (.msix v e.addr e.data)) s
  else if s.host.msiEn then
    let open' := s.host.msiPending.filter (fun n => !s.host.msiMask.getLsbD n)
    open'.foldl (fun s n =>
      (State.awake { s with host := { s.host with msiPending := setDel s.host.msiPending n } }).emit
        (.msi s.host.msiAddr.toNat (s.host.msiData.toNat / 2 ^ s.host.msiLog2 * 2 ^ s.host.msiLog2 + n))) s
  else s

/-- log2 of the size of a BAR (R406, R407). -/
def State.barLog2 (s : State) (i : Nat) : Nat := if i = 2 then s.host.bar4Log2 else 24

/-- The effect of a field of configuration space. -/
def State.configure (s : State) : CfgField → State
  | .memorySpaceEnable v => { s with host := { s.host with mse := v } }
  | .busMasterEnable v => ({ s with host := { s.host with bme := v } }).flushUp.sendPages.flushMessages
  -- faults that wait for a slot fail at once with PRI disabled
  | .priEnable v =>
    ({ s with
      host := { s.host with priEn := v }
      xlat := { s.xlat with priStopped := s.xlat.priStopped && !(v && !s.host.priEn) } }).serveSlots
  | .atsEnable v => ({ s with host := { s.host with atsEn := v } }).flushUp
  | .cacheEnable v => ({ s with host := { s.host with cacheEn := v } }).flushUp
  | .memEnable v => { s with host := { s.host with memEn := v } }
  | .msixEnable v => ({ s with host := { s.host with msixEn := v } }).flushMessages
  | .functionMask v => ({ s with host := { s.host with functionMask := v } }).flushMessages
  | .msiEnable v n => ({ s with host := { s.host with msiEn := v, msiLog2 := Nat.min n 5 } }).flushMessages
  | .msiMask m => ({ s with host := { s.host with msiMask := m } }).flushMessages
  | .pmeEnable v => { s with host := { s.host with pmeEn := v } }
  | .aspmL1Enable v => { s with host := { s.host with aspmL1 := v } }
  | .maxPayload c => { s with host := { s.host with maxPayload := c } }
  | .maxReadRequest c => { s with host := { s.host with maxReadRequest := c } }
  | .completionTimeout v off => { s with host := { s.host with timeoutValue := v, timeoutOff := off } }
  | .priAllocation n => ({ s with host := { s.host with priAlloc := n } }).serveSlots
  | .barBase i b =>
    { s with host := { s.host with bars := setNth s.host.bars i.val (b % 2 ^ 64 / 2 ^ s.barLog2 i.val * 2 ^ s.barLog2 i.val) } }
  | .msiAddress a d => { s with host := { s.host with msiAddr := a, msiData := d } }
  | .aerSeverity b => { s with host := { s.host with aerSevere := (List.range 32).filter (fun i => b.getLsbD i) } }
  | .aerClear c u =>
    let left := s.host.aerUncorrectable.filter (fun i => !u.getLsbD i)
    { s with host := { s.host with
        aerCorrectable := s.host.aerCorrectable.filter (fun i => !c.getLsbD i), aerUncorrectable := left
        aerHeader := s.host.aerHeader.filter (fun h => left.contains h.bit) } }

/-- A configuration request: answered with Request Retry Status before configuration space is presented and while FLR runs (R419, R509). -/
def State.configRequest (s : State) (f : State → State) : State :=
  if !s.host.linkUp then s
  else if s.host.retry || !s.blk.booted then s.awake.emit .retryStatus
  else f s.awake

def execConfigurationWrite (f : CfgField) (s : State) : Host.Outcome State Fault Refusal := .next (s.configRequest (·.configure f))

/-- MSIX_UNMASK: a write of the entry's Vector Control (R413). -/
def State.unmask (s : State) (v : Nat) : State :=
  let e : MsixEntry := tblGet {} s.host.msix v
  ({ s with host := { s.host with msix := tblPut s.host.msix v { e with masked := false } } }).flushMessages

def execMsixUnmask (vector : Nat) (s : State) : Host.Outcome State Fault Refusal :=
  .next (if vector < 2048 then s.posted (.msixUnmask vector) ⟨false, false⟩ (0x80000 + 16 * vector + 12) 4 (·.unmask vector) else s)

end Sys2Proof.Machine
end

