-- ==== Sys2Proof/Machine/Aperture.lean ====
section
/-! DEFINITION. BAR4 and its size (R269, R291, R399, R406, R407, R409, R422, R478), the HDM decoder (R404), Cache Writeback and
Invalidate (R403), ASPM L1 (R415), the DOE mailbox (R405), and the sideband's own accesses to device memory (R517). -/

namespace Sys2Proof.Machine

/-! ## BAR4 (R269, R406, R408, R409) -/

/-- Bits of WINDOW below log2 of a BAR4 size read 0 and are ignored (R291, R407). -/
def windowBits (log2 w : Nat) : Nat := w % 16 / 2 ^ (log2 - 36) * 2 ^ (log2 - 36)

/-- LOCAL of a BAR4 offset (R269). -/
def State.bar4Local (s : State) (off : Nat) : Nat := windowBits s.host.bar4Log2 s.xlat.bar4Window % 16 * 2 ^ 36 + off

/-- The offsets of the BAR; nothing is reached in SLEEP (R478). -/
def State.bar4Takes (s : State) (off n : Nat) : Bool := decide (off + n ≤ 2 ^ s.host.bar4Log2) && decide (s.blk.state ≠ .sleep)

/-- A read is a non-allocating snoop read behind the posted writes before it; a zero-length one only waits for them. -/
def execBar4Read (off len : Nat) (pasid : Bool) (s : State) : Host.Outcome State Fault Refusal :=
  .next (s.nonPosted (.bar4Read off len pasid) pasid (fun s =>
    if !s.bar4Takes off len then s.unsupported
    else if len = 0 then (if s.hostQuiet then s.emit (.bytes [] false) else s.hold (.bar4Read off len pasid))
    else s.sendPkt .hostPort none (.read (s.bar4Local off) len false) none))

/-- The tile that an extended steering tag names (R309). -/
def State.steerTile (s : State) (steer : BitVec 16) : Option Nat :=
  if bit steer.toNat 15 then s.stashTile (bits steer.toNat 9 5) (bits steer.toNat 0 9) else none

/-- A write, applied at its home in order with the other posted writes; with EP it sets P on each word written (R422). -/
def execBar4Write (off : Nat) (bytes : List Byte) (m : HostMark) (steer : BitVec 16) (s : State) : Host.Outcome State Fault Refusal :=
  .next (s.postedIn (.bar4Write off bytes m steer) m (fun s =>
    if !s.bar4Takes off bytes.length then s.awake.aerAdvisory 20
    else if bytes.isEmpty then s.awake
    else
      let s := if m.ep then s.awake.aerAdvisory 12 else s.awake
      s.sendPkt .hostPort none (.write (s.bar4Local off) bytes m.ep (s.steerTile steer)) none))

/-- An AtomicOp: FetchAdd, Swap or CAS, performed at the home. PCIe defines a misaligned one as a Malformed TLP. -/
def execBar4Atomic (off : Nat) (size64 : Bool) (swap : Bool) (cas : Option Word) (v : Word) (pasid : Bool) (s : State) :
    Host.Outcome State Fault Refusal :=
  let n := if size64 then 8 else 4
  let op := if cas.isSome then 2 else if swap then 1 else 0
  .next (if off % n ≠ 0 then s.awake.aer 18
    else s.nonPosted (.bar4Atomic off size64 swap cas v pasid) pasid (fun s =>
      if !s.bar4Takes off n then s.unsupported
      else s.sendPkt .hostPort none (.amo (s.bar4Local off) size64 op (cas.getD 0).toNat v.toNat false) none))

/-- BAR4_RESIZE: while Memory Space Enable is 0, to a size that the capability reports. -/
def execBar4Resize (log2Bytes : Nat) (s : State) : Host.Outcome State Fault Refusal :=
  .next (s.configRequest (fun s =>
    if s.host.mse || decide (log2Bytes < 36) || decide (40 < log2Bytes) then s
    else
      { s with
        host := { s.host with bar4Log2 := log2Bytes, bars := setNth s.host.bars 2 (nth 0 s.host.bars 2 / 2 ^ log2Bytes * 2 ^ log2Bytes) }
        xlat := { s.xlat with bar4Window := windowBits log2Bytes s.xlat.bar4Window } }))

/-! ## CXL registers (R403, R404) -/

/-- HDM_DECODER_COMMIT: 1 TiB and Interleave Ways 0, or Error Not Committed. Lock On Commit holds a committed decoder (assumption 48). -/
def execHdmDecoderCommit (base size ways : Nat) (lock : Bool) (s : State) : Host.Outcome State Fault Refusal :=
  .next (s.posted (.hdmDecoderCommit base size ways lock) ⟨false, false⟩ 0x800000 4 (fun s =>
    if s.host.hdmLock then s
    else if size = 2 ^ 40 ∧ ways = 0 then { s with host := { s.host with hdm := some base, hdmError := false, hdmLock := lock } }
    else { s with host := { s.host with hdm := none, hdmError := true } }))

/-- CACHE_WRITEBACK_INVALIDATE: no data moves. -/
def execCacheWritebackInvalidate (s : State) : Host.Outcome State Fault Refusal :=
  .next (s.configRequest (fun s => { s.dropHostLines with host := { s.dropHostLines.host with cacheInvalid := true } }))

/-! ## ASPM_L1_ENTRY (R415) -/

/-- The block is idle. -/
def State.idle (s : State) : Bool :=
  s.queues.all (fun e => e.2.head == e.2.tail) && s.adm.head == s.adm.tail && s.tasks.all (fun e => e.2.over)
    && s.host.up.isEmpty && s.xlat.reqs.isEmpty && s.xlat.waiting.isEmpty && s.xlat.slots.isEmpty && s.host.waiting.isEmpty && !s.homes.txns.any (fun e => setHas e.2.waiting 416)
    && !s.pkts.any (fun e => decide (e.2.src = .hostPort) || decide (e.2.src = .hostMem))

def execAspmL1Entry (s : State) : Host.Outcome State Fault Refusal :=
  .next (if s.host.aspmL1 && s.host.linkUp && s.idle && !s.host.inL1 then { s with host := { s.host with inL1 := true } }.emit .aspmL1 else s)

/-! ## DOE (R405) -/

/-- The mailbox lies in configuration space. -/
def State.doe (s : State) (a : DoeAnswer) : State := s.configRequest (·.emit (.doe a))

/-- The protocols in the order in which R405 names them. -/
def doeProtocol (index : Nat) : Option DoeProtocol :=
  match index with
  | 0 => some .discovery
  | 1 => some .cdat
  | 2 => some .spdm
  | _ => none

def execDoeDiscovery (index : Nat) (s : State) : Host.Outcome State Fault Refusal := .next (s.doe (.protocol (doeProtocol index)))

/-- One memory affinity structure: 1 TiB, 600 ns, 121 GB/s in each direction. -/
def execCdatRead (entry : Nat) (s : State) : Host.Outcome State Fault Refusal :=
  .next (s.doe (if entry = 0 then .affinity (2 ^ 40) 600 121 else .noEntry))

def execGetVersion (s : State) : Host.Outcome State Fault Refusal := .next (s.doe (.version 1 2))
def execGetCapabilities (s : State) : Host.Outcome State Fault Refusal := .next (s.doe (.capabilities Config.spdmCapabilities))
def execNegotiateAlgorithms (s : State) : Host.Outcome State Fault Refusal := .next (s.doe (.algorithms true true))
def execGetDigests (s : State) : Host.Outcome State Fault Refusal := .next (s.doe (.digests Config.spdmDigests))

def execGetCertificate (slot off len : Nat) (s : State) : Host.Outcome State Fault Refusal :=
  .next (s.doe (.certificate (((Config.certificateChain slot).drop off).take len)))

def execChallenge (nonce : BitVec 256) (s : State) : Host.Outcome State Fault Refusal := .next (s.doe (.challenge (Config.challengeAnswer nonce)))

/-- The three measurements; which index names which is not stated, so one answer carries them. -/
def execGetMeasurements (_index : Nat) (s : State) : Host.Outcome State Fault Refusal :=
  .next (s.doe (.measurements Config.romVersion.toNat s.strata.str.microcode s.strata.str.digest))

/-! ## MEM_READ, MEM_WRITE (R517) -/

/-- The sideband is served while Quartz runs and DRAM is out of self-refresh. -/
def State.sidebandMemory (s : State) : Bool := s.blk.quartz.isSome && decide (s.blk.state ≠ .sleep)

/-- MEM_READ: 1 to 256 bytes. -/
def execMemRead (addr len : Nat) (s : State) : Host.Outcome State Fault Refusal :=
  .next (if s.sidebandMemory && decide (1 ≤ len) && decide (len ≤ 256) && decide (addr + len ≤ 2 ^ 40)
    then s.sendPkt .quartz none (.read addr len false) none else s)

/-- MEM_WRITE: from the owner with the current epoch; others are ignored and counted (R519, R522). -/
def execMemWrite (w : Who) (addr : Nat) (bytes : List Byte) (s : State) : Host.Outcome State Fault Refusal :=
  .next (if !s.sidebandMemory || decide (w = .host) then s
    else if !s.isOwner w then s.denied
    else if bytes.length = 0 ∨ 256 < bytes.length ∨ 2 ^ 40 < addr + bytes.length then s
    else s.sendPkt .quartz none (.write addr bytes false none) none)

end Sys2Proof.Machine
end

