-- ==== Sys2Proof/Machine/Csr.lean ====
section
/-! DEFINITION. Control and status registers of a tile (R156 to R159, R171). -/

namespace Sys2Proof.Machine

/-- The value of a CSR; `none` for an unassigned number (R156, R159). -/
def State.csrValue (s : State) (t n : Nat) : Option Word :=
  let x := s.tile t
  let w (v : Nat) : Option Word := some (BitVec.ofNat 64 v)
  if n = 0x000 then w (s.logicalOf t)
  else if n = 0x001 then w (s.logicalOf t - x.gridFirst)
  else if n = 0x002 then w x.gridCount
  else if n = 0x003 then w x.vein
  else if n = 0x004 then w (x.context.getD 0)
  else if n = 0x005 then w s.fab.self
  else if n = 0x006 then w (b2n x.isProtected)
  else if 0x008 ≤ n ∧ n ≤ 0x00F then some (nth 0 x.args (n - 0x008))
  else if n = 0x010 then some x.seed
  else if n = 0x018 then w 2
  else if n = 0x020 then w x.cycle
  else if n = 0x021 then w s.now
  else if n = 0x022 then w x.unitCycles
  else if n = 0x030 then some (x.astat.setWidth 64)
  else if n = 0x031 then some x.lfsr
  else if 0x040 ≤ n ∧ n ≤ 0x047 then some (tblGet 0 x.carry (n - 0x040))
  else if 0x050 ≤ n ∧ n ≤ 0x057 then w (tblGet 0 x.lc (n - 0x050))
  else none

/-- Writable bits of a carry CSR (R158): BASE [21:6] and LEN [53:38]. -/
def carryMask : Word := 0x003FFFC0003FFFC0

/-- A CSR written; `none` where the number is read-only or unassigned (R156 to R159). -/
def Tile.csrWrite (x : Tile) (n : Nat) (v : Word) : Option Tile :=
  if n = 0x030 then some { x with astat := x.astat &&& ~~~(v.setWidth 7) }
  else if n = 0x031 then some { x with lfsr := if v = 0 then 1 else v }
  else if 0x040 ≤ n ∧ n ≤ 0x047 then some { x with carry := tblPut x.carry (n - 0x040) (v &&& carryMask) }
  else if 0x050 ≤ n ∧ n ≤ 0x057 then some { x with lc := tblPut x.lc (n - 0x050) (v.toNat % 2 ^ 32) }
  else none

/-- `csrr` (R171): a CSR carries no poison. -/
def execCsrr (t : Nat) (rd : Reg) (csr : BitVec 12) (s : State) : Host.Outcome State Fault Refusal :=
  .next (s.spelled t (.csrr t rd csr) (s.issue t false [rd] (fun s =>
    match s.csrValue t csr.toNat with
    | some v => (s.modTile t (fun x => x.setG rd v false)).retire t false
    | none => s.trap t .csrAccess none)))

/-- `csrw` (R171). -/
def execCsrw (t : Nat) (ra : Reg) (csr : BitVec 12) (s : State) : Host.Outcome State Fault Refusal :=
  .next (s.spelled t (.csrw t ra csr) (s.issue t false [ra] (fun s =>
    match (s.tile t).csrWrite csr.toNat ((s.tile t).gr ra) with
    | some y => (s.setTile t y).retire t false
    | none => s.trap t .csrAccess none)))

end Sys2Proof.Machine
end

