-- ==== Sys2Proof/Machine/Image.lean ====
section
/-! DEFINITION. The Strata image as it is checked before it is applied (R46 to R52, R63, R66, R537): CRC-32C, SHA-384 and ECDSA
over P-384 as R48 and R49 name them (FIPS 180-4 and FIPS 186-5), the record walk, the structure checks. -/

namespace Sys2Proof.Machine

/-! ## CRC-32C (R47) -/

/-- One bit of the reflected CRC. -/
def crcBit (c : BitVec 32) : BitVec 32 := if c.getLsbD 0 then (c >>> 1) ^^^ 0x82F63B78#32 else c >>> 1

/-- One byte. -/
def crcByte (c : BitVec 32) (b : Byte) : BitVec 32 :=
  let c := c ^^^ b.setWidth 32
  crcBit (crcBit (crcBit (crcBit (crcBit (crcBit (crcBit (crcBit c)))))))

/-- CRC-32C of bytes: initial value and final XOR all ones. -/
def crc32c (bs : List Byte) : BitVec 32 := bs.foldl crcByte (BitVec.allOnes 32) ^^^ BitVec.allOnes 32

/-! ## SHA-384 (R49)

The message is one natural number, and a block's state is two histories, of the words that FIPS 180-4 calls a and e: its b, c, d and f, g, h
are older ones. The constants are computed from the primes whose roots define them. -/

/-- The largest number of at most `bits` bits whose power does not pass `n`: an integer root, found bit by bit from the top. -/
def rootBits (power n : Nat) : Nat → Nat → Nat
  | 0, r => r
  | b + 1, r => rootBits power n b (if (r + 2 ^ b) ^ power ≤ n then r + 2 ^ b else r)

/-- The first 64 bits of the fraction of a root of a small number: the square root (2) or the cube root (3). -/
def rootFraction (power p : Nat) : Word := BitVec.ofNat 64 (rootBits power (p * 2 ^ (64 * power)) 70 0)

/-- The primes below a bound. -/
def primesBelow (n : Nat) : List Nat :=
  (List.range n).foldl (fun ps p => if 2 ≤ p ∧ ps.all (fun q => p % q != 0) then ps ++ [p] else ps) []

/-- The exclusive or of some right rotations of a word, and of its shift by `s` where `s` is not 0. -/
def turned (x : Word) (rs : List Nat) (s : Nat) : Word :=
  rs.foldl (fun y r => y ^^^ x.rotateRight r) (if s = 0 then 0 else x >>> s)

/-- The word of the message schedule that follows the sixteen newest ones, of which the newest stands first. -/
def nextScheduled (ws : List Word) : Word :=
  nth 0 ws 15 + turned (nth 0 ws 14) [1, 8] 7 + nth 0 ws 6 + turned (nth 0 ws 1) [19, 61] 6

/-- The histories after one more round, newest words first. -/
def shaTurn (as es : List Word) (kw : Word) : List Word × List Word :=
  let e := nth 0 es 0
  let a := nth 0 as 0
  let choice := nth 0 es 2 ^^^ (e &&& (nth 0 es 1 ^^^ nth 0 es 2))
  let major := (a &&& (nth 0 as 1 ||| nth 0 as 2)) ||| (nth 0 as 1 &&& nth 0 as 2)
  let t := nth 0 es 3 + kw + choice + turned e [14, 18, 41] 0
  ((t + major + turned a [28, 34, 39] 0) :: as.take 3, (nth 0 as 3 + t) :: es.take 3)

/-- The rounds of a block: the constants still to use, the sixteen words of the schedule at hand with the oldest last, the histories. -/
def shaRounds : List Word → List Word → List Word × List Word → List Word × List Word
  | [], _, h => h
  | k :: ks, ws, h => shaRounds ks (nextScheduled ws :: ws.take 15) (shaTurn h.1 h.2 (k + nth 0 ws 15))

/-- A block of 1,024 bits, as a number, on the histories that the blocks before it left. -/
def shaBlock (ks : List Word) (h : List Word × List Word) (m : Nat) : List Word × List Word :=
  let r := shaRounds ks ((List.range 16).map (fun i => BitVec.ofNat 64 (m / 2 ^ (64 * i)))) h
  (List.zipWith (· + ·) h.1 r.1, List.zipWith (· + ·) h.2 r.2)

/-- The big-endian value of bytes. -/
def beNat (bs : List Byte) : Nat := bs.foldl (fun a b => a * 256 + b.toNat) 0

/-- The value of words, the first one highest. -/
def beNatWords (ws : List Word) : Nat := ws.foldl (fun a w => a * 2 ^ 64 + w.toNat) 0

/-- SHA-384 of bytes, as a number. The message's bits are followed by a one, by zeros, and in the last 128 bits by their count. -/
def sha384 (bs : List Byte) : Nat :=
  let n := 8 * bs.length
  let blocks := (n + 129 + 1023) / 1024
  let padded := (beNat bs * 2 + 1) * 2 ^ (1024 * blocks - n - 1) + n
  let ps := primesBelow 410
  let start (i : Nat) : Word := rootFraction 2 (nth 0 ps (8 + i))
  let h := (List.range blocks).foldl (fun h i => shaBlock (ps.map (rootFraction 3)) h (padded / 2 ^ (1024 * (blocks - 1 - i))))
    ((List.range 4).map start, (List.range 4).map (fun i => start (4 + i)))
  beNatWords (h.1 ++ h.2.take 2)

/-! ## ECDSA over P-384 (R49, R66) -/

def p384 : Nat := 2 ^ 384 - 2 ^ 128 - 2 ^ 96 + 2 ^ 32 - 1
def p384B : Nat := 0xb3312fa7e23ee7e4988e056be3f82d19181d9c6efe8141120314088f5013875ac656398d8a2ed19d2a85c8edd3ec2aef
def p384N : Nat := 0xffffffffffffffffffffffffffffffffffffffffffffffffc7634d81f4372ddf581a0db248b0a77aecec196accc52973
def p384Gx : Nat := 0xaa87ca22be8b05378eb1c71ef320ad746e1d3b628ba79b9859f741e082542a385502f25dbf55296c3a545e3872760ab7
def p384Gy : Nat := 0x3617de4a96262c6f5d9e98bf9292dc29f8f41dbd289a147ce9da3113b5f0b8c00a60b1ce1d7e819d7a431d7c90ea0e5f

/-- A power modulo `m`, by the bits of the exponent. -/
def powMod (m : Nat) : Nat → Nat → Nat → Nat
  | 0, _, _ => 1 % m
  | n + 1, b, e =>
    let h := powMod m n (b * b % m) (e / 2)
    if e % 2 = 1 then b * h % m else h

/-- The inverse modulo a prime below 2^384. -/
def invMod (m a : Nat) : Nat := powMod m 384 (a % m) (m - 2)

/-- Difference modulo `m`. -/
def subMod (m a b : Nat) : Nat := (a % m + m - b % m) % m

/-- A point of the curve; none is the point at infinity. -/
abbrev EcPoint := Option (Nat × Nat)

/-- Addition of points. -/
def ecAdd (a b : EcPoint) : EcPoint :=
  match a, b with
  | none, q => q
  | q, none => q
  | some (x1, y1), some (x2, y2) =>
    if x1 = x2 ∧ (y1 + y2) % p384 = 0 then none
    else
      let l := if x1 = x2 then subMod p384 (3 * x1 * x1) 3 * invMod p384 (2 * y1) % p384
        else subMod p384 y2 y1 * invMod p384 (subMod p384 x2 x1) % p384
      let x3 := subMod p384 (l * l) (x1 + x2)
      some (x3, subMod p384 (l * subMod p384 x1 x3) y1)

/-- A multiple of a point. -/
def ecMul : Nat → Nat → EcPoint → EcPoint
  | 0, _, _ => none
  | n + 1, k, a =>
    let h := ecMul n (k / 2) (ecAdd a a)
    if k % 2 = 1 then ecAdd a h else h

/-- A pair of coordinates lies on the curve. -/
def onCurve (x y : Nat) : Bool :=
  decide (x < p384) && decide (y < p384) && (y * y) % p384 == (x * x % p384 * x + (p384 - 3) * x + p384B) % p384

/-- FIPS 186-5: a signature (r, s) of a digest under a public key. -/
def ecdsaOk (x y digest r s : Nat) : Bool :=
  onCurve x y && decide (0 < r) && decide (r < p384N) && decide (0 < s) && decide (s < p384N) &&
    (let w := invMod p384N s
     match ecAdd (ecMul 384 (digest * w % p384N) (some (p384Gx, p384Gy))) (ecMul 384 (r * w % p384N) (some (x, y))) with
     | some (vx, _) => vx % p384N == r
     | none => false)

/-! ## Records (R51, R52) -/

/-- A record as the walk finds it. -/
structure ImgRec where
  type : Nat
  flags : Nat
  inst : Nat
  value : List Byte
  pad : List Byte
deriving DecidableEq, Repr

def ImgRec.known (r : ImgRec) : Bool := decide (1 ≤ r.type) && decide (r.type ≤ 8)
def ImgRec.critical (r : ImgRec) : Bool := bit r.flags 0

/-- What a check of an image answers: the result code of R75, or the records. -/
inductive Checked where
  | bad (code : Nat)
  | ok (rs : List ImgRec)
deriving DecidableEq, Repr

/-- Check 7 of R66: the first record that fails decides. -/
def walk : Nat → List Byte → Checked
  | 0, bs => if bs.isEmpty then .ok [] else .bad 5
  | n + 1, bs =>
    if bs.isEmpty then .ok []
    else
      let len := field bs 4 4
      let full := roundUp len 8
      if bs.length < 8 + full then .bad 5
      else
        let r : ImgRec := ⟨field bs 0 2, field bs 2 1, field bs 3 1, (bs.drop 8).take len, (bs.drop (8 + len)).take (full - len)⟩
        if !r.known && r.critical then .bad 9
        else match walk n (bs.drop (8 + full)) with
          | .ok rs => .ok (r :: rs)
          | b => b

/-- The length that a record of known type must have (R537), with the MICROCODE rules of R63. -/
def ImgRec.lengthOk (r : ImgRec) : Bool :=
  match r.type with
  | 1 | 3 | 7 => r.value.length == 8
  | 2 => decide (1 ≤ field r.value 0 2) && r.value.length == 8 + 2 * field r.value 0 2
  | 4 => r.value.length == 176
  | 5 => r.value.length == 20
  | 6 => r.value.length == 132
  | 8 => decide (8 ≤ r.value.length) && decide (1 ≤ field r.value 4 4) && decide (field r.value 4 4 ≤ 2 ^ 20)
      && r.value.length == 8 + field r.value 4 4 && r.critical
  | _ => true

/-- Instance counts and required records (R52). -/
def countsOk (kind vein : Nat) (rs : List ImgRec) : Bool :=
  let n (t : Nat) : Nat := (rs.filter (fun r => r.type == t)).length
  let veins : List Nat := (rs.filter (fun r => r.type == 4)).map (·.inst)
  veins.all (fun v => decide (v < 32)) &&
    (if kind = 0 then
      decide (n 1 ≤ 1) && n 2 == 1 && decide (n 3 ≤ 1) && decide (1 ≤ n 4) && decide (n 4 ≤ 32) && decide (List.Nodup veins)
        && decide (n 5 ≤ 1) && decide (n 6 ≤ 1) && decide (n 7 ≤ 1) && n 8 == 1
    else decide (veins = [vein]) && rs.all (fun r => r.type == 4 || !r.known))

/-! ## The checks in their order (R66) -/

/-- The image with its CRC field taken as zero (R48). -/
def noCrc (img : List Byte) : List Byte := img.take 0x0C ++ List.replicate 4 0 ++ img.drop 0x10

/-- Check 3: the lengths agree. -/
def lengthsOk (img : List Byte) : Bool :=
  let n := field img 8 4
  n % 8 == 0 && decide (320 ≤ n) && decide (n ≤ 2 ^ 22) && n == img.length && field img 0x18 4 == 0x40
    && field img 0x1C 4 == n - 0x140 && field img 0x20 4 == n - 0x100

/-- Check 5: a programmed slot that is not revoked, and whose digest is that of PUBKEY (R50). -/
def keyOk (keys : List (Option (BitVec 384))) (revoked : BitVec 4) (sig : List Byte) : Bool :=
  let slot := field sig 1 1
  field sig 0 1 == 1 && decide (slot < 4) && !revoked.getLsbD slot &&
    (match nth none keys slot with
     | some d => d.toNat == sha384 ((sig.drop 8).take 97)
     | none => false)

/-- Check 6. -/
def sigOk (img sig : List Byte) : Bool :=
  let f (o : Nat) : Nat := beNat ((sig.drop o).take 48)
  field sig 8 1 == 4 && ecdsaOk (f 0x09) (f 0x39) (sha384 ((noCrc img).take (img.length - 0x100))) (f 0x70) (f 0xA0)

/-- Check 8; KIND and VEIN must also be those of the command (R383). -/
def structureOk (kind vein : Nat) (img sig : List Byte) (rs : List ImgRec) : Bool :=
  let z (bs : List Byte) (o n : Nat) : Bool := ((bs.drop o).take n).all (fun b => b == 0)
  decide (field img 6 1 < 2) && decide (field img 7 1 < 32) && (field img 6 1 == 1 || field img 7 1 == 0)
    && field img 6 1 == kind && field img 7 1 == vein && countsOk kind vein rs && rs.all (·.lengthOk)
    && z img 0x24 28 && z sig 2 6 && z sig 0x69 7 && z sig 0xD0 48

/-- The checks of R66; a failure answers its LAST_RESULT code (R75). -/
def checkImage (keys : List (Option (BitVec 384))) (revoked : BitVec 4) (kind vein : Nat) (img : List Byte) : Checked :=
  let sig := img.drop (img.length - 0x100)
  if field img 0 4 ≠ 0x41525453 then .bad 3
  else if field img 5 1 ≠ 2 then .bad 4
  else if !lengthsOk img then .bad 5
  else if (crc32c (noCrc img)).toNat ≠ field img 0x0C 4 then .bad 6
  else if !keyOk keys revoked sig then .bad 7
  else if !sigOk img sig then .bad 8
  else match walk (img.length / 8) ((img.drop 0x40).take (img.length - 0x140)) with
    | .bad c => .bad c
    | .ok rs => if structureOk kind vein img sig rs then .ok rs else .bad 10

end Sys2Proof.Machine
end

