-- ==== Sys2Proof/Machine/Clamping.lean ====
section
/-! DEFINITION. The clamp pass of a Strata load (R52 to R62, R68 to R71, R76): from the records of an accepted image and the health
of the block, the structure that is applied and the report. -/

namespace Sys2Proof.Machine

/-! ## One record's entries (R51, R53, R68, R76) -/

/-- Clamps of one record, each with the value offset that orders it. -/
abbrev Notes := List (Nat × Clamp)

/-- Reasons of R71. -/
def rsnLow : Nat := 1
def rsnHigh : Nat := 2
def rsnCapacity : Nat := 3
def rsnAlign : Nat := 4
def rsnUnhealthy : Nat := 5
def rsnConflict : Nat := 6
def rsnEncoding : Nat := 7
def rsnReserved : Nat := 8
def rsnUnknown : Nat := 9
def rsnInUse : Nat := 10

/-- R76: the instance that an entry of a record of known type shows. -/
def ImgRec.shown (r : ImgRec) : Nat := if r.type = 4 then r.inst else 0

/-- A clamp of a field; `o` orders it, `f` and `e` name the field and its array element. -/
def ImgRec.note (r : ImgRec) (reason o f e given applied : Nat) : Notes :=
  if given = applied then [] else [(o, ⟨r.type, r.shown, reason, f, e, given, applied⟩)]

/-- A value brought into its range (R68). -/
def ImgRec.ranged (r : ImgRec) (o n lo hi f e : Nat) : Nat × Notes :=
  let v := field r.value o n
  if v < lo then (lo, r.note rsnLow o f e v lo) else if hi < v then (hi, r.note rsnHigh o f e v hi) else (v, [])

/-- A field that is no array element. -/
def ImgRec.plain (r : ImgRec) (o n lo hi : Nat) : Nat × Notes := r.ranged o n lo hi o 0

/-- A field of which only the bits below `2 ^ keep` have a meaning (R53). -/
def ImgRec.reserved (r : ImgRec) (o n keep f e : Nat) : Nat × Notes :=
  let v := field r.value o n
  (v % 2 ^ keep, r.note rsnReserved o f e v (v % 2 ^ keep))

/-- Bytes without a meaning. -/
def ImgRec.blank (r : ImgRec) (o n : Nat) : Notes := (r.reserved o n 0 o 0).2

/-- Entries of a record header: FLAGS and INSTANCE. -/
def ImgRec.headNotes (r : ImgRec) : List Clamp :=
  let c (f given applied : Nat) : List Clamp :=
    if given = applied then [] else [⟨r.type, r.shown, rsnReserved, f, 0xFFFF, given, applied⟩]
  c 2 r.flags (r.flags % 2) ++ (if r.type = 4 then [] else c 3 r.inst 0)

/-- The one entry of non-zero padding; FIELD shows the low 16 bits of the value's length (DESIGN CHOICE, assumption 63). -/
def ImgRec.padNote (r : ImgRec) : List Clamp :=
  if leNat r.pad = 0 then [] else [⟨r.type, r.shown, rsnReserved, r.value.length, 0, leNat r.pad, 0⟩]

/-- A record's entries in the order of R68. -/
def ImgRec.report (r : ImgRec) (ns : Notes) : List Clamp :=
  let sorted : Tbl Clamp := ns.foldl (fun (t : Tbl Clamp) (e : Nat × Clamp) => tblIns t e.1 e.2) []
  r.headNotes ++ sorted.map (·.2) ++ r.padNote

/-! ## What is built (R72) -/

/-- The shadow tables: the structure, the first tile clocks, the owner's power cap, the report. -/
structure Built where
  str : Structure
  finit : Tbl Nat
  cap : Nat
  /-- the logical ids that exist: the COUNT that was applied. -/
  ids : Nat
  notes : List Clamp
deriving DecidableEq, Repr

/-- The record of a type, if the image has one. -/
def recOf (rs : List ImgRec) (t : Nat) : Option ImgRec := rs.find? (fun r => r.type == t)

/-- The quarries that passed boot training, as bits. -/
def State.presentBits (s : State) : Nat := (List.range 8).foldl (fun n q => n + (if (s.quarry q).present then 2 ^ q else 0)) 0

/-- QUARRIES (R54). One CONFLICT entry covers both forced bits (DESIGN CHOICE, assumption 63). -/
def Built.quarries (b : Built) (s : State) (rs : List ImgRec) : Built :=
  match recOf rs 1 with
  | none => { b with str := { b.str with quarries := s.presentBits, scrubMin := 60 } }
  | some r =>
    let given := field r.value 0 1
    let forced := 2 ^ (s.blk.quartz.getD s.hostQuarry) ||| 2 ^ s.hostQuarry
    let scrub := r.plain 1 1 15 60
    { b with
      str := { b.str with quarries := (given ||| forced) &&& s.presentBits, scrubMin := scrub.1 }
      notes := b.notes ++ r.report (r.note rsnConflict 0 0 0 given (given ||| forced) ++ scrub.2 ++ r.blank 2 6) }

/-! ## TILE_MAP (R55, R56) -/

/-- A tile that an image may map: healthy, in a quarry that takes part. -/
def State.usable (s : State) (quarries t : Nat) : Bool :=
  decide (t < 416) && bit quarries (quarryOf t) && (s.quarry (quarryOf t)).present && (s.tile t).healthy && decide ((s.tile t).role ≠ .retired)

/-- Tiles of a quarry that a map uses, and whether it uses a tile. -/
def mappedIn (m : Tbl Nat) (q : Nat) : Nat := (m.filter (fun e => quarryOf e.2 == q)).length
def mapUses (m : Tbl Nat) (t : Nat) : Bool := m.any (fun e => e.2 == t)

/-- First pass: each valid entry is mapped; each invalid one is kept with its reason. A duplicate in a full quarry is CONFLICT (DESIGN
CHOICE, assumption 63). -/
def firstPass (ok : Nat → Bool) (given : List Nat) : Tbl Nat × Tbl Nat :=
  given.zipIdx.foldl (fun (p : Tbl Nat × Tbl Nat) x =>
    let bad (r : Nat) : Tbl Nat × Tbl Nat := (p.1, p.2 ++ [(x.2, r)])
    if !ok x.1 then bad rsnUnhealthy
    else if mapUses p.1 x.1 then bad rsnConflict
    else if 48 ≤ mappedIn p.1 (quarryOf x.1) then bad rsnCapacity
    else (p.1 ++ [(x.2, x.1)], p.2)) ([], [])

/-- The tile that replaces an invalid entry. -/
def replacement (ok : Nat → Bool) (m : Tbl Nat) (given : Nat) : Option Nat :=
  let free := (List.range 416).filter (fun t => ok t && !mapUses m t && decide (mappedIn m (quarryOf t) < 48))
  match free.find? (fun t => quarryOf t == quarryOf given) with
  | some t => some t
  | none => free.head?

/-- Second pass: invalid entries in ascending order, until one finds no tile. A cut COUNT gives one entry for each id it drops and none of
its own (DESIGN CHOICE, assumption 63). -/
def secondPass (r : ImgRec) (ok : Nat → Bool) (given : List Nat) : Tbl Nat → Tbl Nat → Tbl Nat × Notes
  | m, [] => (m, [])
  | m, (i, reason) :: bad =>
    let e := nth 0 given i
    match replacement ok m e with
    | some t =>
      let n := secondPass r ok given (tblPut m i t) bad
      (n.1, r.note reason (8 + 2 * i) 8 i e t ++ n.2)
    | none =>
      (m.filter (fun x => decide (x.1 < i)),
       ((given.zipIdx.drop i).map (fun (x : Nat × Nat) =>
         ((8 + 2 * x.2, ⟨r.type, 0, rsnCapacity, 8, x.2, x.1, 0xFFFF⟩) : Nat × Clamp))))

/-- TILE_MAP. -/
def Built.tileMap (b : Built) (s : State) (rs : List ImgRec) : Built :=
  match recOf rs 2 with
  | none => b
  | some r =>
    let count := r.plain 0 2 1 384
    let given := (List.range count.1).map (fun i => field r.value (8 + 2 * i) 2)
    let ok (t : Nat) : Bool := s.usable b.str.quarries t
    let p := firstPass ok given
    let m := secondPass r ok given p.1 p.2
    { b with str := { b.str with tileMap := m.1 }, ids := m.1.length, notes := b.notes ++ r.report (count.2 ++ r.blank 2 6 ++ m.2) }

/-! ## SPARE_POOL, CLOCKS, POWER, LINKS (R57, R62) -/

def Built.sparePool (b : Built) (rs : List ImgRec) : Built :=
  match recOf rs 3 with
  | none => { b with str := { b.str with scope := 1, retireMv := 15, selftestH := 24 } }
  | some r =>
    let scope := r.plain 0 1 0 1
    let mv := r.plain 1 1 5 40
    let h := r.plain 2 1 1 24
    { b with
      str := { b.str with scope := scope.1, retireMv := mv.1, selftestH := h.1 }
      notes := b.notes ++ r.report (scope.2 ++ mv.2 ++ h.2 ++ r.blank 3 5) }

/-- A number for each of the eight quarries. -/
def perQuarry (f : Nat → Nat) : Tbl Nat := (List.range 8).map (fun q => (q, f q))

def Built.clocks (b : Built) (rs : List ImgRec) : Built :=
  match recOf rs 5 with
  | none => { b with str := { b.str with spread := true, boost := true, fixed := false, fmax := perQuarry (fun _ => 25) }, finit := perQuarry (fun _ => 25) }
  | some r =>
    let spread := r.plain 0 1 0 1
    let boost := r.plain 1 1 0 1
    let fixed := r.plain 2 1 0 1
    let boosts := if fixed.1 = 1 then 0 else boost.1
    let fmax (q : Nat) : Nat × Notes :=
      let v := r.ranged (4 + q) 1 4 28 4 q
      if fixed.1 = 1 ∧ v.1 < 25 then (25, v.2 ++ r.note rsnConflict (4 + q) 4 q v.1 25) else v
    let finit (q : Nat) : Nat × Notes := r.ranged (0x0C + q) 1 4 (fmax q).1 0x0C q
    let each (f : Nat → Nat × Notes) : Notes := ((List.range 8).map (fun q => (f q).2)).flatten
    { b with
      str := { b.str with spread := spread.1 == 1, boost := boosts == 1, fixed := fixed.1 == 1, fmax := perQuarry (fun q => (fmax q).1) }
      finit := perQuarry (fun q => (finit q).1)
      notes := b.notes ++ r.report (spread.2 ++ boost.2 ++ r.note rsnConflict 1 1 0 boost.1 boosts ++ fixed.2 ++ r.blank 3 1
        ++ each fmax ++ each finit) }

/-- The ROM coefficients of R470, by event; entries 24 to 31 are ignored. -/
def romCoeff : List Nat :=
  [180000, 1500000, 1400000, 1300000, 40000, 300000, 120000, 9000, 15000, 60000, 25000, 30000] ++
  [8000, 400000, 45000, 60000, 5000, 20000, 30000, 40000, 40000, 12000, 20000, 10000]

def Built.power (b : Built) (rs : List ImgRec) : Built :=
  match recOf rs 6 with
  | none =>
    { b with str := { b.str with classOrder := 0, coeff := (List.range 32).map (fun i => (i, nth 0 romCoeff i)) }, cap := 2800 }
  | some r =>
    let cap := r.plain 0 2 800 3000
    let order := field r.value 2 1
    let given := if 5 < order then 0 else order
    { b with
      str := { b.str with classOrder := given, coeff := (List.range 32).map (fun i => (i, field r.value (4 + 4 * i) 4)) }
      cap := cap.1
      notes := b.notes ++ r.report (cap.2 ++ r.note rsnEncoding 2 2 0 order given ++ r.blank 3 1) }

def Built.links (b : Built) (rs : List ImgRec) : Built :=
  match recOf rs 7 with
  | none => { b with str := { b.str with laneRetries := 3 } }
  | some r =>
    let n := r.plain 0 1 1 15
    { b with str := { b.str with laneRetries := n.1 }, notes := b.notes ++ r.report (n.2 ++ r.blank 1 7) }

/-- MICROCODE: its own fields are never clamped (R63). -/
def Built.microcode (b : Built) (rs : List ImgRec) : Built :=
  match recOf rs 8 with
  | none => b
  | some r => { b with str := { b.str with microcode := field r.value 0 4 }, notes := b.notes ++ r.report [] }

/-! ## VEIN: ranges and quotas (R58, R69, R70) -/

/-- What is left of some ranges, lowest first, without another range. -/
def cutOut (ps : List (Nat × Nat)) (t : Nat × Nat) : List (Nat × Nat) :=
  if t.2 ≤ t.1 then ps
  else (ps.map (fun p =>
    if t.2 ≤ p.1 ∨ p.2 ≤ t.1 then [p]
    else (if p.1 < t.1 then [(p.1, t.1)] else []) ++ (if t.2 < p.2 then [(t.2, p.2)] else []))).flatten

/-- What is left of a range of first element and end without what others hold. -/
def leftOf (p : Nat × Nat) (taken : List (Nat × Nat)) : List (Nat × Nat) := taken.foldl cutOut (if p.1 < p.2 then [p] else [])

/-- A contiguous range of tiles or Flint objects: in range, cut at the end of what exists, cut by other veins. -/
def ImgRec.owned (r : ImgRec) (fo co fmax cmax exist : Nat) (taken : List (Nat × Nat)) : (Nat × Nat) × Notes :=
  let first := r.plain fo 2 0 fmax
  let count := r.plain co 2 0 cmax
  let stop := Nat.max first.1 (Nat.min (first.1 + count.1) exist)
  let kept := match leftOf (first.1, stop) taken with
    | p :: _ => p
    | [] => (first.1, first.1)
  ((kept.1, kept.2 - kept.1),
   first.2 ++ count.2 ++ r.note rsnCapacity co co 0 count.1 (stop - first.1) ++ r.note rsnConflict fo fo 0 first.1 kept.1
    ++ r.note rsnConflict co co 0 (stop - first.1) (kept.2 - kept.1))

/-- A quota: what the other veins leave, but at least what the vein holds. -/
def ImgRec.quota (r : ImgRec) (o others held : Nat) : Nat × Notes :=
  let v := r.plain o 2 0 4096
  let room := 4096 - others
  let cut := Nat.min v.1 room
  (Nat.max cut held, v.2 ++ r.note rsnCapacity o o 0 v.1 cut ++ r.note rsnInUse o o 0 cut (Nat.max cut held))

/-! ## VEIN: the quarry-cache budget (R60, R61), in units of 16 KiB -/

/-- Tiles of a logical range in a quarry. -/
def tilesIn (m : Tbl Nat) (first count q : Nat) : Nat :=
  (m.filter (fun e => decide (first ≤ e.1) && decide (e.1 < first + count) && quarryOf e.2 == q)).length

/-- A vein's share of a quarry's 48 MiB; a way is 6 MiB. -/
def shareOf (tiles ckpt ways : Nat) : Nat := if tiles = 0 then 0 else tiles * ckpt + 384 * ways

/-- Whether a choice of checkpoint units and ways fits every quarry where the vein has tiles. -/
def budgetFits (m : Tbl Nat) (others : List Vein) (first count ckpt ways : Nat) : Bool :=
  (List.range 8).all (fun q =>
    let n := tilesIn m first count q
    n == 0 || decide (others.foldl (fun a v => a + shareOf (tilesIn m v.tileFirst v.tileCount q) v.ckptUnits v.qcWays) (shareOf n ckpt ways) ≤ 3072))

/-- The largest number of a range that satisfies a condition. -/
def largest (lo hi : Nat) (p : Nat → Bool) : Option Nat := ((List.range (hi + 1)).reverse.filter (fun n => decide (lo ≤ n))).find? p

/-- QC_WAYS, CKPT_UNITS and PROTECT after R61: ways first, then units, then protection. CKPT_UNITS has one entry, to its final value, also
where PROTECT is cleared (DESIGN CHOICE, assumption 63). -/
def budget (fits : Nat → Nat → Bool) (ways ckpt : Nat) (protect : Bool) : Nat × Nat × Bool :=
  if fits ckpt ways then (ways, ckpt, protect)
  else match largest 0 ways (fun w => fits ckpt w) with
    | some w => (w, ckpt, protect)
    | none =>
      match largest (if protect then 2 else 0) ckpt (fun c => fits c 0) with
      | some c => (0, c, protect)
      | none => (0, (largest 0 ckpt (fun c => fits c 0)).getD 0, false)

/-! ## VEIN: the granule table (R42, R59, R69) -/

/-- What one entry asks for after its own clamps: the range, the striped part of it, the numbers the report shows, its notes. -/
structure GranAsk where
  lo : Nat
  stop : Nat
  stripeLo : Nat
  stripeEnd : Nat
  first : Nat
  count : Nat
  notes : Notes
deriving DecidableEq, Repr

/-- Existing granules of a range: the first, and how many. -/
def existing (up : Nat → Bool) (p : Nat × Nat) : Nat × Nat :=
  let n (q : Nat) : Nat := (p.2 + 7 - q) / 8 - (p.1 + 7 - q) / 8
  let total := (List.range 8).foldl (fun a q => if up q then a + n q else a) 0
  let firsts := (List.range 8).map (· + p.1)
  ((firsts.find? (fun g => decide (g < p.2) && up (g % 8))).getD p.1, total)

/-- The two report entries of a range that changed. -/
def ImgRec.moved (r : ImgRec) (reason o e first count first' count' : Nat) : Notes :=
  r.note reason o 0x30 e first first' ++ r.note reason (o + 4) 0x34 e count count'

/-- One entry's ranges, alignment and absent stacks. A striped range without a whole group is local: INTERLEAVE 1 to 0, reason ALIGN (DESIGN
CHOICE, assumption 63). -/
def ImgRec.granule (r : ImgRec) (up : Nat → Bool) (e : Nat) : GranAsk :=
  let o := 0x30 + 16 * e
  let first := r.ranged o 4 0 524287 0x30 e
  let count := r.ranged (o + 4) 4 1 524288 0x34 e
  let il := r.ranged (o + 8) 1 0 1 0x38 e
  let stop := Nat.min (first.1 + count.1) 524288
  let n := stop - first.1
  let ns := first.2 ++ count.2 ++ il.2 ++ (r.reserved (o + 9) 7 0 0x39 e).2 ++ r.note rsnCapacity (o + 4) 0x34 e count.1 n
  if (List.range 8).all up then
    let a := roundUp first.1 8
    let b := stop / 8 * 8
    if il.1 = 0 then ⟨first.1, stop, 0, 0, first.1, n, ns⟩
    else if a < b then ⟨first.1, stop, a, b, a, b - a, ns ++ r.moved rsnAlign o e first.1 n a (b - a)⟩
    else ⟨first.1, stop, 0, 0, first.1, n, ns ++ r.note rsnAlign (o + 8) 0x38 e 1 0⟩
  else
    let x := existing up (first.1, stop)
    ⟨first.1, stop, 0, 0, x.1, x.2, ns ++ r.note rsnUnhealthy (o + 8) 0x38 e il.1 0 ++ r.moved rsnUnhealthy o e first.1 n x.1 x.2⟩

/-- The whole groups of a fragment that stay striped: what a lower vein's range cuts inside a group is local (R59). -/
def GranAsk.whole (g : GranAsk) (p : Nat × Nat) : Nat × Nat := (roundUp (Nat.max p.1 g.stripeLo) 8, Nat.min p.2 g.stripeEnd / 8 * 8)

/-- A fragment of an entry as pieces: striped in its whole groups, local outside them. -/
def GranAsk.pieces (g : GranAsk) (slot : Nat) (p : Nat × Nat) : List GranRange :=
  let mk (a b : Nat) (st : Bool) : List GranRange := if a < b then [⟨a, b - a, st, slot⟩] else []
  let w := g.whole p
  if g.stripeLo < g.stripeEnd ∧ w.1 < w.2 then mk p.1 w.1 false ++ mk w.1 w.2 true ++ mk w.2 p.2 false else mk p.1 p.2 false

/-- The entries of a striped fragment whose ends lie inside groups (R59). -/
def ImgRec.alignedTo (r : ImgRec) (g : GranAsk) (e : Nat) (shown : Nat × Nat) (p : Nat × Nat) : Notes :=
  let o := 0x30 + 16 * e
  let w := g.whole p
  if g.stripeEnd ≤ g.stripeLo then []
  else if w.1 < w.2 then r.moved rsnAlign o e shown.1 shown.2 w.1 (w.2 - w.1)
  else r.note rsnAlign (o + 8) 0x38 e 1 0

/-- What the report shows of an entry whose lowest fragment is `p`. -/
def GranAsk.show (g : GranAsk) (up : Nat → Bool) (p : Nat × Nat) : Nat × Nat :=
  if g.stripeLo < g.stripeEnd then
    let a := Nat.max p.1 g.stripeLo
    let b := Nat.min p.2 g.stripeEnd
    if a < b then (a, b - a) else (p.1, p.2 - p.1)
  else existing up p

/-- One entry granted against other veins: fragments above the lowest take free slots, under whose numbers their own alignment is reported.
A loss that takes only ends which ALIGN had left local gives a CONFLICT entry whose numbers are equal. Entries of the same vein that overlap
stay (DESIGN CHOICE, assumption 63). Answers pieces, slots used, notes. -/
def ImgRec.grantGranules (r : ImgRec) (up : Nat → Bool) (taken : List (Nat × Nat)) (e slots : Nat) : List GranRange × Nat × Notes :=
  let g := r.granule up e
  let o := 0x30 + 16 * e
  match leftOf (g.lo, g.stop) taken with
  | [] => ([], slots, g.notes ++ r.note rsnConflict (o + 4) 0x34 e g.count 0)
  | p :: ps =>
    let more := ps.take (8 - slots)
    let whole := decide (p = (g.lo, g.stop))
    let shown := if whole then (g.first, g.count) else g.show up p
    let lost : Notes :=
      if decide (shown = (g.first, g.count)) && !whole && decide (g.stripeLo < g.stripeEnd) then
        [(o + 4, ⟨r.type, r.shown, rsnConflict, 0x34, e, g.count, g.count⟩)]
      else r.moved rsnConflict o e g.first g.count shown.1 shown.2
    (g.pieces e p ++ ((more.zipIdx).map (fun x => g.pieces (slots + x.2) x.1)).flatten, slots + more.length,
     g.notes ++ lost ++ r.alignedTo g e shown p
      ++ ((more.zipIdx).map (fun x => r.alignedTo g (slots + x.2) (g.show up x.1) x.1)).flatten)

/-- The granule table: the entries below GRAN_RANGES; what stands at or beyond it is not looked at (DESIGN CHOICE, assumption 63). -/
def ImgRec.granules (r : ImgRec) (up : Nat → Bool) (taken : List (Nat × Nat)) (n : Nat) : List GranRange × Notes :=
  let x := (List.range n).foldl (fun (p : List GranRange × Nat × Notes) e =>
    let q := r.grantGranules up taken e p.2.1
    (p.1 ++ q.1, q.2.1, p.2.2 ++ q.2.2)) ([], n, [])
  (x.1, x.2.2)

/-! ## VEIN (R58, R68 to R70) -/

/-- A VEIN record that is not skipped. `held`: queues and contexts that a vein being replaced holds. -/
def Built.veinRec (b : Built) (s : State) (r : ImgRec) (held : Nat × Nat) : Built :=
  let others := (b.str.veins.filter (fun e => e.1 != r.inst)).map (·.2)
  let up (q : Nat) : Bool := bit b.str.quarries q && (s.quarry q).present
  let tiles := r.owned 0 2 383 384 b.ids (others.map (fun v => (v.tileFirst, v.tileFirst + v.tileCount)))
  let objs := r.owned 4 6 16383 16384 16384 (others.map (fun v => (v.flintFirst, v.flintFirst + v.flintCount)))
  let queues := r.quota 8 (others.foldl (fun a v => a + v.queueQuota) 0) held.1
  let ctxs := r.quota 0x0A (others.foldl (fun a v => a + v.contextQuota) 0) held.2
  let dcache := r.reserved 0x0C 1 5 0x0C 0
  let ways := r.plain 0x0D 1 0 8
  let ckpt := r.plain 0x0E 1 0 50
  let prot := r.reserved 0x0F 1 1 0x0F 0
  let ckpt2 := if prot.1 = 1 then Nat.max ckpt.1 2 else ckpt.1
  let bud := budget (fun c w => budgetFits b.str.tileMap others tiles.1.1 tiles.1.2 c w) ways.1 ckpt2 (prot.1 == 1)
  let prio := r.plain 0x10 1 0 7
  let order := field r.value 0x11 1
  let order' := if 5 < order then b.str.classOrder else order
  let dog := r.plain 0x18 8 (2 ^ 16) (2 ^ 36)
  let dead := r.plain 0x20 8 0 (2 ^ 40)
  let n := r.plain 0x28 1 0 8
  let grans := r.granules up ((others.map (fun v => v.ranges.map (fun g => (g.first, g.first + g.count)))).flatten) n.1
  let v : Vein := ⟨tiles.1.1, tiles.1.2, objs.1.1, objs.1.2, queues.1, ctxs.1, dcache.1, bud.1, bud.2.1, bud.2.2, prio.1, order', dog.1,
    dead.1, grans.1⟩
  { b with
    str := { b.str with veins := tblPut b.str.veins r.inst v }
    notes := b.notes ++ r.report (tiles.2 ++ objs.2 ++ queues.2 ++ ctxs.2 ++ dcache.2 ++ ways.2 ++ r.note rsnCapacity 0x0D 0x0D 0 ways.1 bud.1
      ++ ckpt.2 ++ r.note rsnLow 0x0E 0x0E 0 ckpt.1 ckpt2 ++ r.note rsnCapacity 0x0E 0x0E 0 ckpt2 bud.2.1
      ++ prot.2 ++ r.note rsnCapacity 0x0F 0x0F 0 prot.1 (b2n bud.2.2) ++ prio.2
      ++ r.note rsnEncoding 0x11 0x11 0 order order' ++ r.blank 0x12 6 ++ dog.2 ++ dead.2 ++ n.2 ++ r.blank 0x29 7 ++ grans.2) }

/-- A VEIN record; it is skipped with one entry where its vein has no sequencer (R42, R54). -/
def Built.vein (b : Built) (s : State) (r : ImgRec) (held : Nat × Nat) : Built :=
  if bit b.str.quarries (r.inst / 4) && (s.quarry (r.inst / 4)).present then b.veinRec s r held
  else { b with
    str := { b.str with veins := tblDel b.str.veins r.inst }
    notes := b.notes ++ [⟨4, r.inst, rsnUnhealthy, 0, 0, r.inst / 4, 0⟩] }

/-- The VEIN records in ascending vein id. -/
def veinRecs (rs : List ImgRec) : List ImgRec :=
  let t : Tbl ImgRec := (rs.filter (fun r => r.type == 4)).foldl (fun (t : Tbl ImgRec) r => tblIns t r.inst r) []
  t.map (·.2)

/-- Records of unknown type close the report, with their INSTANCE byte as it stands and no other entry (DESIGN CHOICE, assumption 63). -/
def unknownNotes (rs : List ImgRec) : List Clamp :=
  (rs.filter (fun r => !r.known)).map (fun r => ⟨r.type, r.inst, rsnUnknown, 0, 0, r.type, 0⟩)

/-! ## The pass (R68) -/

/-- A full image. -/
def State.clampFull (s : State) (rs : List ImgRec) : Built :=
  let b : Built := ⟨{}, [], 2800, 0, []⟩
  let b := (((((b.quarries s rs).tileMap s rs).sparePool rs).clocks rs).power rs).links rs
  let b := ((veinRecs rs).foldl (fun b r => b.vein s r (0, 0)) b).microcode rs
  { b with notes := b.notes ++ unknownNotes rs }

/-- A partial image: the vein is granted afresh against the other veins (R70). Unserved ids exist still (R494). -/
def State.clampPartial (s : State) (v : Nat) (rs : List ImgRec) : Built :=
  let held := ((s.queues.filter (fun e => e.2.vein == v)).length, (s.ctxs.filter (fun e => e.2.vein == v)).length)
  let b : Built := ⟨{ s.strata.str with veins := tblDel s.strata.str.veins v }, [], s.pwr.capOwner,
    s.strata.str.tileMap.length + s.flt.unserved.length, []⟩
  let b := (veinRecs rs).foldl (fun b r => b.vein s r held) b
  { b with notes := b.notes ++ unknownNotes rs }

end Sys2Proof.Machine
end

