-- ==== Sys2Proof/Machine/Strata.lean ====
section
/-! DEFINITION. LOAD_STRATA: the idle check, the fetch into the staging buffer, the checks, the switch of the shadow tables and what
the load still does after it (R64 to R67, R70, R72, R75, R76, R226, R238, R247, R250, R319, R327). -/

namespace Sys2Proof.Machine

/-! ## Starting and ending a load (R65, R67, R75) -/

/-- No task of a vein is in flight, and every queue bound to it is empty. -/
def State.veinIdle (s : State) (v : Nat) : Bool :=
  s.queues.all (fun e => e.2.vein != v || s.queueIdle e.2) && s.tasks.all (fun e => e.2.queue.isNone || e.2.vein != v || e.2.over)

/-- The idle check. A KIND that no image has is left to check 8. -/
def State.loadIdle (s : State) (kind vein : Nat) : Bool :=
  if kind = 0 then s.queues.isEmpty && s.ctxs.isEmpty
  else if kind = 1 then decide (s.blk.state = .structured) && s.veinIdle vein
  else true

/-- A rejected load: LAST_RESULT, and the status it completes with. -/
def State.rejectLoad (s : State) (k code : Nat) (st : Status) : State :=
  let s := { s with
    strata := { s.strata with lastResult := code, load := none }
    blk := { s.blk with fetchHold := [] } }
  (s.modTask k (fun x => { x with result := code })).failTask k st noDetail

/-- LOAD_STRATA. LAST_VEIN shows a VEIN above 31 modulo 32 (DESIGN CHOICE, assumption 63). -/
def execLoadStrata (s : State) : Host.Outcome State Fault Refusal :=
  .next (s.onAdmin true (fun k b => match b with
    | .loadStrata _ kind vein _ _ =>
      let s := { s with strata := { s.strata with lastVein := vein % 32, lastPartial := kind == 1 } }
      if s.loadIdle kind vein then
        { s with
          strata := { s.strata with load := some ⟨k, kind == 1, vein, false, 0, s.strata.str, 0, none⟩ }
          blk := { s.blk with fetchHold := if kind = 1 then [vein] else [] } }.modTask k (fun x => { x with phase := .running })
      else s.rejectLoad k 11 .busy
    | _ => s))

/-- A reset or FLR before the switch abandons the load (R72). -/
def State.abortLoad (s : State) : State :=
  match s.strata.load with
  | some l =>
    if l.switched then s
    else { s with strata := { s.strata with lastResult := 13, load := none }, blk := { s.blk with fetchHold := [] } }
  | none => s

/-! ## The fetch (R64) -/

/-- What the fetch of an image has come to. -/
inductive Staging where
  | notYet (s : State)
  | failed (s : State) (st : Status)
  | image (s : State) (bs : List Byte)

/-- Device bytes of an image, read at their homes; an absent stack's are poison. -/
def State.stageDevice (s : State) (a n : Nat) : Staging :=
  if !(s.hostHeld a n false).isEmpty then .notYet (s.recallHost a n false)
  else if (sectorsOf a n).any (fun x => !s.granExists (granOf (128 * x))) || s.readPoison a n then .failed s .poisonedOutput
  else .image (s.dropFresh a n) (s.readLatest a n)

/-- Host bytes of an image come with the command, but for parts that a translation puts into the block's own memory. -/
def State.stageHost (s : State) (k addr n : Nat) (h : HostData) : Staging :=
  let src := Src.sequencer k
  match (pagesOf (hostAddr addr) n).find? (fun p => decide (s.reachHost src s.admPasid p false = .miss)) with
  | some p => .notYet (s.askXlate src s.admPasid p false true)
  | none =>
    let parts := (chunks4K (hostAddr addr) n).map (fun c => (c, s.reachHost src s.admPasid c.2.1 false))
    let own := parts.filterMap (fun c => match c.2 with
      | .to (.device a _) _ => some (a, c.1.2.2)
      | _ => none)
    let viaIo := parts.any (fun c => match c.2 with
      | .to (.host _ io) _ => io
      | _ => false)
    let outside := decide (own.length < parts.length)
    let held := own.filter (fun p => !(s.hostHeld p.1 p.2 false).isEmpty)
    let s' := held.foldl (fun s p => s.recallHost p.1 p.2 false) s
    if !held.isEmpty then .notYet s'
    else if parts.any (fun c => match c.2 with
        | .to d _ => !s.answersAt d h
        | _ => false) then .notYet s
    else match outside, h with
      | true, .refused => .failed (s.dropGrants src) (if viaIo then .poisonedOutput else .xlatFault)
      | true, .timedOut => .failed ((s.aer 14).dropGrants src) .poisonedOutput
      | true, .data _ true => .failed ((if viaIo then s.aer 12 else s).dropGrants src) .poisonedOutput
      | _, h =>
        let got := match h with
          | .data bs _ => bs
          | _ => []
        if outside && decide (got.length < n) then .notYet s
        else if own.any (fun p => s.readPoison p.1 p.2) then .failed (s.dropGrants src) .poisonedOutput
        else
          let bs := (parts.map (fun c => match c.2 with
            | .to (.device a _) _ => s.readLatest a c.1.2.2
            | _ => (got.drop c.1.1).take c.1.2.2)).flatten
          .image (own.foldl (fun s p => s.dropFresh p.1 p.2) (s.dropGrants src)) bs

/-- The staging buffer holds 4 MiB; what a longer image has beyond it is never read, and its length fails (R46, R64, R66). -/
def State.stage (s : State) (k space addr len : Nat) (h : HostData) : Staging :=
  let n := Nat.min len (2 ^ 22)
  match if space = 0 then s.stageDevice addr n else s.stageHost k addr n h with
  | .image s bs => .image s (if len = n then bs else bs ++ [0])
  | f => f

/-- The status of a rejection by its LAST_RESULT (R67). -/
def rejectStatus (code : Nat) : Status := if code = 7 ∨ code = 8 then .accessDenied else .malformed

/-! ## The switch (R70, R72) -/

/-- A granule that loses its contents in a load: under a full load one whose vein changes, under a partial load one that leaves the
vein; under either, one whose group changes mode (R70, R250). -/
def granChanges (isPartial : Bool) (vein : Nat) (old new : Structure) (oldUp newUp : Nat → Bool) (g : Nat) : Bool :=
  let v (x : Structure) (up : Nat → Bool) : Option Nat := if up (g % 8) then (x.granVein g).map (·.1) else none
  (if isPartial then decide (v old oldUp = some vein) && decide (v new newUp ≠ some vein) else decide (v old oldUp ≠ v new newUp))
    || old.striped oldUp g != new.striped newUp g

/-- The quarries that are there, as bits. -/
def State.upBits (s : State) : Nat := (List.range 8).foldl (fun n q => n + (if s.present q then 2 ^ q else 0)) 0

/-- The quarries of a structure that passed boot training. -/
def State.upWith (s : State) (x : Structure) (q : Nat) : Bool := (s.quarry q).present && bit x.quarries q

/-- Sectors of changing granules that the host holds. -/
def State.heldIn (s : State) (p : Nat → Bool) : List Nat :=
  ((s.homes.dir.filter (fun e => p (e.1 / 4096))).map (fun e => [0, 1, 2, 3].map (fun i => 4 * e.1 + i))).flatten.filter
    (fun x => setHas (s.dirEntry (x * 128)).presence 416 && decide (s.sectSt x ≠ .i))

/-- Copies of changing granules are written back and go, their quarry-cache lines too, and their owner tags become 0x0000. -/
def State.leaveGranules (s : State) (p : Nat → Bool) : State :=
  let blocks := (s.homes.dir.filter (fun e => p (e.1 / 4096))).map (·.1)
  let s := blocks.foldl (fun s b => s.evictBlock b) s
  { s with
    qc := { s.qc with lines := s.qc.lines.filter (fun e => !p (e.1 / 16384)) }
    mem := { s.mem with tags := s.mem.tags.filter (fun e => !p e.1) } }

/-- The vein of a structure that owns a logical tile id. -/
def Structure.tileVein (x : Structure) (l : Nat) : Option Nat :=
  (x.veins.find? (fun e => decide (e.2.tileFirst ≤ l) && decide (l < e.2.tileFirst + e.2.tileCount))).map (·.1)

/-- Tile memory is zeroed, the cache disposed of, the checkpoints are gone. -/
def State.wipeTile (s : State) (t : Nat) : State :=
  (s.disposeCache t).modTile t (fun x => { x with
    scratch := [], poison := [], full := [], context := none, ckpt0 := none, ckpt1 := none, ckptLost := false, segs := [], owned := [] })

/-- The logical id that a map gives a tile. -/
def servesOf (m : Tbl Nat) (t : Nat) : Option Nat := (m.find? (fun e => e.2 == t)).map (·.1)

/-- A full load gives every tile its role (R54, R56). -/
def State.roleOf (s : State) (x : Structure) (t : Nat) : Role :=
  if decide ((s.tile t).role = .retired) then .retired
  else if !s.upWith x (quarryOf t) then .absent
  else if (servesOf x.tileMap t).isSome then .mapped
  else if decide ((s.tile t).role = .testing) then .testing
  else if (s.tile t).healthy then .spare
  else (s.tile t).role

/-- Tiles under a full load: those whose id, vein or cache layout changes are wiped; every checkpoint area starts empty (R247). -/
def State.retile (s : State) (old new : Structure) : State :=
  (List.range 416).foldl (fun s t =>
    let role := s.roleOf new t
    let id := servesOf new.tileMap t
    let v (x : Structure) (l : Option Nat) : Option Nat := l.bind x.tileVein
    let shape (x : Structure) (w : Option Nat) : Option Nat := (w.bind (tblFind x.veins)).map (·.dcache)
    let was := servesOf old.tileMap t
    let same := decide (was = id) && decide (v old was = v new id) && decide (shape old (v old was) = shape new (v new id))
    if decide (role = (s.tile t).role) && (same || decide (role = .retired) || decide (role = .absent)) then
      if (s.tile t).ckpt0.isSome || (s.tile t).ckpt1.isSome then s.modTile t (fun x => { x with ckpt0 := none, ckpt1 := none, ckptLost := false })
      else s
    else
      (s.wipeTile t).modTile t (fun x => { x with role := role, logical := id.getD 0, vein := (v new id).getD 0 })) s

/-- Tiles under a partial load: those that change vein are wiped; a new cache layout empties the others' caches (R226). -/
def State.reveinTiles (s : State) (vein : Nat) (old new : Structure) : State :=
  let changed := decide ((tblFind old.veins vein).map (·.dcache) ≠ (tblFind new.veins vein).map (·.dcache))
  new.tileMap.foldl (fun s e =>
    let was := old.tileVein e.1
    let now := new.tileVein e.1
    if was ≠ now then (s.wipeTile e.2).modTile e.2 (fun x => { x with vein := now.getD 0 })
    else if now = some vein then
      let s := if changed then (s.cycleTileCache e.2).modTile e.2 (fun x => { x with context := none }) else s
      s.modTile e.2 (fun x => { x with ckpt0 := none, ckpt1 := none, ckptLost := false })
    else s) s

/-- Quarries that do not take part: their Flint slices are served by the mirrors (R42, R54). -/
def State.absentSlices (s : State) (x : Structure) : State :=
  let out := (List.range 8).filter (fun q => !s.upWith x q)
  { s with flint := { s.flint with
      moved := out.foldl setIns s.flint.moved
      unmirrored := out.foldl (fun m q => setIns (setIns m q) (q ^^^ 4)) s.flint.unmirrored } }

/-- The tile clocks that an image gives, and the end of every boost (R62, R455, R457); under an alert they are recorded (R464). -/
def State.setFinit (s : State) (finit : Tbl Nat) : State :=
  let f (q : Nat) : Nat := tblGet 25 finit q
  { s with pwr := if s.pwr.alertFloor then { s.pwr with deferredFset := some ((List.range 8).foldl (fun n q => n + f q * 2 ^ (8 * q)) 0) }
    else { s.pwr with q := (List.range 8).foldl (fun (m : Tbl QPower) q =>
      let x : QPower := tblGet {} m q
      tblPut m q { x with fset := f q, boost := 0, freq := if x.boost = 0 then x.freq else Nat.min 25 x.freq }) s.pwr.q } }

/-- The owner's cap that an image gives; under an alert it is recorded (R464). -/
def State.setCap (s : State) (w : Nat) : State :=
  if s.pwr.alertFloor then { s with pwr := { s.pwr with deferredOwner := some w } } else { s with pwr := { s.pwr with capOwner := w } }

/-- The shadow tables are switched in. -/
def State.switchTo (s : State) (l : Load) (b : Built) (img : List Byte) : State :=
  let old := s.strata.str
  let new := { b.str with digest := BitVec.ofNat 384 (sha384 ((noCrc img).take (img.length - 0x100))) }
  let oldBits := s.upBits
  let p := granChanges l.isPartial l.vein old new (fun q => bit oldBits q) (s.upWith new)
  let s := s.leaveGranules p
  let s := if l.isPartial then s.reveinTiles l.vein old new else s.retile old new
  let before := s
  let s := { s with strata := { s.strata with
    inForce := true, str := new, lastResult := if b.notes.isEmpty then 1 else 2, loads := satAdd 16 s.strata.loads 1, clamps := b.notes
    serial := field img 0x10 8, kind := field img 6 1, vein := field img 7 1, when' := s.now
    load := some { l with switched := true, microcode := new.microcode, old := old, oldUp := oldBits, staged := none } } }
  let only := if l.isPartial then some l.vein else none
  let s := (s.divideWays only).leaveWays before only
  if l.isPartial then s
  else
    let s := { s.setFinit b.finit with flt := { s.flt with unserved := [] } }
    (s.setCap b.cap).absentSlices new

/-- The key fuses and revocation bits that the active Quartz pair reads: those of its own die (R50). -/
def State.fuses (s : State) : List (Option (BitVec 384)) × BitVec 4 :=
  if decide (s.blk.quartz = some 4) then (s.blk.keys4, s.blk.revoked4) else (s.blk.keys, s.blk.revoked)

/-- STRATA_STAGED: the image has been fetched; it is checked, clamped and switched in, or rejected. While host copies of changing granules
are recalled it waits in the staging buffer, and its source is not read again (R64). -/
def execStrataStaged (fetch : HostData) (f : DramFinding) (s : State) : Host.Outcome State Fault Refusal :=
  .next (match s.strata.load with
    | none => s
    | some l =>
      match s.task? l.task with
      | none => s
      | some x =>
      match x.admin with
      | some (.loadStrata space kind vein addr len) =>
        if l.switched then s
        else if !x.faults.isEmpty then s.rejectLoad l.task 12 .xlatFault
        else match (match l.staged with
          | some bs => Staging.image s bs
          | none => (if space = 0 then s.bulkFound [(addr, len)] f else s).stage l.task space addr len fetch) with
          | .notYet s => s
          | .failed s st => s.rejectLoad l.task 12 st
          | .image s img =>
            match checkImage s.fuses.1 s.fuses.2 kind vein img with
            | .bad c => s.rejectLoad l.task c (rejectStatus c)
            | .ok rs =>
              let b := if l.isPartial then s.clampPartial vein rs else s.clampFull rs
              let bits := s.upBits
              let held := s.heldIn (granChanges l.isPartial l.vein s.strata.str b.str (fun q => bit bits q) (s.upWith b.str))
              if held.isEmpty then s.switchTo l b img
              else held.foldl (fun s x => s.askHost x .inv 0) { s with strata := { s.strata with load := some { l with staged := some img } } }
      | _ => s)

/-! ## After the switch (R63, R70, R73) -/

/-- Every granule that loses its contents is zero-filled, with P clear and F empty. -/
def State.zeroWhere (s : State) (p : Nat → Bool) : State :=
  { s with mem := { s.mem with
      bytes := s.mem.bytes.filter (fun e => !p (granOf e.1))
      poison := s.mem.poison.filter (fun w => !p (granOf (8 * w)))
      full := s.mem.full.filter (fun w => !p (granOf (8 * w))) } }

/-- Flint: a full load frees every object; a partial load ends the objects that leave the vein (R70, R327, R354). -/
def State.loadObjects (s : State) (l : Load) : State :=
  if l.isPartial then
    let has (x : Structure) (n : Nat) : Bool := match tblFind x.veins l.vein with
      | some v => v.hasObj n
      | none => false
    let gone := (s.flint.objs.filter (fun e => e.2.state != 0 && has l.old e.1 && !has s.strata.str e.1)).map (·.1)
    gone.foldl (fun s n => s.abandon n) s
  else { s with flint := { s.flint with objs := [], mirror := [], waiters := [], mirrorWaiters := [], wakes := [], childReads := [] } }

/-- A tile whose logical id no vein owns any more serves the lowest unserved id of a vein (R494). -/
def State.serveFreed (s : State) : Nat → State
  | 0 => s
  | n + 1 =>
    let s := s.serveFree
    let wanted := s.flt.unserved.find? (fun l => (s.strata.str.tileVein l).isSome)
    let freed := s.strata.str.tileMap.find? (fun e => (s.strata.str.tileVein e.1).isNone && (s.tile e.2).healthy)
    match wanted, freed with
    | some l, some e =>
      let s := { s with
        strata := { s.strata with str := { s.strata.str with tileMap := tblDel s.strata.str.tileMap e.1 } }
        flt := { s.flt with unserved := setIns s.flt.unserved e.1 } }
      (s.mapTile e.2 l ((s.strata.str.tileVein l).getD 0)).serveFreed n
    | _, _ => s

/-- What a load does between its switch and its completion. -/
def State.finishLoad (s : State) : State :=
  match s.strata.load with
  | none => s
  | some l =>
    if !l.switched then s
    else
      let s := s.zeroWhere (granChanges l.isPartial l.vein l.old s.strata.str (fun q => bit l.oldUp q) s.present)
      let s := s.loadObjects l
      let s := if l.isPartial then s.serveFreed s.flt.unserved.length else s
      -- R237: a partial load's sequencer has invalidated its entry cache, a microcode changeover the Quartz cores' caches
      let woken (n : Nat) : Bool := if l.isPartial then n != 1024 + l.vein else decide (1024 ≤ n)
      let s := { s with
        strata := { s.strata with load := none }
        blk := { s.blk with
          fetchHold := [], veinDown := if l.isPartial then setDel s.blk.veinDown l.vein else []
          privOff := s.blk.privOff.filter woken, privStale := s.blk.privStale.filter woken
          entryCache := if l.isPartial then tblDel s.blk.entryCache l.vein else s.blk.entryCache } }
      if decide (s.blk.state = .unstructured) then s.setBlk .structured else s

/-- STRATA_LOAD_DONE. -/
def execStrataLoadDone (s : State) : Host.Outcome State Fault Refusal :=
  .next (match s.strata.load with
    | none => s
    | some l =>
      if l.switched then
        (s.finishLoad.modTask l.task (fun x => { x with result := s.strata.lastResult + 2 ^ 32 * s.strata.clamps.length })).finish l.task
      else s)

end Sys2Proof.Machine
end

