-- ==== Sys2Proof/Machine/Power.lean ====
section
/-! DEFINITION. Power, clocks, thermal control, sleep and the reference counter (R455 to R481). -/

namespace Sys2Proof.Machine

/-! ## Frequency (R455 to R458) -/

/-- FMAX or the AGEING ceiling, whichever is lower; 1.8 GHz on the fabric PLL (R490). -/
def State.ceiling (s : State) (q : Nat) : Nat :=
  Nat.min (Nat.min (tblGet 28 s.strata.str.fmax q) (s.qpower q).ageCeiling) (if (s.qpower q).pllFallback then 18 else 28)

/-- What FSET or fixed mode asks for. -/
def State.asked (s : State) (q : Nat) : Nat := if s.strata.str.fixed then 25 else (s.qpower q).fset

/-- The target frequency. -/
def State.target (s : State) (q : Nat) : Nat :=
  if !s.structured then 4
  else if s.strata.str.fixed then Nat.min 25 (s.ceiling q)
  else Nat.max 4 (Nat.min (s.asked q) (s.ceiling q))

/-- The target as the clock runs at it without a limit: 2.5 GHz at most, or the boost frequency, which never passes the ceiling (R457). -/
def State.unlimited (s : State) (q : Nat) : Nat :=
  if (s.qpower q).boost = 0 then Nat.min 25 (s.target q) else Nat.min (s.qpower q).boost (s.ceiling q)

/-- The frequency at which a quarry's tiles are clocked: under the alert floor, and until the quarry has left it, the divider gives 0.4 GHz
(R464). -/
def State.tileClock (s : State) (q : Nat) : Nat := if s.pwr.alertFloor || (s.qpower q).leaving then 4 else (s.qpower q).freq

/-- The lowest of the limits of R455. -/
def State.wanted (s : State) (q : Nat) : Nat :=
  let x := s.qpower q
  if s.pwr.alertFloor then 4
  else
    let f := Nat.min (s.unlimited q) (Nat.min x.thermLimit x.currLimit)
    if s.strata.str.fixed then f else Nat.min f x.capLimit

/-! ## Throttle reasons (R469) -/

/-- Whether the reasons of R469 act in a quarry: CAP, RACK, THERMAL, CURRENT, DROOP, ALERT, AGEING in the order of THR_REASON. -/
def State.reasonList (s : State) (q : Nat) : List Bool :=
  let x := s.qpower q
  let u := s.unlimited q
  let rack := decide (s.pwr.capRack ≤ s.pwr.capOwner)
  [x.capped && !rack, x.capped && rack, decide (x.thermLimit < u) || x.thermGate || decide (x.stackAdmit < 8), decide (x.currLimit < u),
    x.stretchedTick, (s.pwr.alertFloor || x.leaving) && decide (s.blk.state ≠ .sleep), s.structured && decide (s.ceiling q < s.asked q)]

/-- The bits of QRY_POWER.REASONS. -/
def State.reasons (s : State) (q : Nat) : BitVec 7 :=
  if (s.quarry q).present then (s.reasonList q).zipIdx.foldl (fun n b => if b.1 then n ||| (1#7 <<< b.2) else n) 0 else 0

/-- THR_REASON: the union over the quarries. -/
def State.reasonAny (s : State) : BitVec 7 := (List.range 8).foldl (fun n q => n ||| s.reasons q) 0

/-- Reasons that are active are recorded (R469). -/
def State.noteReasons (s : State) : State := { s with pwr := { s.pwr with seen := s.pwr.seen ||| s.reasonAny } }

/-- A change of a quarry's power state. -/
def State.onQ (s : State) (q : Nat) (f : QPower → QPower) : State := if q < 8 then (s.modQPower q f).noteReasons else s

/-- Boost ends: the quarry drops to 2.5 GHz at once. -/
def State.dropBoost (s : State) (q : Nat) : State :=
  s.modQPower q (fun x => if x.boost = 0 then x else { x with boost := 0, freq := Nat.min 25 x.freq })

/-- The conditions of R457 but for the grant. -/
def State.boostHolds (s : State) (q : Nat) : Bool :=
  let x := s.qpower q
  s.structured && s.strata.str.boost && !s.strata.str.fixed && decide (25 ≤ x.fset) && decide (x.computeC < 85) && decide (x.baseC < 85)
    && decide (x.dramC < 85) && decide (10 * x.railAverage < 9 * x.railLimit) && !s.pwr.alert

def State.checkBoost (s : State) (q : Nat) : State := if s.boostHolds q then s else s.dropBoost q

/-- BOOST_STEP: one step up, or the end of boosting. -/
def execBoostStep (quarry nextStepWatts : Nat) (s : State) : Host.Outcome State Fault Refusal :=
  .next (if !(s.quarry quarry).present then s
    else
      let x := s.qpower quarry
      if s.boostHolds quarry && decide (1000 * nextStepWatts ≤ x.grant) then
        let f := Nat.min (s.ceiling quarry) (Nat.max 25 x.boost + 1)
        if f ≤ 25 then (s.dropBoost quarry).noteReasons else s.onQ quarry (fun x => { x with boost := f })
      else (s.dropBoost quarry).noteReasons)

/-- An FSET write: every byte is clamped to 4 and its quarry's ceiling (R483). -/
def State.setFset (s : State) (v : Nat) : State :=
  ((List.range 8).foldl (fun (s : State) q =>
    let c := s.ceiling q
    (s.modQPower q (fun x => { x with fset := clampTo 4 (Nat.max 4 c) (bits v (8 * q) 5) })).checkBoost q) s).noteReasons

/-- PWR_FSET: ignored before the first image and in fixed mode; recorded under an alert (R455, R458, R464). -/
def execPwrFset (w : Who) (v : Word) (s : State) : Host.Outcome State Fault Refusal :=
  .next (s.ownerWrite (.pwrFset w v) w 0x200018 (fun s =>
      if !s.structured || s.strata.str.fixed then s
      else if s.pwr.alertFloor then { s with pwr := { s.pwr with deferredFset := some v.toNat } }
      else s.setFset v.toNat))

/-! ## Voltage (R459, R460) -/

/-- The ROM table of a typical part, in millivolts (assumption 8); the steps that it does not list are open. -/
def romMv (f : Nat) : Nat :=
  if f = 4 then 600 else if f = 10 then 650 else if f = 15 then 700 else if f = 16 then 710 else if f = 20 then 750
  else if f = 22 then 770 else if f = 24 then 790 else if f = 25 then 800 else if f = 28 then 860 else Config.romMilliVolts f

/-- The table entry of a step: ROM, 25 mV of guard band, and the trim. -/
def QPower.milliVolts (x : QPower) (f : Nat) : Nat := ((romMv f : Int) + 25 + 5 * tblGet 0 x.trim f).toNat

/-- FREQ_CHANGE_DONE: the quarry's clock has come to the lowest of its limits; upwards only once the rail has (R456). The floor's divider
needs no change (R464). -/
def execFreqChangeDone (quarry : Nat) (s : State) : Host.Outcome State Fault Refusal :=
  .next (if s.pwr.alertFloor || decide (s.blk.state = .sleep) || !(s.quarry quarry).present then s
    else
      let f := s.wanted quarry
      let x := s.qpower quarry
      if x.freq < f ∧ x.rail < 10 * x.milliVolts f then s
      else s.onQ quarry (fun x => { x with freq := f, leaving := false }))

/-- The entry of the current step moves by `d` steps of 5 mV. -/
def QPower.trimBy (x : QPower) (d : Int) : QPower := { x with trim := tblPut x.trim x.freq (tblGet (0 : Int) x.trim x.freq + d) }

/-- VOLTAGE_TRIM: the monitors report the smallest margin of the quarry. Below 20 mV the entry of the current step rises by 5 mV, every
100 µs; a step that would exceed 0.95 V leaves the ceiling (R460). Above 40 mV for 1 s it falls by 5 mV. -/
def execVoltageTrim (quarry marginMv : Nat) (s : State) : Host.Outcome State Fault Refusal :=
  .next (if !(s.quarry quarry).present || decide (s.blk.state = .sleep) then s
    else s.onQ quarry (fun x =>
      if marginMv < 20 then
        let x := { x with marginHigh := none }
        if x.trimmedAt.any (fun t => decide (s.now < t + 100 * usTicks)) then x
        else if 950 < x.milliVolts x.freq + 5 then { x with ageCeiling := Nat.min x.ageCeiling (x.freq - 1) }
        else { x.trimBy 1 with trimmedAt := some s.now }
      else if marginMv ≤ 40 then { x with marginHigh := none }
      else match x.marginHigh with
        | none => { x with marginHigh := some s.now }
        | some t => if t + 1000 * msTicks ≤ s.now then { x.trimBy (-1) with marginHigh := some s.now } else x))

/-! ## Droop, current, the regulator alert (R462 to R464) -/

def execDroopDetect (quarry : Nat) (s : State) : Host.Outcome State Fault Refusal :=
  .next (if (s.quarry quarry).present then s.onQ quarry (fun x => { x with stretched := true, stretchedTick := true }) else s)

def execStretchEnd (quarry : Nat) (s : State) : Host.Outcome State Fault Refusal :=
  .next (if (s.quarry quarry).present then s.onQ quarry (fun x => { x with stretched := false }) else s)

/-- A limit falls a step from where it binds. -/
def stepDown (limit u : Nat) : Nat := Nat.max 4 (Nat.min limit u - 1)

/-- A limit rises a step; one that reaches the target is released. -/
def stepUp (limit u : Nat) : Nat := if u ≤ limit + 1 then 28 else limit + 1

def execCurrentLimitReport (quarry milliAmps : Nat) (s : State) : Host.Outcome State Fault Refusal :=
  .next (if quarry < 8 then (s.modQPower quarry (fun x => { x with railLimit := milliAmps })).checkBoost quarry else s)

/-- CURRENT_LIMIT_STEP: the 100 µs average against 95 % and 85 % of the reported limit. -/
def execCurrentLimitStep (quarry averageMilliAmps : Nat) (s : State) : Host.Outcome State Fault Refusal :=
  .next (if !(s.quarry quarry).present then s
    else
      let x := s.qpower quarry
      let u := s.unlimited quarry
      let l := if x.railLimit = 0 then x.currLimit
        else if 95 * x.railLimit ≤ 100 * averageMilliAmps then stepDown x.currLimit u
        else if 100 * averageMilliAmps < 85 * x.railLimit && decide (x.currLimit < 28) then stepUp x.currLimit u
        else x.currLimit
      (s.onQ quarry (fun x => { x with currLimit := l, railAverage := averageMilliAmps })).checkBoost quarry)

/-- The floor of an alert: every quarry at 0.4 GHz by its divider, Mica issue and links at one eighth. -/
def State.floorOn (s : State) : State :=
  let s := { s with pwr := { s.pwr with alert := true, alertFloor := true } }
  ((List.range 8).foldl (fun (s : State) q => (s.dropBoost q).modQPower q (fun x => { x with micaRate := 1, linkRate := 1 })) s).noteReasons

/-- VRALERT_ASSERT: in sleep the pin's level is all that changes. -/
def execVralertAssert (s : State) : Host.Outcome State Fault Refusal :=
  .next (if !s.blk.booted then s
    else if decide (s.blk.state = .sleep) then { s with pwr := { s.pwr with alert := true } }
    else s.floorOn)

def execVralertDeassert (s : State) : Host.Outcome State Fault Refusal :=
  .next (if s.pwr.alert then { s with pwr := { s.pwr with alert := false, alertEnd := s.now } } else s)

/-- Changes that were recorded are applied (R464, R478). -/
def State.applyDeferred (s : State) : State :=
  let p := s.pwr
  let s := { s with pwr := { p with
    capOwner := p.deferredOwner.getD p.capOwner, capRack := p.deferredRack.getD p.capRack
    deferredOwner := none, deferredRack := none, deferredFset := none } }
  match p.deferredFset with
  | some v => s.setFset v
  | none => s

/-- ALERT_FLOOR_RELEASE: 100 µs after the last deassertion. -/
def execAlertFloorRelease (s : State) : Host.Outcome State Fault Refusal :=
  .next (if s.pwr.alertFloor && !s.pwr.alert && s.passed s.pwr.alertEnd (100 * usTicks) then
      let s := { s with pwr := { s.pwr with alertFloor := false } }
      let s := if decide (s.blk.state = .sleep) then s else s.applyDeferred
      ((List.range 8).foldl (fun (s : State) q =>
        let w := s.wanted q
        s.modQPower q (fun x => { x with leaving := w != 4, micaRate := x.memAdmit, linkRate := x.linkAdmit })) s).noteReasons
    else s)

/-! ## The caps (R465) -/

def capWatts (w : Nat) : Nat := clampTo 800 3000 w

/-- A change of the owner's cap, recorded in an alert and in sleep. -/
def State.putOwnerCap (s : State) (w : Nat) : State :=
  if decide (s.blk.state = .sleep) then { s with pwr := { s.pwr with deferredOwner := some w } } else s.setCap w

def execPwrCapOwner (w : Who) (v : Word32) (s : State) : Host.Outcome State Fault Refusal :=
  .next (s.ownerWrite (.pwrCapOwner w v) w 0x200000 (fun s => s.putOwnerCap (capWatts (v.toNat % 2 ^ 16))))

def execSetPowerCap (s : State) : Host.Outcome State Fault Refusal :=
  .next (s.onAdmin true (fun k b => match b with
    | .setPowerCap w => ((s.putOwnerCap (capWatts w)).modTask k (fun x => { x with result := capWatts w })).finish k
    | _ => s))

/-- RACK_CAP_SET: from the package controller; the applied value is reported back. -/
def execRackCapSet (watts : Nat) (s : State) : Host.Outcome State Fault Refusal :=
  .next (if s.blk.quartz.isNone then s
    else
      let w := capWatts watts
      let s := if s.pwr.alertFloor || decide (s.blk.state = .sleep) then { s with pwr := { s.pwr with deferredRack := some w } }
        else { s with pwr := { s.pwr with capRack := w } }
      s.emit (.rackCap w))

def State.effectiveCap (s : State) : Nat := Nat.min s.pwr.capRack s.pwr.capOwner

/-- PWR_NOW's four fields in µW: the mean of the last ten estimates, scaled to the telemetry. -/
def State.powerNow (s : State) : List Nat :=
  let n := Nat.max 1 s.pwr.window.length
  let f (i : Nat) : Nat := s.pwr.window.foldl (fun a w => a + nth 0 w i) 0 / n * s.pwr.scale / 65536
  [f 0 + f 1 + f 2 + f 3, f 1, f 2, f 3]

/-- POWER_MODEL_CALIBRATE: the model is scaled to match the rail telemetry (R465). -/
def execPowerModelCalibrate (measuredWatts : Nat) (s : State) : Host.Outcome State Fault Refusal :=
  .next (let t := nth 0 s.powerNow 0
    if t = 0 || s.blk.quartz.isNone then s else { s with pwr := { s.pwr with scale := s.pwr.scale * (1000000 * measuredWatts) / t } })

/-! ## The grant interval (R466 to R468) -/

/-- R62: the classes in the order of a CLASS_ORDER code; 0 links, 1 memory, 2 compute. -/
def classesOf (code : Nat) : List Nat :=
  if code = 0 then [0, 1, 2] else if code = 1 then [0, 2, 1] else if code = 2 then [1, 0, 2] else if code = 3 then [1, 2, 0]
  else if code = 4 then [2, 0, 1] else [2, 1, 0]

/-- An item's rank. -/
def State.itemRank (s : State) (i : DemandItem) : Nat :=
  let code := match i.vein.bind s.vein? with
    | some v => v.classOrder
    | none => s.strata.str.classOrder
  (classesOf code).idxOf i.cls.val

/-- An item's priority. -/
def State.itemPrio (s : State) (i : DemandItem) : Nat :=
  match i.vein.bind s.vein? with
  | some v => v.prio
  | none => 8

/-- An item's demand, in mW: what it would have drawn in all quarries at their targets. -/
def demandOf (i : DemandItem) : Nat := (i.draws.take 8).foldl (fun n w => n + 1000 * w) 0

/-- Dynamic power of a step, by the current voltage table (f·V²). -/
def QPower.stepPower (x : QPower) (f : Nat) : Nat := f * x.milliVolts f * x.milliVolts f

/-- An item's floor, in mW: of compute its demand at 0.4 GHz, of memory and links one eighth (R466). -/
def State.floorOf (s : State) (i : DemandItem) : Nat :=
  if i.cls.val = 2 then
    (i.draws.take 8).zipIdx.foldl (fun n w =>
      n + 1000 * w.1 * (s.qpower w.2).stepPower 4 / (s.qpower w.2).stepPower (s.target w.2)) 0
  else demandOf i / 8

/-- What an item asks above its floor, in mW. -/
def State.aboveFloor (s : State) (i : DemandItem) : Nat := demandOf i - s.floorOf i

/-- What a group gets of `left` above its floors (R466): all it asks, or shares in proportion. -/
def State.shareOut (s : State) (left : Nat) (g : List DemandItem) : Nat × List (DemandItem × Nat) :=
  let want := g.foldl (fun n i => n + s.aboveFloor i) 0
  if want ≤ left then (left - want, g.map (fun i => (i, s.floorOf i + s.aboveFloor i)))
  else (0, g.map (fun i => (i, s.floorOf i + s.aboveFloor i * left / want)))

/-- The items in the order in which they are served: rank rising, priority falling. -/
def State.serveOrder (s : State) (items : List DemandItem) : List (List DemandItem) :=
  ((List.range 3).map (fun r => ((List.range 9).reverse.map (fun p => items.filter (fun i => s.itemRank i == r && s.itemPrio i == p))))).flatten

/-- The floors of all items, in mW. -/
def State.floors (s : State) (items : List DemandItem) : Nat := items.foldl (fun n i => n + s.floorOf i) 0

/-- Every item's grant, in mW, under a cap of `cap` mW with `fixed` mW of fixed demand. -/
def State.grants (s : State) (cap fixed : Nat) (items : List DemandItem) : List (DemandItem × Nat) :=
  if cap < fixed + s.floors items then items.map (fun i => (i, s.floorOf i))
  else ((s.serveOrder items).foldl (fun (p : Nat × List (DemandItem × Nat)) g =>
    let r := s.shareOut p.1 g
    (r.1, p.2 ++ r.2)) (cap - fixed - s.floors items, [])).2

/-- The highest step up to `top` whose power fits a grant, where the demand is what is drawn at the target. -/
def QPower.fitStep (x : QPower) (top target demand grant : Nat) : Nat :=
  if demand ≤ grant then top
  else (((List.range (top + 1)).reverse.filter (fun f => decide (4 ≤ f))).find? (fun f =>
    decide (x.stepPower f * demand ≤ grant * x.stepPower target))).getD 4

/-- The vein has tiles in the quarry. -/
def State.veinInQuarry (s : State) (v q : Nat) : Bool :=
  s.tiles.any (fun e => decide (e.2.role = .mapped) && e.2.vein == v && quarryOf e.1 == q)

/-- The better granted of two items: the higher ratio of grant to demand. -/
def betterOf (a b : DemandItem × Nat) : DemandItem × Nat := if a.2 * demandOf b.1 < b.2 * demandOf a.1 then b else a

/-- A grant in `n`ths of a demand, 1 at least. -/
def partsOf (n demand grant : Nat) : Nat := if demand = 0 then n else clampTo 1 n (n * grant / demand)

/-- Enforcement in a quarry (R467): frequency and gates by the veins with tiles there, admission by whatever draws on its stack and links. -/
def State.enforce (s : State) (q : Nat) (gs : List (DemandItem × Nat)) : State :=
  let here (i : DemandItem) : Bool := match i.vein with
    | some v => s.veinInQuarry v q
    | none => false
  let compute := gs.filter (fun g => g.1.cls.val == 2 && here g.1)
  let cls (c : Nat) : List (DemandItem × Nat) := gs.filter (fun g => g.1.cls.val == c && (here g.1 || nth 0 g.1.draws q != 0))
  let x := s.qpower q
  let u := s.unlimited q
  let tgt := s.target q
  let fixed := s.strata.str.fixed
  let best : Option (DemandItem × Nat) := compute.foldl (fun (b : Option (DemandItem × Nat)) g => some (match b with
    | some a => betterOf a g
    | none => g)) none
  let f := match best with
    | some b => if fixed then u else x.fitStep u tgt (demandOf b.1) b.2
    | none => u
  let gate := compute.foldl (fun n g =>
    let k := if demandOf g.1 ≤ g.2 then 16 else clampTo 1 16 (16 * g.2 * x.stepPower tgt / (demandOf g.1 * x.stepPower f))
    Nat.min n k) 16
  let low (c : Nat) : Nat := (cls c).foldl (fun n g => Nat.min n (partsOf 8 (demandOf g.1) g.2)) 8
  let short := (cls 0 ++ cls 1).any (fun g => g.1.vein.isSome && decide (g.2 < demandOf g.1))
  let grant := match best with
    | some b => if demandOf b.1 = 0 then b.2 else b.2 * (1000 * nth 0 b.1.draws q) / demandOf b.1
    | none => 0
  let draw := match best with
    | some b => 1000 * nth 0 b.1.draws q
    | none => 0
  -- R457: the grant no longer covers the next step up
  let s := if x.boost ≠ 0 ∧ grant * x.stepPower tgt < draw * x.stepPower (Nat.min (s.ceiling q) (x.boost + 1)) then s.dropBoost q else s
  s.onQ q (fun x => { x with
    capLimit := if f < u then f else 28, gate := gate, memAdmit := low 1, linkAdmit := low 0, grant := grant
    micaRate := if s.pwr.alertFloor then 1 else low 1, linkRate := if s.pwr.alertFloor then 1 else low 0
    capped := decide (f < u) || decide (gate < 16) || short })

/-- POWER_GRANT_INTERVAL: the cap is divided among the items of the last interval and enforced; with both Quartz pairs lost the last grants
hold (R488). -/
def execPowerGrantInterval (fixed : Nat) (items : List DemandItem) (s : State) : Host.Outcome State Fault Refusal :=
  .next (if !s.blk.booted || s.blk.quartz.isNone || decide (s.blk.state = .sleep) then s
    else
      let cap := s.effectiveCap
      let base := fixed + s.floors items / 1000
      let past := decide (1000 * cap < 1000 * fixed + s.floors items)
      let gs := s.grants (1000 * cap) (1000 * fixed) items
      let s := if past == s.pwr.infeasible then s
        else ({ s with pwr := { s.pwr with infeasible := past } }.logBlock .capInfeasible .notice 0 base
          (if past then cap else cap + 2 ^ 63)).emit (.capInfeasible past)
      (List.range 8).foldl (fun (s : State) q => if (s.quarry q).present then s.enforce q gs else s) s)

/-! ## Energy (R470, R471) -/

/-- The class of an activity event: 0 links, 1 memory, 2 compute. -/
def eventClass (e : Nat) : Nat :=
  if e ≤ 8 then 2 else if e = 9 then 1 else if e = 10 then 0 else if e ≤ 16 then 1 else if e ≤ 20 then 0 else if e = 21 then 1 else 0

/-- fJ of a count of events: the image's coefficient, or ROM's. -/
def State.eventEnergy (s : State) (e n : Nat) : Nat := n * tblGet (nth 0 romCoeff e) s.strata.str.coeff e

/-- A count that saturates at 2^64 − 1 units. -/
def energyAdd (unit a b : Nat) : Nat := Nat.min (a + b) ((2 ^ 64 - 1) * unit)

/-- ENERGY_UPDATE: the interval's events are charged by class and vein; the estimate of PWR_NOW takes them (R465). -/
def execEnergyUpdate (counts : List (Option Nat × Fin 24 × Nat)) (measuredMicroJ : Nat) (s : State) : Host.Outcome State Fault Refusal :=
  let fj := 10 ^ 9
  let ofClass (c : Nat) : Nat :=
    (counts.filter (fun x => eventClass x.2.1.val == c)).foldl (fun n x => n + s.eventEnergy x.2.1.val x.2.2) 0
  let quarries := (List.range 8).filter (fun q => (s.quarry q).present && decide (s.blk.state ≠ .sleep))
  let static := quarries.foldl (fun n q => n + Config.staticPower ((s.qpower q).rail / 10) (s.qpower q).computeC) 0
  let veins := counts.foldl (fun (m : Tbl Nat) x => match x.1 with
    | some v =>
      let i := 4 * v + eventClass x.2.1.val
      if v < 32 then tblPut m i (energyAdd fj (tblGet 0 m i) (s.eventEnergy x.2.1.val x.2.2)) else m
    | none => m) s.pwr.energyVein
  -- an interval is 100 µs: 1 µW is 1/10,000 µJ, and 1 fJ is 1/100,000 µW
  let estimate := [static, ofClass 0 / 100000, ofClass 1 / 100000, ofClass 2 / 100000]
  .next (if !s.blk.booted then s
    else { s with pwr := { s.pwr with
      energyClass := (List.range 3).map (fun c => energyAdd fj (nth 0 s.pwr.energyClass c) (ofClass c))
      energyVein := veins
      energyStatic := energyAdd 10000 s.pwr.energyStatic static
      energyMeasured := energyAdd 1 s.pwr.energyMeasured measuredMicroJ
      window := (estimate :: s.pwr.window).take 10 } })

/-! ## Thermal control (R472 to R474) -/

/-- The hottest compute-die or base-die sensor; in sleep the base die's alone is read (R478). -/
def QPower.hot (x : QPower) (asleep : Bool) : Nat := if asleep then x.baseC else Nat.max x.computeC x.baseC

/-- One quarry's readings. -/
def State.sample (s : State) (q : Nat) (r : TempReading) : State :=
  let asleep := decide (s.blk.state = .sleep)
  let s := s.modQPower q (fun x =>
    let x := { x with
      computeC := if asleep then x.computeC else r.compute, baseC := r.base, dramC := r.dram
      computeMaxC := if asleep then x.computeMaxC else Nat.max x.computeMaxC r.compute }
    let hot := x.hot asleep
    { x with
      thermLimit := if 105 ≤ hot then 4 else x.thermLimit
      thermGate := decide (105 ≤ hot) || (x.thermGate && decide (100 ≤ hot))
      hotRefresh := decide (85 < r.dram)
      stackAdmit := if 100 ≤ r.dram then 1 else if 95 ≤ r.dram then 4 else if r.dram < 93 then 8 else x.stackAdmit })
  let trip := decide (115 ≤ r.base) || decide (115 ≤ r.dram) || (!asleep && decide (115 ≤ r.compute))
  (if trip then { s with blk := { s.blk with thermTrip := true } } else s).checkBoost q

def execThermalSample (readings : List (Nat × TempReading)) (s : State) : Host.Outcome State Fault Refusal :=
  .next (if !s.blk.booted then s
    else (readings.foldl (fun (s : State) r => if (s.quarry r.1).present then s.sample r.1 r.2 else s) s).noteReasons)

/-- THERMAL_LIMIT_STEP: by the last readings. -/
def execThermalLimitStep (quarry : Nat) (s : State) : Host.Outcome State Fault Refusal :=
  .next (if !(s.quarry quarry).present then s
    else
      let u := s.unlimited quarry
      s.onQ quarry (fun x =>
        let hot := x.hot (decide (s.blk.state = .sleep))
        { x with thermLimit := if 95 ≤ hot then stepDown x.thermLimit u
            else if hot < 92 && decide (x.thermLimit < 28) then stepUp x.thermLimit u
            else x.thermLimit }))

/-! ## Sleep (R476 to R479) -/

/-- SLEEP, the admin command. -/
def execSleep (s : State) : Host.Outcome State Fault Refusal :=
  .next (s.onAdmin true (fun k b => match b with
    | .sleep =>
      let busy := s.queues.any (fun e => !s.queueIdle e.2) || s.tasks.any (fun e => e.2.queue.isSome && !e.2.over) || !s.mica.cmds.isEmpty
      if busy then s.failTask k .busy noDetail else { s with blk := { s.blk with sleepAsked := true } }.finish k
    | _ => s))

/-- What sleep loses: tile memory, the caches, the directory, the ATC, the device-table cache. -/
def State.loseForSleep (s : State) : State :=
  let s := (s.tiles.map (·.1)).foldl (fun s t => (s.wipeTile t).modTile t (fun x => { x with icache := [], reservation := none })) s
  { s with
    homes := { s.homes with dir := [], resv := [], locks := [], fresh := [] }
    qc := { s.qc with lines := [], queue := [] }
    xlat := { s.xlat with atc := [], grants := [] }
    host := { s.host with filter := [] }
    fab := { s.fab with cache := [] }
    blk := { s.blk with entryCache := [] } }

/-- SLEEP_ENTRY: with no task in flight and the host's copies recalled. -/
def execSleepEntry (s : State) : Host.Outcome State Fault Refusal :=
  .next (let open' := match s.blk.state with
      | .structured | .unstructured | .orphaned => true
      | _ => false
    if !(s.blk.sleepAsked && open' && s.tasks.isEmpty && s.pkts.isEmpty) then s
    else
      let held := s.heldIn (fun _ => true)
      if !held.isEmpty then held.foldl (fun s x => s.askHost x .inv 0) s
      else
        let s := s.loseForSleep
        { s with blk := { s.blk with sleepAsked := false, resumeOrphaned := decide (s.blk.state = BlkSt.orphaned) } }.setBlk .sleep)

/-- A wake source is accepted in sleep; one that arrives during entry is kept for its end (R477). -/
def State.wakeSource (s : State) : State :=
  if s.blk.quartz.isSome && (decide (s.blk.state = .sleep) || s.blk.sleepAsked) then { s with blk := { s.blk with wakeAsked := true } } else s

def execWake (s : State) : Host.Outcome State Fault Refusal := .next s.wakeSource
def execWakeNAssert (s : State) : Host.Outcome State Fault Refusal := .next s.wakeSource
def execPldmWake (s : State) : Host.Outcome State Fault Refusal := .next s.wakeSource
def execWakePacket (s : State) : Host.Outcome State Fault Refusal := .next s.wakeSource

/-- Steps 2 to 5 of R479, and the state of R515. -/
def State.wakeSteps (s : State) : State :=
  let s := { s with
    tiles := s.tiles.map (fun (e : Nat × Tile) => (e.1, { e.2 with
      scratch := [], poison := [], full := [], dcache := [], icache := [], dctl := {}, ictl := {} }))
    qc := { s.qc with lines := [], ctl := [] }
    blk := { s.blk with wakeAsked := false, engineCtl := [], privOff := [], privStale := [], entryCache := [] } }
  let s := if s.blk.resumeOrphaned then { s with blk := { s.blk with resumeOrphaned := false } }.enterOrphaned else s.setBlk s.serviceState
  -- R464: an alert that the pin still holds acts from here on
  let s := if s.pwr.alert then s.floorOn else s
  let s := if s.pwr.alertFloor then s else s.applyDeferred
  (List.range 8).foldl (fun (s : State) q =>
    let w := s.wanted q
    s.modQPower q (fun x => { x with freq := w, rail := 10 * x.milliVolts w })) s

/-- Recorded doorbells are accepted; their deadlines start now (R478). -/
def State.acceptRecorded (s : State) : State :=
  let s := s.queues.foldl (fun (s : State) e => match e.2.recorded with
    | some t => (s.setQueue e.1 { e.2 with recorded := none }).ring e.1 t
    | none => s) s
  match s.adm.recorded with
  | some t => { s with adm := { s.adm with recorded := none } }.admRing t
  | none => s

/-- WAKE_COMPLETE: the state is restored; PM_PME is sent in D3hot with PME_En set. -/
def execWakeComplete (s : State) : Host.Outcome State Fault Refusal :=
  .next (if decide (s.blk.state = .sleep) && s.blk.wakeAsked then
      let s := s.wakeSteps.acceptRecorded
      let s := { s with host := { s.host with d3wake := false } }
      if s.host.d3hot && s.host.pmeEn && s.host.linkUp then s.awake.emit .pme else s
    else s)

/-! ## Boundary signals and the reference counter (R480, R481) -/

/-- HEARTBEAT: HBEAT toggles every 1 ms while Quartz runs. -/
def execHeartbeat (s : State) : Host.Outcome State Fault Refusal :=
  .next (if s.blk.quartz.isSome then { s with blk := { s.blk with hbeat := !s.blk.hbeat } } else s)

/-- What one reference edge adds, with 32 fraction bits: 1 / (1 − s / 2) with s in units of 0.05 %. -/
def refStep (n : Nat) : Nat :=
  if 4000 ≤ n then 2 ^ 32
  else
    let a := 2 ^ 32 * 4000
    let d := 4000 - n
    if a % d != 0 && Config.refRoundsUp n then a / d + 1 else a / d

/-- THR_DURATION counts the ticks in which a reason is active. -/
def State.countDurations (s : State) (ticks : Nat) : State :=
  let r := s.reasonAny
  { s with pwr := { s.pwr with
      durations := s.pwr.durations.zipIdx.map (fun (d : Nat × Nat) => if r.getLsbD d.2 then satAdd 64 d.1 ticks else d.1) } }.noteReasons

/-- The rail after some ticks: it moves by 0.1 mV in each (10 mV/µs) towards what the higher of the present and the wanted frequency needs
(R456). -/
def QPower.slew (x : QPower) (f ticks : Nat) : QPower :=
  let goal := 10 * x.milliVolts (Nat.max x.freq f)
  { x with rail := if x.rail < goal then Nat.min goal (x.rail + ticks) else Nat.max goal (x.rail - ticks), stretchedTick := x.stretched }

/-- What the quarries' rails and stretch detectors do in some ticks (R456, R462). -/
def State.slewRails (s : State) (ticks : Nat) : State :=
  if ticks = 0 then s
  else { s with pwr := { s.pwr with q := s.pwr.q.map (fun (e : Nat × QPower) => (e.1, e.2.slew (s.wanted e.1) ticks)) } }

/-- REFERENCE_CLOCK_EDGE: REFCNT runs from the deassertion of PERST#. -/
def execReferenceClockEdge (s : State) : Host.Outcome State Fault Refusal :=
  .next (if s.blk.perst then s
    else
      let a := s.blk.ref + refStep s.blk.refSpread
      let ticks := a / 2 ^ 32 - s.blk.ref / 2 ^ 32
      ({ s with blk := { s.blk with ref := a % 2 ^ 96 } }.countDurations ticks).slewRails ticks)

end Sys2Proof.Machine
end

