-- ==== Sys2Proof/Machine/Reset.lean ====
section
/-! DEFINITION. D-states (R416, R417, R519) and resets (R418 to R420, R428, R429, R509 to R512, R515): FLR, hot reset or link down, the
removal of power, and the boot. -/

namespace Sys2Proof.Machine

/-! ## D3hot and D0 (R416, R417) -/

/-- The lease of a host owner is suspended while the function is in D3hot (R519). -/
def State.suspendLease (s : State) : State :=
  if (decide (s.own.st = .held) || decide (s.own.st = .handover)) && decide (s.own.kind = .host) then
    { s with own := { s.own with suspended := true, frozen := s.own.leaseEnd - s.now } }
  else s

/-- It restarts in full in D0. -/
def State.resumeLease (s : State) : State :=
  if s.own.suspended then { s with own := { s.own with suspended := false, leaseEnd := s.leaseFromNow } } else s

def execD3hotWrite (s : State) : Host.Outcome State Fault Refusal :=
  .next (s.configRequest (fun s =>
    if s.host.d3hot then s
    else
      let s := ({ s with host := { s.host with d3hot := true } }).suspendLease
      match s.blk.state with
      | .halted | .sleep => s
      | _ => { s.abortAll .aborted abortDetail with blk := { (s.abortAll .aborted abortDetail).blk with sleepAsked := true } }))

/-- A write of D0 is a wake source; memory requests are held until the wake has ended. -/
def execD0Write (s : State) : Host.Outcome State Fault Refusal :=
  .next (s.configRequest (fun s =>
    if !s.host.d3hot then s
    else
      let s := ({ s with host := { s.host with d3hot := false } }).resumeLease
      if decide (s.blk.state = .sleep) || s.blk.sleepAsked then { s.wakeSource with host := { s.wakeSource.host with d3wake := true } } else s))

/-! ## FLR and hot reset: the stop (R419 steps 1 to 3, R428) -/

/-- A task that a reset stops: checked, and not yet ended with every write observed. -/
def Task.live (x : Task) : Bool := !(decide (x.phase = .fetching) || decide (x.phase = .due) || decide (x.phase = .written))

/-- A load before its switch is abandoned; after it, it ends (R72). -/
def State.endLoad (s : State) : State :=
  match s.strata.load with
  | some l =>
    if l.switched then (s.finishLoad.modTask l.task (fun x => { x with result := s.strata.lastResult + 2 ^ 32 * s.strata.clamps.length })).finish l.task
    else s.abortLoad
  | none => s

/-- Parts of a stopped task that R384 lets end, and the running admin command, stop as well. -/
def State.stopRest (s : State) (k : Nat) (st : Status) (d : Detail) : State :=
  match s.task? k with
  | some x => if x.live && !x.faults.any (fun f => decide (f.1 = st)) then s.taskFault k st d else s
  | none => s

/-- An effect bound for host memory. -/
def Effect.toHost : Effect → Bool
  | .write (.host _ _) _ _ => true
  | .ask _ (.host _ _) _ _ _ _ _ _ _ _ _ => true
  | _ => false

/-- Released effects that a reset keeps: none of those not yet on ORD under FLR; under hot reset, those bound for device or remote
memory (R150, R428). -/
def keepReleased (hot : Bool) (l : List Held) : List Held :=
  if hot then l.filter (fun h => !(h.eff.toHost || (match h.eff with
    | .mica _ => true
    | _ => false))) else []

/-- What of a tile's work a reset ends beyond a trap's stop: the answers of upstream requests and of waits, which are gone, are not
awaited any more. -/
def Tile.haltWork (x : Tile) (hot : Bool) (lost : NSet) : Tile :=
  { x with
    pend := x.pend.filter (fun p => decide (p.kind ≠ .wait) && !p.waits.any (fun w => lost.contains w.1))
    held := [], released := keepReleased hot x.released, moves := [], mmaRunning := none, matQueue := [], accOps := [], micas := [], miss := none }

/-- Every tile, task, Mica command, wait and upstream request stops. -/
def State.stopAll (s : State) (hot : Bool) : State :=
  let st := if hot then Status.hostLinkLost else .aborted
  let d := if hot then noDetail else abortDetail
  let s := if decide (s.blk.state = .sleep) then s.wakeSteps else s
  let s := s.endLoad
  let ks := (s.tasks.filter (fun e => e.2.live)).map (·.1)
  let s := s.abortAll st d
  let s := ks.foldl (fun s k => s.stopRest k st d) s
  let s := ks.foldl (fun s k => match s.task? k with
    | some x => s.logStopped x x.status
    | none => s) s
  let s := { s with
    tiles := s.tiles.map (fun (e : Nat × Tile) => (e.1, e.2.haltWork hot (s.host.up.map (·.1))))
    mica := { s.mica with cmds := [], queue := [], running := [] }
    flint := { s.flint with waiters := [], mirrorWaiters := [], wakes := [], childReads := [] }
    xlat := { s.xlat with reqs := [], waiting := [], grants := [], slots := [], slotWait := [], invals := [], atc := [] }
    host := { s.host with
      up := [], waiting := [], evicts := [], bme := false, mse := false, retry := true
      abandoned := if hot then [] else (s.xlat.reqs.map (·.1)).foldl setIns ((s.host.up.filter (fun e => e.2.sent)).map (·.1)) }
    fab := { s.fab with ops := if hot then s.fab.ops else s.fab.ops.filter (fun e => e.2.sent) }
    blk := { s.blk with sleepAsked := false, wakeAsked := false } }
  if hot then (s.tiles.map (·.1)).foldl (fun s t => s.drainAll t) s else s

/-! ## Completions in device-memory rings (R420) -/

/-- Whether a task's ring lies in segment space, or in a LOCAL address. -/
def State.ringOnDevice (s : State) (x : Task) : Bool :=
  match x.queue with
  | some q => match s.queue? q with
    | some y => !isHostVa y.ring
    | none => false
  | none => !s.adm.space

/-- LOCAL address of a task's entry, where its ring lies in device memory that admits the write. -/
def State.ringEntry (s : State) (k : Nat) (x : Task) : Option Nat :=
  if s.ringOnDevice x && !(decide (x.phase = .fetching) || decide (x.phase = .written)) then
    match s.reachRing k x 0 true with
    | .to (.device a checked) _ => if checked && !s.rangePass (some x.context) a 64 then none else some a
    | _ => none
  else none

/-- The completion, without an interrupt. -/
def State.resetCompletion (s : State) (k : Nat) (x : Task) : State :=
  match s.ringEntry k x with
  | none => s
  | some a =>
    let x := if decide (x.phase = .due) then x else x.toDue s.now
    (s.homeStore none (a + 8) x.completionBody false).homeStore none a x.word0 false

/-! ## The reset itself (R418, R515, R19) -/

/-- A tile keeps its place in the map and its test history. -/
def Tile.afterReset (x : Tile) : Tile :=
  { role := x.role, logical := x.logical, vein := x.vein, healthy := x.healthy, lastTest := x.lastTest
    retireAsked := x.retireAsked, deficit := x.deficit, rotateAsked := x.rotateAsked }

/-- Sources whose requests outlive the reset of the tasks. -/
def Src.outlives (hot : Bool) : Src → Bool
  | .hostPort | .hostMem => !hot
  | .fabric _ | .quartz => true
  | _ => false

/-- Host registers after FLR or hot reset: sticky AER fields stay; FLR keeps the CXL enables and the HDM decoder (R418). -/
def HostEndpoint.afterReset (h : HostEndpoint) (hot : Bool) : HostEndpoint :=
  let kept : HostEndpoint := { aerCorrectable := h.aerCorrectable, aerUncorrectable := h.aerUncorrectable, aerHeader := h.aerHeader, aerSevere := h.aerSevere }
  if hot then { kept with linkUp := h.linkUp }
  else { kept with linkUp := h.linkUp, abandoned := h.abandoned, hdm := h.hdm, hdmError := h.hdmError, hdmLock := h.hdmLock, cacheEn := h.cacheEn, memEn := h.memEn, cacheInvalid := h.cacheInvalid }

/-- The power registers that are not ST (R19); with FSET below 2.5 GHz no quarry boosts (R457). -/
def Power.afterReset (p : Power) : Power :=
  { p with q := p.q.map (fun (e : Nat × QPower) => (e.1, { e.2 with
    fset := 4, boost := 0, freq := if e.2.boost = 0 then e.2.freq else Nat.min 25 e.2.freq })), seen := 0, deferredFset := none }

/-- Registers that are not ST read their reset values; what R418 keeps stays. -/
def State.resetRegisters (s : State) (hot : Bool) : State :=
  { s with
    tiles := s.tiles.map (fun (e : Nat × Tile) => (e.1, e.2.afterReset))
    homes := { s.homes with resv := [], locks := [] }
    qc := { s.qc with lines := [], ctl := [], queue := [] }
    pkts := s.pkts.filter (fun e => e.2.src.outlives hot || (e.2.req.onOrd && decide (e.2.src = .hostPort ∨ e.2.src = .hostMem)))
    rsps := s.rsps.filter (fun e => e.2.dst.outlives hot)
    flint := { moved := s.flint.moved, unmirrored := s.flint.unmirrored }
    mica := { residue := s.mica.residue }
    xlat := {}
    host := s.host.afterReset hot
    fab := { s.fab with
      invalDevice := 0, invalAll := false, peerIndex := 0, peerLosses := 0, authFailures := 0, refused := 0, notReady := 0 }
    pwr := s.pwr.afterReset
    own := { s.own with denied := 0, renewed := 0 }
    adm := {}
    ctxs := []
    queues := []
    tasks := []
    mem := { s.mem with changes := [] }
    flt := { s.flt with selfTest := false }
    blk := { s.blk with
      resumeOrphaned := false, dbIgnored := 0, lateCount := 0, privOff := [], privStale := [], entryCache := [], engineCtl := [], halting := false
      fetchHold := [], lastServed := [], veinDown := [] } }

/-- The block state after FLR or hot reset (R515). -/
def State.stateAfterReset (s : State) : BlkSt := if decide (s.own.st = .lapsed) then .orphaned else s.serviceState

/-- Steps 4 to 6 of R419: completions, write-backs, the state of R418. -/
def State.resetEnd (s : State) (hot : Bool) : State :=
  let s := s.tasks.foldl (fun s e => s.resetCompletion e.1 e.2) s
  let s := (s.tiles.map (·.1)).foldl (fun s t => s.disposeCache t) s
  let s := (s.resetRegisters hot).resumeLease.noteReasons
  let st := s.stateAfterReset
  if decide (st = .orphaned) && decide (s.blk.state ≠ .orphaned) then s.enterOrphaned else s.setBlk st

/-- Packets of stopped tiles and tasks that are on ORD arrive before the state is reset; under hot reset released effects still
drain (R150). -/
def State.stillArriving (s : State) (hot : Bool) : Bool :=
  s.pkts.any (fun e => e.2.req.onOrd && !(decide (e.2.src = .hostPort) || decide (e.2.src = .hostMem) || decide (e.2.src = .quartz)
      || (match e.2.src with
        | .fabric _ => true
        | _ => false)))
    || (hot && s.tiles.any (fun e => !e.2.released.isEmpty))

/-- Entries whose sectors the host holds: recalled before their completions are written (R314). -/
def State.heldEntries (s : State) : List Nat :=
  (s.tasks.filterMap (fun e => s.ringEntry e.1 e.2)).filter (fun a => !(s.hostHeld a 64 true).isEmpty)

/-- A reset that has stopped the work ends once what was on its way has arrived; the command is given again until then. -/
def State.endReset (s : State) (hot : Bool) : State :=
  if s.stillArriving hot then s
  else match s.heldEntries with
    | [] => s.resetEnd hot
    | l => l.foldl (fun s a => s.recallHost a 64 true) s

/-- FLR: Initiate Function Level Reset is written. -/
def execFlr (s : State) : Host.Outcome State Fault Refusal :=
  .next (if !(s.blk.booted && s.host.linkUp) then s
    else (if s.host.retry then s else (s.stopAll false).dropHostLines).endReset false)

/-- HOT_RESET: the host port reports hot reset or link down. The host's copies of device memory are lost (R322). A link that goes down
while FLR runs ends the FLR as a hot reset. -/
def execHotReset (s : State) : Host.Outcome State Fault Refusal :=
  .next (if !s.blk.booted then s
    else if s.host.linkUp then
      let s := { s with host := { s.host with linkUp := false, inL1 := false } }
      ((if s.host.retry then s else s.stopAll true).dropHostLines.hostGone 3).endReset true
    else if s.host.retry then s.endReset true
    else s)

/-- HOST_LINK_UP: the host port has retrained the link (R429), once the reset is over. -/
def execHostLinkUp (s : State) : Host.Outcome State Fault Refusal :=
  .next (if s.blk.booted && !s.host.retry then { s with host := { s.host with linkUp := true } } else s)

/-! ## PERST# and the boot (R41, R42, R416, R418, R492, R509 to R511) -/

/-- Repairs that are fused into the DRAM (R492). -/
def Quarry.fused (x : Quarry) : Quarry := { rowSpares := x.rowSpares, bankSpares := x.bankSpares }

/-- PERST_ASSERTED: everything is lost but fuses. The commands that wait and the model's own counters and record stay. -/
def execPerstAsserted (s : State) : Host.Outcome State Fault Refusal :=
  .next { State.reset with
    pending := s.pending, sent := s.sent, nextId := s.nextId, free := s.free
    blk := { State.reset.blk with keys := s.blk.keys, revoked := s.blk.revoked, keys4 := s.blk.keys4, revoked4 := s.blk.revoked4 }
    qry := s.qry.map (fun e => (e.1, e.2.fused)) }

/-- The Quartz pair that boots: base die 0's, or the spare on base die 4 where that one or its die fails (R41, R510). A pair whose
own check passed keeps the heartbeat when neither die trains. -/
def bootPair (b : BootFinding) : Option Nat :=
  let up0 := b.trained.getLsbD 0
  let up4 := b.trained.getLsbD 4
  if !up0 && !up4 then (if b.rom0 then some 0 else if b.rom4 then some 4 else none)
  else if b.rom0 && up0 then some 0
  else if b.rom4 && up4 then some 4
  else none

/-- Ports after training: up where both ends have trained. -/
def bootPorts (up : Nat → Bool) (q : Nat) : Tbl Port :=
  (List.range 5).filterMap (fun i =>
    match portPeer q i with
    | some p => if up p.1 then some (i, ({ state := 1 } : Port)) else none
    | none => none)

/-- A quarry that has trained, with every spare (R490). -/
def Quarry.trainedUp (x : Quarry) (up : Nat → Bool) (q : Nat) : Quarry :=
  { x.fused with present := true, ports := bootPorts up q, engines := [0, 1, 2, 3], engineOut := 4, copySpare := true, pllSpareLeft := true, tsvSpares := 128 }

/-- The block once configuration space is presented. Quarries that have trained stay present, also where no link joins them with the rest, and
a route may lead past an absent one (DESIGN CHOICE, assumption 66). -/
def State.bootUp (s : State) (b : BootFinding) (pair : Nat) : State :=
  let up (q : Nat) : Bool := b.trained.getLsbD q
  let qs := (List.range 8).filter up
  let s := { s with
    qry := qs.foldl (fun (m : Tbl Quarry) q => tblPut m q ((tblGet ({} : Quarry) m q).trainedUp up q)) s.qry
    tiles := ((List.range 416).filter (fun t => up (quarryOf t))).map (fun t =>
      (t, ({ role := .spare, healthy := !b.failedTiles.contains t } : Tile)))
    host := { s.host with linkUp := true }
    blk := { s.blk with booted := true, quartzSpare := decide (pair = 0) && b.rom4 && up 4 } }
  s.absentSlices { s.strata.str with quarries := 255 }

/-- FUNDAMENTAL_RESET: PERST# deasserts and the block boots. -/
def execFundamentalReset (b : BootFinding) (s : State) : Host.Outcome State Fault Refusal :=
  .next (if !s.blk.perst then s
    else
      let s := { s with blk := { s.blk with
        perst := false, ref := 0, refSpread := b.refSpread % 16, keys := b.keyDigests, revoked := b.revoked
        keys4 := b.keyDigests4, revoked4 := b.revoked4, quartz := bootPair b } }
      match bootPair b with
      | none => s
      | some pair =>
        if !b.trained.getLsbD 0 && !b.trained.getLsbD 4 then { s with blk := { s.blk with faultN := true } }
        else s.bootUp b pair)

end Sys2Proof.Machine
end

