-- ==== Sys2Proof/Machine/Faults.lean ====
section
/-! DEFINITION. Links and lanes (R24, R25, R218, R499, R500), the Quartz pair (R488, R489), PLLs, copy engines and tile memory sides
(R485, R490), retirement, rotation and self-test (R493 to R498), and the fault-log interrupt (R506). -/

namespace Sys2Proof.Machine

/-! ## Lanes and their spares (R22, R24, R218, R490) -/

/-- The interruption of a masked fault: an open number of ticks. -/
def State.interruption (s : State) : Nat := s.openNat % 2 ^ 32

/-- The port that a die-to-die or IO lane belongs to. -/
def State.portOf (s : State) (l : LaneRef) : Option (Nat × Port) :=
  (portNo l.path).bind (fun i => (tblFind (s.quarry l.quarry).ports i).map (fun p => (i, p)))

def State.putPort (s : State) (q i : Nat) (p : Port) : State := s.modQuarry q (fun x => { x with ports := tblPut x.ports i p })

/-- The other port of a link takes the same STATE (R45). -/
def State.setLink (s : State) (q i st : Nat) : State :=
  let one (s : State) (q i : Nat) : State := match tblFind (s.quarry q).ports i with
    | some p => s.putPort q i { p with state := st }
    | none => s
  match portPeer q i with
  | some e => one (one s q i) e.1 e.2
  | none => one s q i

/-- Lanes in service of a path at full width: a stack's data lanes, a link direction's, a die's result lanes (R22, R503). -/
def fullLanes : LinkPath → Nat
  | .tsv => 4096 | .result => 320 | _ => 512

/-- The lane exists and carries traffic (R503). -/
def State.laneUp (s : State) (l : LaneRef) : Bool :=
  (s.quarry l.quarry).present && match l.path with
    | .tsv => decide (l.lane < 4224)
    | .result => decide (l.die < 16) && decide (l.lane < 336)
    | _ => decide (l.lane < 544) && (match s.portOf l with
        | some p => p.2.up
        | none => false)

/-- Spare lanes left on the lane's path. -/
def State.laneSpares (s : State) (l : LaneRef) : Nat :=
  match l.path with
  | .tsv => (s.quarry l.quarry).tsvSpares
  | .result => tblGet 16 (s.quarry l.quarry).resultSpares l.die
  | _ => match s.portOf l with
    | some p => p.2.spares
    | none => 0

/-- The number of spares changes; a swap counts at a port (R45). -/
def State.putSpares (s : State) (l : LaneRef) (n : Nat) (swap : Bool) : State :=
  match l.path with
  | .tsv => s.modQuarry l.quarry (fun x => { x with tsvSpares := n })
  | .result => s.modQuarry l.quarry (fun x => { x with resultSpares := tblPut x.resultSpares l.die n })
  | _ => match s.portOf l with
    | some p => s.putPort l.quarry p.1 { p.2 with spares := n, swaps := if swap then satAdd 8 p.2.swaps 1 else p.2.swaps }
    | none => s

/-- The path runs on half its lanes: for a link, the lane's direction (R25). -/
def State.laneHalf (s : State) (l : LaneRef) : Bool :=
  match l.path with
  | .tsv => (s.quarry l.quarry).tsvHalf
  | .result => setHas (s.quarry l.quarry).resultHalf l.die
  | _ => match s.portOf l with
    | some p => p.2.half
    | none => false

/-- The row of R490 of a lane kind. -/
def laneKind : LinkPath → Nat
  | .tsv => 1 | .result => 3 | _ => 2

/-- Half width, with the reports of R495. -/
def State.goHalf (s : State) (l : LaneRef) : State :=
  let s := match l.path with
    | .tsv => (s.modQuarry l.quarry (fun x => { x with tsvHalf := true })).capacityBit 11
    | .result => (s.modQuarry l.quarry (fun x => { x with resultHalf := setIns x.resultHalf l.die })).capacityBit 12
    | _ => match s.portOf l with
      | some p => ((s.putPort l.quarry p.1 { p.2 with half := true }).setLink l.quarry p.1 2).capacityBit 12
      | none => s
  s.spareExhausted (laneKind l.path) l.quarry (fullLanes l.path / 2)

/-- A lane's count of CRC failures and its training result are forgotten. -/
def State.forgetLane (s : State) (l : LaneRef) : State :=
  s.modQuarry l.quarry (fun x => { x with
    crcFails := tblDel x.crcFails (laneKey l), trained := tblDel x.trained (laneKey l), stale := setDel x.stale (laneKey l) })

/-! ## A link goes down (R25) -/

/-- Good lanes of a port's direction: those of the link and the spares left, without the one that put it at half width. -/
def Port.goodLanes (p : Port) : Nat := 512 + p.spares - b2n p.half

/-- LINK_DOWN: both ports read 0b11, and every source is held from now on. `lost`: the lanes of this direction lost just now. -/
def State.linkDown (s : State) (q : Nat) (path : LinkPath) (i lost : Nat) : State :=
  let mine := (tblGet ({} : Port) (s.quarry q).ports i).goodLanes - lost
  let good := match portPeer q i with
    | some e => Nat.min mine (tblGet ({} : Port) (s.quarry e.1).ports e.2).goodLanes
    | none => mine
  let n := s.interruption
  let s := { s.bump with blk := { s.blk with heldFrom := some (s.blk.heldFrom.getD (s.nextId + 1)) } }
  ((s.used.setLink q i 3).log .linkDown .masked q noVein (linkCode path * 8192) noCtx n good q).capacityBit 12

/-- Veins with tiles or granules in a quarry. -/
def State.veinsIn (s : State) (q : Nat) : List Nat :=
  let st := s.strata.str
  (st.veins.filter (fun e =>
    st.tileMap.any (fun t => quarryOf t.2 == q && decide (e.2.tileFirst ≤ t.1) && decide (t.1 < e.2.tileFirst + e.2.tileCount))
      || e.2.ranges.any (fun r => (List.range (Nat.min r.count 8)).any (fun i => (r.first + i) % 8 == q)))).map (·.1)

/-- A quarry is treated as absent (R41, R42). The veins with tiles or granules there, and those whose sequencers it takes along, go
DOMAIN_DOWN, which R317 gives no row: the cause is an open number. -/
def State.loseQuarry (s : State) (q : Nat) : State :=
  let own := (s.strata.str.veins.filter (fun e => e.1 / 4 == q)).map (·.1)
  let s := (own.foldl (fun l v => setIns l v) (s.veinsIn q)).foldl (fun s v => s.used.veinDown v (s.openNat % 2 ^ 64) 416) s
  let s := { s with tiles := s.tiles.map (fun (e : Nat × Tile) =>
    if quarryOf e.1 = q then (e.1, { e.2 with role := .absent, run := .none, task := none, healthy := false }) else e) }
  let s := { s with blk := { s.blk with quartzSpare := s.blk.quartzSpare && q != 4 } }
  let s := (s.modQuarry q (fun x => { x with present := false, engines := [], copySpare := false })).absentSlices { s.strata.str with quarries := 255 }
  (s.tasks.map (·.1)).foldl (fun s k => s.settle k) s

/-- A link that is down has its detour (R25). -/
def State.detoured (s : State) (q i : Nat) : State :=
  let one (s : State) (q i : Nat) : State := match tblFind (s.quarry q).ports i with
    | some p => s.putPort q i { p with detour := true }
    | none => s
  match portPeer q i with
  | some e => one (one s q i) e.1 e.2
  | none => one s q i

/-- Quarries that no detour joins to the active Quartz pair are absent from now on (R25). -/
def State.loseUnreached (s : State) : State :=
  match s.blk.quartz with
  | some z =>
    ((List.range 8).filter (fun p => (s.quarry p).present && !(s.routeOpen z p && s.routeOpen p z))).foldl (fun s p => s.loseQuarry p) s
  | none => s

/-- The sources are released once every link that is down has its detour; the kept flits go first, by their older numbers. -/
def State.releaseSources (s : State) : State :=
  if (List.range 8).any (fun q => (s.quarry q).present && (s.quarry q).ports.any (fun e => e.2.state == 3 && !e.2.detour)) then s
  else ({ s with blk := { s.blk with heldFrom := none } }.flushUp).fabPump.flushBi

/-- ROUTE_DETOUR: the link's routes are replaced and the sources go on. With both IO links down the host link is lost. -/
def execRouteDetour (q : Nat) (path : LinkPath) (s : State) : Host.Outcome State Fault Refusal :=
  .next (match portNo path with
    | none => s
    | some i =>
      match tblFind (s.quarry q).ports i with
      | none => s
      | some p =>
        if p.state != 3 || p.detour then s
        else
          let s := (s.detoured q i).loseUnreached.releaseSources
          if s.ioLost && s.host.linkUp then
            let s := { s with host := { s.host with linkUp := false } }
            ((s.stopAll true).dropHostLines.hostGone 3).endReset true
          else s)

/-- LINK_REPLAY_TIMEOUT: no good flit for 10 µs. -/
def execLinkReplayTimeout (q : Nat) (path : LinkPath) (s : State) : Host.Outcome State Fault Refusal :=
  .next (match portNo path with
    | none => s
    | some i =>
      match tblFind (s.quarry q).ports i with
      | some p => if p.up then s.linkDown q path i 0 else s
      | none => s)

/-! ## LANE_CRC_FAIL, LANE_SWAP -/

/-- The flit is replayed in its order; the lane's consecutive failures are counted. -/
def execLaneCrcFail (l : LaneRef) (s : State) : Host.Outcome State Fault Refusal :=
  .next (if s.laneUp l then
      s.modQuarry l.quarry (fun x => { x with crcFails := tblPut x.crcFails (laneKey l) (tblGet 0 x.crcFails (laneKey l) + 1) })
    else s)

/-- A lane fails: a spare takes its place; without one the path goes to half width, and a link at half width goes down. -/
def State.laneFails (s : State) (l : LaneRef) (count : Nat) : State :=
  let left := s.laneSpares l
  let s := s.forgetLane l
  if left ≠ 0 then
    let n := s.interruption
    let s := (s.used.putSpares l (left - 1) true).log .laneSwap .masked l.quarry noVein (laneUnit l) noCtx n count (left - 1)
    if left = 1 then s.spareExhausted (laneKind l.path) l.quarry (fullLanes l.path) else s
  else if !s.laneHalf l then s.goHalf l
  else match s.portOf l with
    | some p => s.linkDown l.quarry l.path p.1 1
    | none => s

/-- LANE_SWAP: after LANE_RETRIES consecutive failures (R62). -/
def execLaneSwap (l : LaneRef) (s : State) : Host.Outcome State Fault Refusal :=
  let n := tblGet 0 (s.quarry l.quarry).crcFails (laneKey l)
  .next (if s.laneUp l && decide (s.strata.str.laneRetries ≤ n) && decide (0 < n) then s.laneFails l n else s)

/-! ## CALIBRATION_CHECK, LANE_RETRAIN (R499, R500) -/

/-- The training result of a lane; that of boot, which no command shows, is open. -/
def State.training (s : State) (l : LaneRef) : State × Nat × Nat :=
  match tblFind (s.quarry l.quarry).trained (laneKey l) with
  | some r => (s, r)
  | none =>
    let r := (s.openNat % 256, s.used.openNat % 2 ^ 32)
    (s.used.used.modQuarry l.quarry (fun x => { x with trained := tblPut x.trained (laneKey l) r }), r)

/-- Stale: more than 10 °C away, or more than twice the current. -/
def isStale (r : Nat × Nat) (temp milliAmps : Nat) : Bool :=
  decide (r.1 + 10 < temp) || decide (temp + 10 < r.1) || decide (2 * r.2 < milliAmps)

def State.staleNoSpare (s : State) (l : LaneRef) : State := s.log .staleNoSpare .notice l.quarry noVein (laneUnit l) noCtx 0 0 0

/-- CALIBRATION_CHECK: a stale result on a path without spares is logged. -/
def execCalibrationCheck (l : LaneRef) (temp milliAmps : Nat) (s : State) : Host.Outcome State Fault Refusal :=
  .next (if !s.laneUp l then s
    else
      let r := s.training l
      let old := isStale r.2 temp milliAmps
      let s := r.1.modQuarry l.quarry (fun x => { x with stale := setPut x.stale (laneKey l) old })
      if old && s.laneSpares l == 0 then s.staleNoSpare l else s)

/-- A result of the lane's link is stale. -/
def State.linkStale (s : State) (l : LaneRef) : Bool :=
  (s.quarry l.quarry).stale.any (fun u => u / 8192 == laneKey { l with lane := 0 } / 8192 && (decide (l.path ≠ .result) || u % 8192 / 512 == l.die))

/-- LANE_RETRAIN: a spare trained at present conditions takes the lane's place, and the released lane is the next spare. -/
def execLaneRetrain (l : LaneRef) (temp milliAmps : Nat) (s : State) : Host.Outcome State Fault Refusal :=
  .next (if !(s.laneUp l && s.linkStale l) then s
    else if s.laneSpares l = 0 then s.staleNoSpare l
    else
      let r := s.training l
      let w (p : Nat × Nat) : Nat := p.1 % 256 + p.2 % 2 ^ 32 * 256
      let s := (r.1.putSpares l (r.1.laneSpares l) true).modQuarry l.quarry (fun x => { x with
        trained := tblPut x.trained (laneKey l) (temp, milliAmps), stale := setDel x.stale (laneKey l), crcFails := tblDel x.crcFails (laneKey l) })
      s.log .laneRetrain .notice l.quarry noVein (laneUnit l) noCtx 0 (w r.2) (w (temp, milliAmps)))

/-! ## QUARTZ_TAKEOVER (R488, R489) -/

/-- The active pair is lost: the spare pair on base die 4 takes its state from the journal; an image that waits for its switch is fetched again,
since its staging buffer is lost. Without a spare pair the block reports a fatal error. -/
def execQuartzTakeover (s : State) : Host.Outcome State Fault Refusal :=
  .next (match s.blk.quartz with
    | none => s
    | some _ =>
      let n := s.interruption
      let step := s.used.openNat
      let t := s.used.used
      if s.blk.quartzSpare then
        let t := { t with
          blk := { t.blk with quartz := some 4, quartzSpare := false }
          strata := { t.strata with load := t.strata.load.map (fun (l : Load) => { l with staged := none }) } }
        ((t.log .quartzTakeover .masked noQuarry noVein 4 noCtx n step 0).capacityBit 9).spareExhausted 10 noQuarry 1
      else
        ({ t with blk := { t.blk with quartz := none } }).log .quartzTakeover .fatal noQuarry noVein (n % 2 ^ 16) noCtx 0 step 0)

/-! ## PLL_FAULT, COPY_CHUNK_CRC_FAIL (R485, R490) -/

/-- A unit joins those under test (R497). -/
def State.underTest (s : State) (u : TestUnit) : State :=
  { s with flt := { s.flt with testing := if s.flt.testing.contains u then s.flt.testing else s.flt.testing ++ [u] } }

/-- PLL_FAULT: to the spare PLL, or to the fabric PLL with a ceiling of 1.8 GHz. -/
def State.pllFails (s : State) (q kHz : Nat) : State :=
  let x := s.quarry q
  let n := s.interruption
  if !x.present || (s.qpower q).pllFallback then s
  else if x.pllSpareLeft then
    let s := ((s.used.modQuarry q (fun x => { x with pllSpareLeft := false })).modQPower q (fun p => { p with pllSpare := true })).underTest (.pll q)
    (s.log .pllSwap .masked q noVein 0 noCtx n kHz 0).spareExhausted 9 q 1
  else
    let s := (s.used.modQPower q (fun p => { p with pllFallback := true, pllSpare := false })).capacityBit 10
    ((s.log .pllSwap .masked q noVein 1 noCtx n kHz 0).spareExhausted 9 q 0).noteReasons

def execPllFault (quarry kiloHertz : Nat) (s : State) : Host.Outcome State Fault Refusal := .next (s.pllFails quarry kiloHertz)

/-- The transfers of an engine go on on another. -/
def State.moveCopies (s : State) (q e e' : Nat) : State :=
  { s with tasks := s.tasks.map (fun (x : Nat × Task) =>
      if decide (x.2.engine = some (q, e)) then (x.1, { x.2 with engine := some (q, e') }) else x) }

/-- A copy engine leaves service: the spare takes its place and the engine is tested; without one the quarry runs on those left. -/
def State.engineFails (s : State) (q e : Nat) : State :=
  let x := s.quarry q
  let left := x.engines.filter (fun i => i != e)
  if x.copySpare then
    (((s.modQuarry q (fun x => { x with copySpare := false, engines := setIns left x.engineOut, engineOut := e })).moveCopies q e
      x.engineOut).underTest (.copyEngine q)).spareExhausted 8 q x.engines.length
  else
    let s := (s.modQuarry q (fun x => { x with engines := left })).moveCopies q e (nth e left (s.openNat % left.length))
    (s.used.capacityBit 14).spareExhausted 8 q left.length

/-- COPY_CHUNK_CRC_FAIL: the failing chunk is not applied; the copy goes on from its last applied chunk. Which chunk it was, and what is
redone, the model of whole copies does not hold: those details of the entry are open. -/
def execCopyChunkCrcFail (k engine : Nat) (s : State) : Host.Outcome State Fault Refusal :=
  .next (match s.task? k with
    | some x =>
      match x.engine, decide (x.phase = .running) with
      | some e, true =>
        if e.2 ≠ engine ∨ !setHas (s.quarry e.1).engines engine then s
        else
          let n := s.interruption
          let dst := s.used.openNat
          let redone := s.used.used.openNat
          (s.used.used.used.log .copyRetry .masked e.1 x.vein engine x.context n dst redone).engineFails e.1 engine
      | _, _ => s
    | none => s)

/-! ## MEMORY_SIDE_CRC_FAIL (R485) -/

/-- A packet is resent once; a second failure stops the grid with POISONED_OUTPUT and CAUSE TILE_LOST. -/
def execMemorySideCrcFail (t : Nat) (second : Bool) (s : State) : Host.Outcome State Fault Refusal :=
  let x := s.tile t
  .next (if decide (x.role = .absent) then s
    else
      let dest := s.openNat
      if second then
        let s := s.used.log .memorySide .detected (quarryOf t) x.vein t (ctxNo x.context) 0 dest 2
        match x.task with
        | some k => s.tileLost k t .memorySide
        | none => s
      else
        let n := s.used.interruption
        s.used.used.log .memorySide .masked (quarryOf t) x.vein t (ctxNo x.context) n dest 1)

/-! ## TILE_RETIRE (R493) -/

/-- TILE_RETIRE: at the next boundary of a protected launch, or between launches. -/
def execTileRetire (t deficitMv : Nat) (s : State) : Host.Outcome State Fault Refusal :=
  let x := s.tile t
  let q := quarryOf t
  .next (if deficitMv < s.strata.str.retireMv then s
    else match x.role with
      | .mapped =>
        if (s.spareFor q).isNone then
          s.log .tileRetire .notice q x.vein t (ctxNo x.context) 0 deficitMv (spareNo none)
        else
          let s := s.modTile t (fun x => { x with retireAsked := true, deficit := deficitMv })
          if x.task.isNone then s.boundaryChange t else s
      | .spare =>
        (((s.countRetired q).modTile t (fun x => { x with role := .retired, healthy := false })).log .tileRetire .notice q noVein t noCtx 0
          deficitMv (spareNo none)).noteLastSpare q
      | _ => s)

/-! ## Rotation (R496) -/

/-- Ticks of SELFTEST_H. -/
def State.testPeriod (s : State) : Nat := s.strata.str.selftestH * 3600 * 100000000

/-- A healthy tile of the quarry has gone SELFTEST_H without a test. -/
def State.overdue (s : State) (q : Nat) : Bool :=
  (List.range 52).any (fun i => let x := s.tile (52 * q + i)
    x.healthy && (decide (x.role = .spare) || decide (x.role = .mapped)) && s.passed x.lastTest s.testPeriod)

def State.noteOverdue (s : State) (q : Nat) : State :=
  if s.overdue q then (s.modQuarry q (fun x => { x with overdue := true })).capacityBit 15 else s

/-- The tile can take a step of the rotation now: a spare; a mapped tile that a spare can replace, which no unprotected launch holds. -/
def State.canStep (s : State) (t : Nat) : Bool :=
  let x := s.tile t
  x.healthy && match x.role with
    | .spare => true
    | .mapped => (s.spareFor (quarryOf t)).isSome && (x.task.isNone || x.isProtected) && !x.rotateAsked && !x.retireAsked
    | _ => false

/-- The next tile of the rotation, from the position due. -/
def State.nextStep (s : State) (q : Nat) : Option Nat :=
  let n := (s.quarry q).nextTile
  ((List.range 52).map (fun i => 52 * q + (n + i) % 52)).find? (fun t => s.canStep t)

/-- One step: a spare is tested in place; a mapped tile is swapped first, at its next boundary where it runs. -/
def State.rotate (s : State) (q : Nat) : State × Option Nat :=
  let s := s.noteOverdue q
  match s.nextStep q with
  | none => (s, none)
  | some t =>
    let s := s.modQuarry q (fun x => { x with nextTile := (t % 52 + 1) % 52, rotationSteps := satAdd 16 x.rotationSteps 1 })
    let s := { s with flt := { s.flt with steps := satAdd 16 s.flt.steps 1 } }
    match (s.tile t).role with
    | .spare => (s.modTile t (fun x => { x with role := .testing }), some t)
    | _ =>
      let s := s.modTile t (fun x => { x with rotateAsked := true })
      (if (s.tile t).task.isNone then s.boundaryChange t else s, some t)

def execRotationStep (quarry : Nat) (s : State) : Host.Outcome State Fault Refusal :=
  .next (if (s.quarry quarry).present && decide (s.blk.state ≠ .sleep) then (s.rotate quarry).1 else s)

/-! ## SPARE_TEST, UNIT_TEST_DONE (R490, R491, R497) -/

/-- The unit is a spare that work does not hold. -/
def State.spareUnit (s : State) : TestUnit → Bool
  | .tile t => s.isSpare t
  | .spareBank q d _ => (s.quarry q).present && decide ((s.quarry q).banksLeft d ≠ 0)
  | .lane l => s.laneUp l && s.laneSpares l != 0
  | .copyEngine q => (s.quarry q).copySpare
  | .pll q => (s.quarry q).pllSpareLeft
  | .quartz => s.blk.quartzSpare

def execSpareTest (u : TestUnit) (s : State) : Host.Outcome State Fault Refusal :=
  .next (if s.spareUnit u then (match u with
      | .tile t => s.modTile t (fun x => { x with role := .testing })
      | u => s.underTest u)
    else s)

/-- Units failed by self-test (R502). -/
def State.found (s : State) (n : Nat) : State := { s with flt := { s.flt with found := satAdd 8 s.flt.found n } }

/-- The end of a tile's test. -/
def State.tileTested (s : State) (t ticks : Nat) (passed : Bool) : State :=
  let q := quarryOf t
  let s := s.log .tileSelftest (if passed then .notice else .masked) q noVein t noCtx 0 (b2n (!passed)) ticks
  if passed then (s.modTile t (fun x => { x with role := .spare, healthy := true, lastTest := s.now })).serveFree
  else (((s.modTile t (fun x => { x with role := .retired, healthy := false, lastTest := s.now })).countRetired q).found 1).noteLastSpare q

/-- A spare that fails its test is retired; the last one of its kind is reported (R495). -/
def State.spareFails (s : State) : TestUnit → State
  | .tile _ => s
  | .spareBank q d _ =>
    let n := (s.quarry q).banksLeft d - 1
    let s := s.modQuarry q (fun x => { x with bankSpares := tblPut x.bankSpares d n })
    if n = 0 then s.spareExhausted 5 q 64 else s
  | .lane l =>
    let n := s.laneSpares l - 1
    let s := s.putSpares l n false
    if n = 0 then s.spareExhausted (laneKind l.path) l.quarry (fullLanes l.path) else s
  | .copyEngine q =>
    if (s.quarry q).copySpare then
      (s.modQuarry q (fun x => { x with copySpare := false })).spareExhausted 8 q (s.quarry q).engines.length
    else s
  | .pll q =>
    if (s.quarry q).pllSpareLeft then (s.modQuarry q (fun x => { x with pllSpareLeft := false })).spareExhausted 9 q 1 else s
  | .quartz => ({ s with blk := { s.blk with quartzSpare := false } }).spareExhausted 10 noQuarry 1

/-- A unit that passes is a spare: one that had been replaced becomes its quarry's spare. -/
def State.sparePasses (s : State) : TestUnit → State
  | .copyEngine q => s.modQuarry q (fun x => { x with copySpare := true })
  | .pll q => s.modQuarry q (fun x => { x with pllSpareLeft := true })
  | _ => s

def execUnitTestDone (u : TestUnit) (passed : Bool) (ticks : Nat) (s : State) : Host.Outcome State Fault Refusal :=
  .next (match u with
    | .tile t => if decide ((s.tile t).role = .testing) then s.tileTested t ticks passed else s
    | u =>
      if !s.flt.testing.contains u then s
      else
        let s := { s with flt := { s.flt with testing := s.flt.testing.filter (fun v => decide (v ≠ u)) } }
        if passed then s.sparePasses u else (s.spareFails u).found 1)

/-! ## SELF_TEST (R383, R498) -/

/-- A unit that fails the whole-block test is replaced (R490). -/
def State.unitFails (s : State) : TestUnit → State
  | .tile t =>
    let q := quarryOf t
    let s := s.log .tileSelftest .masked q (s.tile t).vein t noCtx 0 1 s.openNat
    let s := s.used.countRetired q
    match (s.tile t).role with
    | .mapped => match s.replaceTile t .retired with
      | (s, some _) => s.modTile t (fun x => { x with healthy := false })
      | (_, none) => (s.unserve t).modTile t (fun x => { x with healthy := false })
    | .spare | .testing => (s.modTile t (fun x => { x with role := .retired, healthy := false })).noteLastSpare q
    | _ => s
  | .lane l => if s.laneUp l then s.laneFails l (tblGet 0 (s.quarry l.quarry).crcFails (laneKey l)) else s
  | .copyEngine q => match (s.quarry q).engines with
    | [] => s
    | e :: es => s.used.engineFails q (nth e (e :: es) (s.openNat % (es.length + 1)))
  | .pll q => s.used.pllFails q s.openNat
  | u => if s.spareUnit u then s.spareFails u else s

/-- Tile memories are zeroed, tile and quarry caches written back and invalidated. -/
def State.testMemories (s : State) : State :=
  let s := (s.tiles.map (·.1)).foldl (fun s t => (s.disposeCache t).modTile t (fun x => { x with
    scratch := [], poison := [], full := [], icache := [], dctl := {}, ictl := {} })) s
  { s with qc := { s.qc with lines := [], ctl := [] } }

/-- The tiles that the step of a running SELF_TEST has not yet tested. -/
def State.testsOpen (s : State) (ts : NSet) : Bool := ts.any (fun t => (s.tile t).rotateAsked || decide ((s.tile t).role = .testing))

/-- SELF_TEST. Its first step starts the tests; given again once they are over, it completes: scope 1 when its tiles have been tested,
scope 0 with the units that failed. -/
def execSelfTest (failed : List TestUnit) (s : State) : Host.Outcome State Fault Refusal :=
  .next (match s.adm.running with
    | none => s
    | some k =>
      match s.task? k with
      | none => s
      | some x =>
        match x.admin, x.phase with
        | some (.selfTest scope), .dispatched =>
          if scope = 1 then
            let r := (List.range 8).foldl (fun (p : State × NSet) q =>
              if (p.1.quarry q).present then
                match p.1.rotate q with
                | (s, some t) => (s, setIns p.2 t)
                | (s, none) => (s.used.log .tileSelftest .notice q noVein (52 * q + (s.quarry q).nextTile) noCtx 0 s.openNat 0, p.2)
              else p) (s, [])
            r.1.modTask k (fun y => { y with phase := .running, tiles := r.2 })
          else if s.queues.any (fun e => !s.queueIdle e.2) then s.failTask k .busy noDetail
          else
            let s := s.testMemories
            ({ s with flt := { s.flt with selfTest := true } }).modTask k (fun y => { y with phase := .running })
        | some (.selfTest scope), .running =>
          if scope = 1 then
            if s.testsOpen x.tiles then s
            else
              let n := (x.tiles.filter (fun t => decide ((s.tile t).role = .retired))).length
              (s.modTask k (fun y => { y with result := n })).finish k
          else
            let s := failed.foldl (fun s u => s.unitFails u) s
            let s := { s with
              tiles := s.tiles.map (fun (e : Nat × Tile) => (e.1, { e.2 with lastTest := s.now }))
              flt := { s.flt with selfTest := false } }
            (((s.found failed.length).acceptRecorded).modTask k (fun y => { y with result := failed.length })).finish k
        | _, _ => s)

/-! ## FAULT_NOTIFY (R506, R517) -/

/-- FAULT_NOTIFY: one message for every entry due, at most one each 100 µs, and the sideband's notice. -/
def execFaultNotify (s : State) : Host.Outcome State Fault Refusal :=
  .next (let free := match s.flt.lastMsg with
      | some t => s.passed t 10000
      | none => true
    if s.flt.enable && !s.flt.due.isEmpty && free then
      (({ s with flt := { s.flt with due := [], lastMsg := some s.now } }).sendVector s.flt.vector).emit (.event 1 s.flt.newest)
    else s)

end Sys2Proof.Machine
end

