-- ==== Sys2Proof/Machine/Registers.lean ====
section
/-! DEFINITION. The registers of BAR0 as words (R12 to R18, R511, R529 to R536): their values, reads by the sideband, the reads
that clear, and writes of registers without a command of their own. -/

namespace Sys2Proof.Machine

/-- Fields packed into a word: value and lowest bit of each. -/
def pack (fs : List (Nat × Nat)) : Nat := fs.foldl (fun a f => a + f.1 * 2 ^ f.2) 0

/-! ## Values by group -/

/-- BLK_STATE (R514). -/
def State.blkStateReg (s : State) : Nat := pack [(s.blk.state.code, 0), (b2n s.structured, 3), (b2n s.blk.resumeOrphaned, 4)]

/-- LEASE_LEFT_MS (R527): whole milliseconds of the lease that remain. -/
def State.leaseLeft (s : State) : Nat :=
  match s.own.st with
  | .held | .handover => (if s.own.suspended then s.own.frozen else s.own.leaseEnd - s.now) / msTicks
  | _ => 0

/-- OWN_STATE (R527). -/
def State.ownStateReg (s : State) : Nat :=
  pack [(s.own.st.code, 0), (s.own.kind.code, 2), (s.own.eid.toNat, 8), (s.own.succKind.code, 16), (s.own.succEid.toNat, 24), (s.leaseLeft, 32)]

/-- ADMQ_SIZE and ADMQ_STATUS (R397). -/
def AdminQueue.sizeReg (a : AdminQueue) : Nat :=
  pack [(a.log2, 0), (a.vector, 16), (b2n a.intr, 27), (a.pasid, 32), (b2n a.pasidValid, 52)]
def AdminQueue.statusReg (a : AdminQueue) : Nat :=
  pack [(a.head, 0), (a.tail, 16), (b2n a.enabled, 32), (b2n a.running.isSome, 33), (b2n a.ownStall, 34), (b2n a.cfgIgnored, 35),
    (b2n a.haltCause, 36), (b2n a.ringFailed, 37)]

/-- The head of a queue is stopped at a WAIT or at its wait-before (R373, R398). -/
def State.queueWaits (s : State) (q : WorkQueue) : Bool := (s.queueTasks q).any (·.2.stopsHead)

/-- QSTATE (R398): all zero for a queue that does not exist. -/
def State.qstateReg (s : State) (n : Nat) : Nat :=
  match s.queue? n with
  | none => 0
  | some q => pack [(1, 0), (b2n q.halted, 1), (b2n (s.queueWaits q), 2), (b2n q.ownStall, 3), (b2n (s.queueIdle q), 4), (q.prio, 5),
      (q.vein, 8), (q.log2, 13), (q.context, 18), (q.head, 32), (q.tail, 48)]

/-- STRATA_STATE (R75). -/
def State.strataReg (s : State) : Nat :=
  let x := s.strata
  let st := (if x.load.isSome then 1 else 0) + (if x.inForce then 2 else 0)
  pack [(st, 0), (x.lastResult, 4), (x.lastVein, 8), (b2n x.lastPartial, 13), (x.loads, 16),
    ((if x.inForce then x.str.veins else []).foldl (fun a e => a + 2 ^ e.1) 0, 32)]

/-- Clamp entries that fit the window (R76). -/
def clampSlots : Nat := 1918

/-- An 8-byte word of the clamp report window (R76). -/
def State.clampWord (s : State) (i : Nat) : Nat :=
  let x := s.strata
  let n := x.clamps.length
  if i < 8 then
    nth 0 [pack [(Nat.min n clampSlots, 0), (n, 32)], x.serial, pack [(x.kind, 0), (x.vein, 8), (b2n (decide (clampSlots < n)), 16)], x.when'] i
  else
    match (x.clamps.take clampSlots)[(i - 8) / 4]? with
    | some c => nth 0 [pack [(c.type, 0), (c.inst, 16), (c.reason, 24), (c.field % 2 ^ 16, 32), (c.element, 48)], c.given', c.applied] ((i - 8) % 4)
    | none => 0

/-- An 8-byte word of the fault-log window (R501, R503): the entry whose sequence number has this slot. -/
def State.logWord (s : State) (i : Nat) : Nat :=
  match s.flt.log.find? (fun e => e.seq % 4096 == i / 8) with
  | some e => nth 0 [e.seq, e.time, pack [(e.cls.code, 0), (e.outcome.code, 8), (e.quarry, 16), (e.vein, 24), (e.unit, 32), (e.context, 48)],
      pack [(e.interrupt, 0), (e.count, 32)], e.detail0, e.detail1] (i % 8)
  | none => 0

/-- FLT_CAPACITY (R502). -/
def State.capacityReg (s : State) : Nat :=
  let late := (List.range 8).any (fun q => s.overdue q)
  s.flt.unserved.length + (if late then setIns s.flt.capacity 15 else s.flt.capacity).foldl (fun a b => a + 2 ^ b) 0

/-- PWR_MODE, PWR_FSET, PWR_NOW (R483). -/
def State.modeReg (s : State) : Nat :=
  let x := s.strata.str
  pack [(b2n x.fixed, 0), (b2n x.boost, 1), (b2n x.spread, 2), (x.classOrder, 3), (s.blk.refSpread, 16)]
def State.fsetReg (s : State) : Nat :=
  pack ((List.range 8).map (fun q => (if s.strata.str.fixed then 25 else (s.qpower q).fset, 8 * q)))
def State.nowReg (s : State) : Nat := pack (s.powerNow.zipIdx.map (fun e => (e.1 / 1000000 % 2 ^ 16, 16 * e.2)))

/-- XLAT_STATUS (R290). -/
def State.xlatStatusReg (s : State) : Nat :=
  pack [(b2n s.host.atsEn, 0), (b2n s.host.priEn, 1), (b2n s.xlat.priStopped, 2), (b2n s.draining, 3), (s.xlat.slots.length, 4),
    (s.streams.length, 14), (s.xlat.invals.length, 20), (s.xlat.placed.length, 26)]

/-- XLAT_TAG_VALUE (R291). -/
def State.tagReg (s : State) : Nat :=
  let g := s.xlat.tagIndex
  pack [((s.tagOf g).toNat, 0), (b2n (s.striped g), 16)] + match s.granVein g with
    | some v => pack [(v.1, 17), (1, 22)]
    | none => 0

/-- FAB_PEER_STATUS (R454): the cached entry, or the table's where none is cached. -/
def State.peerReg (s : State) : Nat :=
  let d := s.fab.peerIndex
  let a := s.fab.tabBase * 2 ^ 20 + 16 * d
  let valid := s.fab.tabValid && (match s.devEntry? d with
    | some e => e.valid
    | none => (devEntryOf (s.readLatest a 16)).1.valid && !s.readPoison a 16)
  let st := if !valid then 3 else match s.peerSt d with
    | .normal => 0
    | .lost => 1
    | .authFailed => 2
  pack [(st, 0), (Nat.min 65535 (s.fab.ops.filter (fun e => e.2.device == d)).length, 16)]

/-! ## Quarry blocks (R44, R45, R483, R508, R531) -/

/-- QRY_STATUS (R44). TILE_FREQ shows the frequency of the PLL (R455), also under the alert's divider (R464). -/
def State.qryStatusReg (s : State) (q : Nat) : Nat :=
  let x := s.quarry q
  let y := s.qpower q
  let count (f : Tile → Bool) : Nat := (s.tiles.filter (fun e => quarryOf e.1 == q && f e.2)).length
  if !x.present then 4 * 2 ^ 24
  else pack [(1, 0), (b2n (decide (s.blk.quartz = some q)), 1), (b2n (q == 4 && s.blk.quartzSpare), 2),
    (count (fun t => decide (t.role = .mapped)), 8), (count (fun t => t.healthy && decide (t.role ≠ .retired)), 16),
    (y.freq, 24), (x.engines.length, 32), (b2n x.copySpare, 35), (b2n y.pllSpare, 36)]

/-- One port's field of QRY_LINK. -/
def State.portField (s : State) (q i : Nat) : Nat :=
  match tblFind (s.quarry q).ports i with
  | none => 0
  | some p =>
    let far : Port := match portPeer q i with
      | some e => tblGet p (s.quarry e.1).ports e.2
      | none => p
    if p.state = 0 then 0 else pack [(p.state, 0), (Nat.min p.spares far.spares, 2), (Nat.min 255 (p.swaps + far.swaps), 8)]

def State.qryLinkReg (s : State) (q : Nat) : Nat := pack ((List.range 4).map (fun i => (s.portField q i, 16 * i)))

def State.qryThermalReg (s : State) (q : Nat) : Nat :=
  let y := s.qpower q
  if (s.quarry q).present then pack [(y.computeC, 0), (y.baseC, 8), (y.dramC, 16), (y.computeMaxC, 24)] else 0

/-- COMPUTE_W, a share of the power model that no command states, is an open value (R465). -/
def State.qryPowerReg (s : State) (q : Nat) : Nat :=
  let y := s.qpower q
  if !(s.quarry q).present then 0x101C04
  else pack [(s.target q, 0), (s.ceiling q, 8), (if y.thermGate then Nat.min 4 y.gate else y.gate, 16), ((s.reasons q).toNat, 24),
    (s.openNat % 2 ^ 16, 32), (if decide (s.blk.state = .sleep) then 0 else y.rail / 10 % 2 ^ 10, 48)]

def minOf (top : Nat) (xs : List Nat) : Nat := xs.foldl Nat.min top

def State.qrySparesReg (s : State) (q : Nat) : Nat :=
  let x := s.quarry q
  let slices (m : NSet) : Nat := (m.filter (fun k => k / 64 == q)).length
  if !x.present then 0
  else pack [(x.tsvSpares, 0), (b2n x.tsvHalf, 8), (minOf 4 (x.bankSpares.map (·.2)), 12), (b2n (!x.bankNone.isEmpty), 15),
    (minOf 32 (x.rowSpares.map (·.2)), 16), (minOf 16 (x.resultSpares.map (·.2)), 24), (slices s.qc.spared, 32),
    (b2n (s.qc.lost.any (fun k => k / 2048 == q)), 39), (slices s.homes.dirSpared, 40), (b2n (slices s.homes.dirLost != 0), 47),
    (b2n (s.qpower q).pllFallback, 48)]

/-- MARGIN_MIN_MV and WORST_TILE are open values: no command states a tile's margin (R508). -/
def State.qryWearReg (s : State) (q : Nat) : Nat :=
  let x := s.quarry q
  if !x.present then 0
  else pack [(s.openNat % 2 ^ 8, 0), (52 * q + Config.freeNat (s.free + 1) % 52, 8), (x.retired, 24), (x.rotationSteps, 32), (x.nextTile, 48),
    (b2n (x.overdue || s.overdue q), 54)]

/-- A register of a quarry block. -/
def State.qryReg (s : State) (q off : Nat) : Option Nat :=
  match off with
  | 0x000 => some (s.qryStatusReg q)
  | 0x008 => some (s.qryLinkReg q)
  | 0x100 => some (s.qryThermalReg q)
  | 0x108 => some (s.qryPowerReg q)
  | 0x200 => some (s.qrySparesReg q)
  | 0x208 => some (s.qryWearReg q)
  | _ => none

/-! ## Debug value views (R534 to R536) -/

/-- STATE of a tile's view. -/
def State.tileCode (s : State) (t : Nat) : Nat :=
  let x := s.tile t
  match x.role with
  | .absent | .testing => 0
  | .spare => 1
  | .retired => 7
  | .mapped =>
    if decide (s.blk.state = .sleep) then 2
    else match x.run with
      | .none | .halted | .stopped => 2
      | .committing => 6
      | .waiting _ => 4
      | _ => if s.xlat.slots.any (fun e => e.2.waiters.contains (.tile t)) || s.xlat.slotWait.any (fun r => decide (r.stream = .tile t)) then 5 else 3

def WaitKind.code : WaitKind → Nat
  | .sigWait => 1 | .barWait => 2 | .feTake => 3 | .fePeek => 4 | .lcWait => 5

def Tile.waitCode (x : Tile) : Nat :=
  match x.run with
  | .waiting k => k.code
  | _ => 0

/-- Some register or accumulator file carries poison. -/
def Tile.anyPoison (x : Tile) : Bool := !x.gPoison.isEmpty || !x.vPoison.isEmpty || !x.pPoison.isEmpty || x.accs.any (fun e => e.2.poisoned)

/-- An 8-byte word of DBG_TILE. -/
def State.tileView (s : State) (t i : Nat) : Nat :=
  let x := s.tile t
  let code := s.tileCode t
  if decide (x.role ≠ .mapped) || decide (s.blk.state = .sleep) then (if i = 0 then code else 0)
  else match i with
    | 0 => pack [(code, 0), (if code = 4 then x.waitCode else 0, 3), (b2n (x.isProtected && x.task.isSome), 8), (b2n x.anyPoison, 9), (s.logicalOf t, 10), (x.vein, 19),
        (x.context.getD 0, 24)]
    | 1 => x.pc
    | 2 => x.cycle
    | 3 => x.unitCycles
    | 4 => x.astat.toNat
    | 5 => x.lfsr.toNat
    | 10 => pack [(x.matQueue.length, 0), (x.moves.length, 3), (x.micas.length, 8), ((x.heldBytes + 1023) / 1024, 16)]
    | 11 => pack [(b2n x.validHalf, 0), (b2n x.ckptLost, 1)]
    | _ => if 6 ≤ i ∧ i ≤ 9 then pack [(tblGet 0 x.lc (2 * i - 12), 0), (tblGet 0 x.lc (2 * i - 11), 32)] else 0

/-- An 8-byte word of DBG_OBJ. -/
def State.objWord (s : State) (n i : Nat) : Nat := leNat (((s.record n (s.objView n)).drop (8 * i)).take 8)

/-- The debug value views lie from 0x0F0_0000: an aligned word of 8 bytes. -/
def State.debugWord (s : State) (a : Nat) : Nat :=
  if a < 0xF80000 then s.objWord ((a - 0xF00000) / 32) ((a - 0xF00000) % 32 / 8) else s.tileView ((a - 0xF80000) / 256) ((a - 0xF80000) % 256 / 8)

/-! ## Registers by offset (R530) -/

/-- A stretch of BAR0. -/
def within (lo hi a : Nat) : Bool := decide (lo ≤ a) && decide (a < hi)

/-- What R511 leaves open while UNSTRUCTURED. -/
def openEarly (a : Nat) : Bool :=
  within 0 0x20 a || within 0x10000 0x10034 a || within 0x20000 0x20020 a || within 0x30000 0x40000 a || within 0x40000 0x4000C a
    || within 0x80000 0x88000 a || within 0x90000 0x90100 a || within 0xA0000 0xA0038 a || within 0x100000 0x141000 a
    || within 0x200000 0x202000 a || within 0x700000 0x780000 a || within 0x800000 0x810000 a

/-- R511 closes the offset. -/
def State.closed (s : State) (a : Nat) : Bool := s.unstructured && !openEarly a

/-- 64-bit registers with an offset of their own; a write-only one reads 0. -/
def State.single64 (s : State) (a : Nat) : Option Nat :=
  match a with
  | 0x000000 => some 0x000207401F5A
  | 0x000008 => some (pack [(Config.stepping.toNat, 0), (Config.romVersion.toNat, 8), (s.strata.str.microcode, 16)])
  | 0x000010 => some s.blkStateReg
  | 0x000018 => some 0x0028100000200180
  | 0x000100 => some (s.blk.veinDown.foldl (fun x v => x + 2 ^ v) 0)
  | 0x010000 => some s.ownStateReg
  | 0x010008 => some 0
  | 0x010010 => some s.own.epoch.toNat
  | 0x010018 => some s.own.leaseMs
  | 0x010020 => some s.own.renewed.toNat
  | 0x010028 => some (pack [(s.own.hoKind.code, 0), (s.own.hoEid.toNat, 8)])
  | 0x020000 => some (pack [(b2n s.adm.space, 0), (s.adm.addr, 12)])
  | 0x020008 => some s.adm.sizeReg
  | 0x020010 => some s.adm.tail
  | 0x020018 => some s.adm.statusReg
  | 0x020028 => some s.blk.lateCount
  | 0x030000 => some s.strataReg
  | 0x040000 => some s.now
  | 0x0A0000 => some 0x0001000010000010
  | 0x0A0008 => some (pack [(s.fab.self, 0), (b2n s.fab.assigned, 16)])
  | 0x0A0010 => some (pack [(b2n s.fab.tabValid, 0), (s.fab.tabBase, 20)])
  | 0x0A0030 => some (pack [(s.fab.peerLosses, 0), (s.fab.authFailures, 16), (s.fab.refused, 32), (s.fab.notReady, 48)])
  | 0x100000 => some s.flt.newest
  | 0x100008 => some ((s.flt.log.head?.map (·.seq)).getD 0)
  | 0x100010 => some (pack [(s.flt.notices, 0), (s.flt.maskeds, 16), (s.flt.detecteds, 32), (s.flt.overwritten, 48)])
  | 0x100018 => some (pack [(s.flt.vector, 0), (b2n s.flt.enable, 11), (s.flt.level, 12)])
  | 0x100020 => some s.capacityReg
  | 0x100028 => some (pack [(s.flt.steps, 0), (s.flt.found, 16), (b2n s.flt.selfTest, 24)])
  | 0x200010 => some s.modeReg
  | 0x200018 => some s.fsetReg
  | 0x200020 => some s.nowReg
  | 0x200118 => some (s.pwr.energyStatic / 10000)
  | 0x200120 => some s.pwr.energyMeasured
  | 0x340000 => some (s.flint.vsBase * 2 ^ 19)
  | 0x340008 => some (s.flint.takeBase * 2 ^ 19)
  | 0x340010 => some (s.flint.moved.foldl (fun x q => x + 2 ^ q) 0 + s.flint.unmirrored.foldl (fun x q => x + 2 ^ (8 + q)) 0)
  | 0x340018 => some (pack [(s.flint.ovfs, 0), (s.flint.unfs, 16), (s.flint.overruns, 32), (s.flint.abandons, 48)])
  | 0x600000 => some 0x0001020000208000
  | 0x600008 => some s.xlatStatusReg
  | 0x600010 => some s.xlat.priTimeout
  | 0x600018 => some (s.xlat.bar4Window * 2 ^ 36)
  | 0x600040 => some s.xlat.misses
  | 0x600048 => some s.xlat.pageRequests
  | 0x600050 => some s.xlat.pageFails
  | 0x600058 => some s.xlat.invalidations
  | 0x600060 => some s.xlat.drainMax
  | _ => none

/-- Peer windows (R426). -/
def State.peerWindow (s : State) (i : Nat) : Bool × Nat × Nat := tblGet (false, 0, 0) s.host.peers i

/-- The 64-bit register at an offset, indexed families and windows included. -/
def State.reg64 (s : State) (a : Nat) : Option Nat :=
  if a % 8 ≠ 0 then none
  else if within 0x28000 0x30000 a then some (s.qstateReg ((a - 0x28000) / 8))
  else if within 0x31000 0x40000 a then some (s.clampWord ((a - 0x31000) / 8))
  else if within 0x90000 0x90100 a then
    some ((s.host.pba.filter (fun v => v / 64 == (a - 0x90000) / 8)).foldl (fun x v => x + 2 ^ (v % 64)) 0)
  else if within 0x101000 0x141000 a then some (s.logWord ((a - 0x101000) / 8))
  else if within 0x200080 0x2000B8 a then some (nth 0 s.pwr.durations ((a - 0x200080) / 8))
  else if within 0x200100 0x200118 a then some (nth 0 s.pwr.energyClass ((a - 0x200100) / 8) / 10 ^ 9)
  else if within 0x201000 0x201400 a then
    let v := (a - 0x201000) / 32
    let c := (a - 0x201000) % 32 / 8
    if c = 3 then none else some (tblGet 0 s.pwr.energyVein (4 * v + c) / 10 ^ 9)
  else if within 0x600100 0x600200 a then
    let w := s.peerWindow ((a - 0x600100) / 16)
    some (if a % 16 = 0 then b2n w.1 + w.2.1 * 4096 else w.2.2 * 4096)
  else if within 0x700000 0x780000 a then s.qryReg ((a - 0x700000) / 0x10000) (a % 0x10000)
  else s.single64 a

/-- A word of the MSI-X table (R413). -/
def State.msixWord (s : State) (a : Nat) : Nat :=
  let e : MsixEntry := tblGet {} s.host.msix ((a - 0x80000) / 16)
  nth 0 [e.addr % 2 ^ 32, e.addr / 2 ^ 32 % 2 ^ 32, e.data, b2n e.masked] (a % 16 / 4)

/-- The 32-bit register at an offset. -/
def State.reg32 (s : State) (a : Nat) : Option Nat :=
  if within 0x80000 0x88000 a && a % 4 == 0 then some (s.msixWord a)
  else match a with
    | 0x010030 => some s.own.denied
    | 0x020020 => some s.blk.dbIgnored
    | 0x030008 => some s.strata.clamps.length
    | 0x03000C => some 0x31000
    | 0x040008 => some 0
    | 0x0A0018 => some (pack [(s.fab.invalDevice, 0), (b2n s.fab.invalAll, 16), (b2n (!s.fab.rereads.isEmpty), 31)])
    | 0x0A0020 => some s.fab.peerIndex
    | 0x0A0024 => some s.peerReg
    | 0x0A0028 => some (s.fab.channelsUp.foldl (fun x c => x + 2 ^ c) 0)
    | 0x200000 => some s.pwr.capOwner
    | 0x200004 => some s.pwr.capRack
    | 0x200008 => some s.effectiveCap
    | 0x200040 => some s.reasonAny.toNat
    | 0x200044 => some s.pwr.seen.toNat
    | 0x340020 => some s.flint.winIgnored
    | 0x600020 => some s.xlat.tagIndex
    | 0x600024 => some s.tagReg
    | _ => none

/-- What a closed register reads (R511, R530). -/
def closedValue (a : Nat) : Nat := if a = 0x600000 then 0x0001020000208000 else if a = 0x600010 then 0x08000000 else 0

/-- A register as it reads: closed, its reset value; of Quartz with both pairs lost, 0 (R488). -/
def State.shown (s : State) (a v : Nat) : Nat := if s.closed a then closedValue a else if quartzServes a && s.blk.quartz.isNone then 0 else v

/-- The CXL component registers (R404), the debug value views (R536), and the Flint and full/empty windows (R339, R342). -/
def isComponent (a : Nat) : Bool := within 0x800000 0x810000 a
def isView (a : Nat) : Bool := within 0xF00000 0xF9A000 a
def isWindow (a : Nat) : Bool := within 0x300000 0x340000 a || within 0x400000 0x600000 a

/-- A byte of BAR0 that is no unassigned offset (R14); the windows are apart. -/
def State.assigned (s : State) (a : Nat) : Bool :=
  (s.reg64 (a / 8 * 8)).isSome || (s.reg32 (a / 4 * 4)).isSome || isComponent a || isView a

/-- An access touches a register that R511 does not close, or a window. -/
def State.touches (s : State) (off n : Nat) : Bool := (List.range n).any (fun i => s.assigned (off + i) && !s.closed (off + i))
def touchesWindow (off n : Nat) : Bool := (List.range n).any (fun i => isWindow (off + i))

/-! ## Reads (R12 to R15, R18) -/

/-- What a read of the bytes of a register does besides answering: it clears RC fields, moves the log's reading point (R502), and
takes open values. A 32-bit read of a half of XLAT_DRAIN_MAX clears all of it (DESIGN CHOICE, assumption 65). -/
def State.readAt (s : State) (a n : Nat) : State :=
  let low := decide (a % 8 = 0)
  let high := decide (a % 8 = 4 ∨ n = 8)
  if s.closed a then s
  else if a = 0x10030 then { s with own := { s.own with denied := 0 } }
  else if a = 0x20020 then { s with blk := { s.blk with dbIgnored := 0 } }
  else if a / 8 * 8 = 0xA0030 then
    { s with fab := { s.fab with
        peerLosses := if low then 0 else s.fab.peerLosses, authFailures := if low then 0 else s.fab.authFailures
        refused := if high then 0 else s.fab.refused, notReady := if high then 0 else s.fab.notReady } }
  else if within 0x101000 0x141000 a then
    match s.flt.log.find? (fun e => e.seq % 4096 == (a - 0x101000) / 64) with
    | some e => { s with flt := { s.flt with readUpTo := Nat.max s.flt.readUpTo e.seq } }
    | none => s
  else if a / 8 * 8 = 0x340018 then
    { s with flint := { s.flint with
        ovfs := if low then 0 else s.flint.ovfs, unfs := if low then 0 else s.flint.unfs
        overruns := if high then 0 else s.flint.overruns, abandons := if high then 0 else s.flint.abandons } }
  else if a = 0x340020 then { s with flint := { s.flint with winIgnored := 0 } }
  else if a / 8 * 8 = 0x600060 then { s with xlat := { s.xlat with drainMax := 0 } }
  else if within 0x700000 0x780000 a then s.used.used
  else s

/-- The part of a 64-bit value that a 32-bit read returns. -/
def half (v a : Nat) : Nat := if a % 8 = 4 then v / 2 ^ 32 else v % 2 ^ 32

/-- A 32-bit read of a register, or of a half of one. -/
def State.read4 (s : State) (a : Nat) : State × Nat :=
  match s.reg32 a with
  | some v => (s.readAt a 4, s.shown a v)
  | none =>
    match s.reg64 (a / 8 * 8) with
    | some v => (s.readAt a 4, half (s.shown (a / 8 * 8) v) a)
    | none => (s, 0)

/-- A 64-bit read: one register, or two 32-bit ones, the lower first. -/
def State.read8 (s : State) (a : Nat) : State × Nat :=
  match s.reg64 a with
  | some v => (s.readAt a 8, s.shown a v)
  | none =>
    let lo := s.read4 a
    let hi := lo.1.read4 (a + 4)
    (hi.1, lo.2 + 2 ^ 32 * hi.2)

/-- A read of the Flint object window (R339): slots hold the first 16 bytes of the objects' records. -/
def State.objRead (s : State) (off n : Nat) : Nat :=
  if s.unstructured then 0
  else
    let i := (off - 0x300000) / 16
    leNat (((s.record i (s.objView i)).drop (off % 16)).take n)

/-- A read of the value-state window (R342): none while the host's copy is being recalled. -/
def State.vsRead (s : State) (off n : Nat) : Option (State × Nat) :=
  if s.unstructured then some (s, 0)
  else
    let a := s.flint.vsBase * 2 ^ 19 + 8 * ((off - 0x400000) / 16)
    if !(s.hostHeld a 8 false).isEmpty then none
    else
      let v := s.word a
      some (s.dropFresh a 8, leNat (((leBytes 8 v.1 ++ leBytes 8 (feState (s.feFull a) v.2)).drop (off % 16)).take n))

/-- A misaligned access to a window, or one that is wider than it allows, is counted; it reads 0 (R12, R339, R342). -/
def State.badWindow (s : State) : State := if s.unstructured then s else s.winIgnored

/-- A read of a BAR0 offset (R12, R14, R339, R342, R536): the state after it and its value, or none while it waits. The 16-byte read of a
take slot is FE_WIN_TAKE's. -/
def State.readBar0 (s : State) (off n : Nat) : Option (State × Nat) :=
  if off % n ≠ 0 then some (if touchesWindow off n then s.badWindow else s, 0)
  else if within 0x300000 0x340000 off then
    if n = 4 ∨ n = 8 ∨ n = 16 then some (s, s.objRead off n) else some (if 16 < n then s.badWindow else s, 0)
  else if within 0x400000 0x500000 off then if n ≤ 16 then s.vsRead off n else some (s.badWindow, 0)
  else if within 0x500000 0x600000 off then some (s.badWindow, 0)
  else if isComponent off then some (s.used, s.openNat % 2 ^ (8 * n))
  else if isView off then
    some (s, if (n = 8 ∨ n = 16 ∨ n = 32 ∨ (n = 64 ∧ 0xF80000 ≤ off)) ∧ s.unstructured = false then
      leNat (((List.range (n / 8)).map (fun i => leBytes 8 (s.debugWord (off + 8 * i)))).flatten) else 0)
  else if n = 8 then some (s.read8 off)
  else if n = 4 then some (s.read4 off)
  else some (s, 0)

/-- A read of BAR2 returns 0 and does nothing (R14, R406, R532). -/
def State.readBar2 (s : State) (_off _n : Nat) : State × Nat := (s, 0)

/-- REG_READ (R517): by the sideband, in any block state. -/
def execRegRead (off width : Nat) (s : State) : Host.Outcome State Fault Refusal :=
  .next (if s.blk.quartz.isNone || !(width == 4 || width == 8) then s
    else match s.readBar0 off width with
      | some r => r.1.emit (.sidebandData r.2)
      | none => s.recallHost (s.flint.vsBase * 2 ^ 19 + 8 * ((off - 0x400000) / 16)) 8 false)

/-- A host read of a read-clear register, behind its posted writes (R18). -/
def State.hostRead (s : State) (i : PortReq) (pasid : Bool) (a n : Nat) : State :=
  s.nonPosted i pasid (fun s =>
    if !s.hostQuiet then s.hold i
    else
      let r := if n = 8 then s.read8 a else s.read4 a
      r.1.emit (.readData r.2))

def execOwnDeniedCount (pasid : Bool) (s : State) : Host.Outcome State Fault Refusal := .next (s.hostRead (.ownDeniedCount pasid) pasid 0x10030 4)
def execQueueDbIgnored (pasid : Bool) (s : State) : Host.Outcome State Fault Refusal := .next (s.hostRead (.queueDbIgnored pasid) pasid 0x20020 4)
def execFlintFaults (pasid : Bool) (s : State) : Host.Outcome State Fault Refusal := .next (s.hostRead (.flintFaults pasid) pasid 0x340018 8)
def execFlintWinIgnored (pasid : Bool) (s : State) : Host.Outcome State Fault Refusal := .next (s.hostRead (.flintWinIgnored pasid) pasid 0x340020 4)
def execXlatDrainMax (pasid : Bool) (s : State) : Host.Outcome State Fault Refusal := .next (s.hostRead (.xlatDrainMax pasid) pasid 0x600060 8)
def execFabEvents (pasid : Bool) (s : State) : Host.Outcome State Fault Refusal := .next (s.hostRead (.fabEvents pasid) pasid 0xA0030 8)

/-! ## Writes (R10, R12, R14 to R17) -/

/-- The state that a command of its own leaves. -/
def nextOr (s : State) : Host.Outcome State Fault Refusal → State
  | .next t => t
  | _ => s

/-- OWN_CLAIM, by its writer (R517, R518). -/
def State.claimWrite (s : State) (w : Who) (v : Nat) : State :=
  match w with
  | .host => nextOr s (execOwnClaim (BitVec.ofNat 32 v) s)
  | .sideband eid _ => (s.claim .sideband eid (BitVec.ofNat 32 v)).1
  | .remote eid _ => (s.claim .remote eid (BitVec.ofNat 32 v)).1

/-- The MSI-X table (R413): Message Address is aligned to 4 bytes; clearing the mask sends what is pending. -/
def State.msixWrite (s : State) (a v : Nat) : State :=
  let i := (a - 0x80000) / 16
  let e : MsixEntry := tblGet {} s.host.msix i
  let put (e : MsixEntry) : State := { s with host := { s.host with msix := tblPut s.host.msix i e } }
  match a % 16 / 4 with
  | 0 => put { e with addr := e.addr / 2 ^ 32 * 2 ^ 32 + v / 4 * 4 }
  | 1 => put { e with addr := e.addr % 2 ^ 32 + v * 2 ^ 32 }
  | 2 => put { e with data := v }
  | _ => if bit v 0 then put { e with masked := true } else s.unmask i

/-- A 32-bit write to a 32-bit register. Read-only and read-clear ones ignore it. -/
def State.write4 (s : State) (w : Who) (a v : Nat) : State :=
  if within 0x80000 0x88000 a then s.msixWrite a v
  else match a with
    | 0x040008 => if bit v 0 then s.wakeSource else s
    | 0x0A0018 =>
      if bit v 16 then nextOr s (execDevtabInvalidateAll w { s with fab := { s.fab with invalDevice := if s.isOwner w && decide (s.blk.state ≠ .halted) then v % 2 ^ 16 else s.fab.invalDevice } })
      else nextOr s (execDevtabInvalidateOne w (v % 2 ^ 16) s)
    | 0x0A0020 => { s with fab := { s.fab with peerIndex := v % 2 ^ 16 } }
    | 0x200000 => nextOr s (execPwrCapOwner w (BitVec.ofNat 32 v) s)
    | 0x200044 => { s with pwr := { s.pwr with seen := s.pwr.seen &&& ~~~(BitVec.ofNat 7 v) } }.noteReasons
    | 0x600020 => { s with xlat := { s.xlat with tagIndex := v % 2 ^ 19 } }
    | _ => s

/-- A peer window (R426). -/
def State.peerWrite (s : State) (a v : Nat) : State :=
  let i := (a - 0x600100) / 16
  let x := s.peerWindow i
  let x := if a % 16 = 0 then (bit v 0, v / 4096, x.2.2) else (x.1, x.2.1, v / 4096)
  { s with host := { s.host with peers := tblPut s.host.peers i x } }

/-- A 64-bit write to a 64-bit register. -/
def State.write8 (s : State) (w : Who) (a v : Nat) : State :=
  if within 0x600100 0x600200 a then s.rwo w (·.peerWrite a v)
  else match a with
    | 0x010008 => s.claimWrite w v
    | 0x010018 => s.rwo w (fun s => { s with own := { s.own with leaseMs := clampTo 100 60000 (v % 2 ^ 16) } })
    | 0x010020 => nextOr s (execOwnRenew w (BitVec.ofNat 32 v) s)
    | 0x010028 => nextOr s (execOwnHandover w (BitVec.ofNat 64 v) s)
    | 0x020000 => nextOr s (execAdmqBase w (BitVec.ofNat 64 v) s)
    | 0x020008 => nextOr s (execAdmqSize w (BitVec.ofNat 64 v) s)
    | 0x020010 => nextOr s (execAdmqDoorbell w (BitVec.ofNat 64 v) s)
    | 0x020018 => { s with adm := { s.adm with cfgIgnored := s.adm.cfgIgnored && !bit v 35 } }
    | 0x0A0010 => nextOr s (execFabDevtabBase w (BitVec.ofNat 64 v) s)
    | 0x100018 => s.rwo w (fun s => { s with flt := { s.flt with vector := bits v 0 11, enable := bit v 11, level := bits v 12 2 } })
    | 0x200018 => nextOr s (execPwrFset w (BitVec.ofNat 64 v) s)
    | 0x340000 => s.rwo w (fun s => { s with flint := { s.flint with vsBase := bits v 19 21 } })
    | 0x340008 => s.rwo w (fun s => { s with flint := { s.flint with takeBase := bits v 19 21 } })
    | 0x600010 => s.rwo w (fun s => { s with xlat := { s.xlat with priTimeout := Nat.max (2 ^ 20) (v % 2 ^ 40) } })
    | 0x600018 => s.rwo w (fun s => { s with xlat := { s.xlat with bar4Window := windowBits s.host.bar4Log2 (bits v 36 4) } })
    | _ => s

/-- A register takes a write unless R511 closes it, or Quartz served it and is gone (R488). -/
def State.takesWrite (s : State) (a : Nat) : Bool := !s.closed a && !(quartzServes a && s.blk.quartz.isNone)

def State.put4 (s : State) (w : Who) (a v : Nat) : State := if (s.reg32 a).isSome && s.takesWrite a then s.write4 w a v else s

/-- A write of the Flint object window (R339): 32 bits to a slot. -/
def State.objWrite (s : State) (off width v : Nat) : State :=
  let i := (off - 0x300000) / 16
  if s.unstructured then s
  else if width ≠ 4 ∨ off % 4 ≠ 0 then s.winIgnored
  else match off % 16 / 4 with
    | 0 => s.winReq (.flintAdd i v)
    | 1 => s.winReq (.flintSub i v)
    | 2 => s.winReq (.flintArrive i)
    | _ => s.winClear i (BitVec.ofNat 32 v)

/-- A write of the full/empty windows (R342): 8 bytes to bytes 0–7 of a value-state slot. -/
def State.feWrite (s : State) (off width v : Nat) : State :=
  if s.unstructured then s
  else if within 0x400000 0x500000 off && width == 8 && off % 16 == 0 then s.winFill ((off - 0x400000) / 16) (BitVec.ofNat 64 v)
  else s.winIgnored

/-- A write to BAR0 (R12, R14, R511): taken by the registers it fits; one of another width or alignment that touches a register is
ignored and recorded, or counted where it touches a window. -/
def State.writeBar0 (s : State) (w : Who) (off width : Nat) (v : Word) : State :=
  let x := v.toNat % 2 ^ (8 * width)
  if within 0x300000 0x340000 off then s.objWrite off width x
  else if within 0x400000 0x600000 off then s.feWrite off width x
  else if touchesWindow off width then s.badWindow
  else if width = 8 ∧ off % 8 = 0 ∧ isView off = false then
    if (s.reg64 off).isSome then (if s.takesWrite off then s.write8 w off x else s)
    else (s.put4 w off (x % 2 ^ 32)).put4 w (off + 4) (x / 2 ^ 32)
  else if width = 4 ∧ off % 4 = 0 ∧ (s.reg32 off).isSome then s.put4 w off x
  else if s.touches off width then s.registerIgnored off width
  else s

/-- A write that the component registers take: its effect is CXL 3.1's, which the spec does not state (R404, R530). -/
def componentWrite (off width : Nat) : Bool := isComponent off && (width == 4 || width == 8) && off % width == 0

/-- REG_WRITE (R517): applied as a host-port write with the sender's epoch. -/
def execRegWrite (w : Who) (off width : Nat) (v : Word) (s : State) : Host.Outcome State Fault Refusal :=
  if decide (w = .host) || s.blk.quartz.isNone then .next s
  else if componentWrite off width then .refused .cxlComponentRegister
  else .next (s.writeBar0 w off width v)

/-- REGISTER_WRITE (R12): a host write to any register without a command of its own. -/
def execRegisterWrite (off width : Nat) (v : Word) (m : HostMark) (s : State) : Host.Outcome State Fault Refusal :=
  if componentWrite off width && decide (s.portTake = .taken) && s.hostQuiet && !m.ep && !m.pasid then .refused .cxlComponentRegister
  else .next (s.posted (.registerWrite off width v m) m off width (·.writeBar0 .host off width v))

end Sys2Proof.Machine
end

