-- ==== Sys2Proof/Machine/Vector.lean ====
section
/-! DEFINITION. Vector and predicate instructions (R174 to R178): floating point, integer, conversions, permutes, reductions,
tile-memory accesses. Fields that a group does not use must be 0 (R161). -/

namespace Sys2Proof.Machine

/-! ## Shared forms -/

/-- Without PEN no lane is inactive, and PG and PZ are unused (R161, R174). -/
def VecCtl.predOk (c : VecCtl) : Bool := c.pen || (decide (c.pg = 0) && !c.pz)

/-- RMODE and SAT must be 0 outside conversions (R174). -/
def noCvt (c : VecCtl) : Bool := decide (c.rmode = 0) && !c.sat && VecCtl.predOk c

/-- FTZ must be 0 as well where the instruction computes no floating-point value. -/
def noFp (c : VecCtl) : Bool := noCvt c && !c.ftz

/-- A vector instruction whose encoding is valid issues; another traps (R161). -/
def State.vec (s : State) (t : Nat) (ok : Bool) (regs : List Reg) (f : State → State) : State :=
  s.issue t true regs (fun s =>
    if ok then f (s.modTile t (fun x => { x with gated := setDel x.gated 2 })) else s.trap t .illegalInsn none)

/-- Conditions of the active lanes reach ASTAT; an invalid condition that is open takes an open value (R115, R174). -/
def State.raise (s : State) (t : Nat) (c : VecCtl) (rs : List (Conds × Bool)) : State :=
  let x := s.tile t
  let act := (rs.zipIdx.filter (fun r => x.active c r.2)).map (·.1)
  let cs := act.foldl (fun a r => Conds.or a r.1) ({} : Conds)
  let isOpen := act.any (·.2)
  let cs := if isOpen then cs.or { inv := s.openWord.getLsbD 0 } else cs
  let s := s.modTile t (fun x => x.setStat cs.bits)
  if isOpen then s.used else s

/-- A floating-point lane operation with a vector result. -/
def State.vfp (s : State) (t : Nat) (vd : VReg) (c : VecCtl) (poison : Bool) (f : Nat → FpRes) : State :=
  let rs := (List.range 64).map f
  let s := s.raise t c (rs.map (fun r => (r.conds, r.openInv)))
  s.wide t (fun x => x.setV vd (x.merge c vd (fun i => (nth { word := 0 } rs i).word)) (x.mergePoison c vd poison))

/-- Floating-point forms of one, two and three sources (R175). -/
def State.vfp1 (s : State) (t : Nat) (vd va : VReg) (c : VecCtl) (op : Bool → Word32 → FpRes) : State :=
  s.vec t (noCvt c) [] (fun s => s.vfp t vd c ((s.tile t).vp va) (fun i => op c.ftz (lane ((s.tile t).vr va) i)))
def State.vfp2 (s : State) (t : Nat) (vd va : VReg) (vb : VSrc) (c : VecCtl) (op : Bool → Word32 → Word32 → FpRes) : State :=
  s.vec t (noCvt c) (VSrc.regs vb) (fun s =>
    let x := s.tile t
    s.vfp t vd c (x.vp va || x.src2Poison vb) (fun i => op c.ftz (lane (x.vr va) i) (x.src2 vb i)))
def State.vfp3 (s : State) (t : Nat) (vd va : VReg) (vb : VSrc) (vc : VReg) (c : VecCtl)
    (op : Bool → Word32 → Word32 → Word32 → FpRes) : State :=
  s.vec t (noCvt c) (VSrc.regs vb) (fun s =>
    let x := s.tile t
    s.vfp t vd c (x.vp va || x.src2Poison vb || x.vp vc)
      (fun i => op c.ftz (lane (x.vr va) i) (x.src2 vb i) (lane (x.vr vc) i)))

/-- A predicate destination with inactive bits kept or zeroed (R174). -/
def Tile.setCmp (x : Tile) (c : VecCtl) (pd : PReg) (poison : Bool) (f : Nat → Bool) : Tile :=
  x.setP pd (ofBits (fun i => if x.active c i then f i else if c.pz then false else (x.pr pd).getLsbD i))
    (poison || (c.pen && (x.pp c.pg || (!c.pz && x.pp pd))))

/-- A floating-point compare (R175). -/
def State.vfcmp (s : State) (t : Nat) (pd : PReg) (va : VReg) (vb : VSrc) (c : VecCtl) (op : Bool → Word32 → Word32 → FpCmp) :
    State :=
  s.vec t (noCvt c) (VSrc.regs vb) (fun s =>
    let x := s.tile t
    let rs := (List.range 64).map (fun i => op c.ftz (lane (x.vr va) i) (x.src2 vb i))
    let s := s.raise t c (rs.map (fun r => ({}, r.openInv)))
    s.wide t (fun x => x.setCmp c pd (x.vp va || x.src2Poison vb) (fun i => (nth { holds := false } rs i).holds)))

/-- An integer lane operation (R175). -/
def State.vint (s : State) (t : Nat) (vd va : VReg) (vb : VSrc) (c : VecCtl) (op : Word32 → Word32 → Word32) : State :=
  s.vec t (noFp c) (VSrc.regs vb) (fun s => s.wide t (fun x =>
    x.setV vd (x.merge c vd (fun i => op (lane (x.vr va) i) (x.src2 vb i))) (x.mergePoison c vd (x.vp va || x.src2Poison vb))))

/-- An integer compare (R175). -/
def State.vicmp (s : State) (t : Nat) (pd : PReg) (va : VReg) (vb : VSrc) (c : VecCtl) (op : Word32 → Word32 → Bool) : State :=
  s.vec t (noFp c) (VSrc.regs vb) (fun s => s.wide t (fun x =>
    x.setCmp c pd (x.vp va || x.src2Poison vb) (fun i => op (lane (x.vr va) i) (x.src2 vb i))))

/-- The tree of R177: adjacent results combined, level by level. -/
def pairUp {α : Type} (f : α → α → α) : List α → List α
  | a :: b :: r => f a b :: pairUp f r
  | r => r
def treeFold {α : Type} (f : α → α → α) (d : α) : Nat → List α → α
  | 0, l => l.headD d
  | n + 1, l => treeFold f d n (pairUp f l)

/-- A floating-point reduction (R177): the conditions of every step count; bits [63:32] of gd are 0 (DESIGN CHOICE, assumption 73). -/
def State.vredF (s : State) (t : Nat) (rd : Reg) (va : VReg) (c : VecCtl) (idle : Word32) (op : Bool → Word32 → Word32 → FpRes) :
    State :=
  s.vec t (noCvt c && !c.pz) [rd] (fun s =>
    let x := s.tile t
    let ls := (List.range 64).map (fun i => (if x.active c i then lane (x.vr va) i else idle, ({} : Conds)))
    let r := treeFold (fun (a b : Word32 × Conds) =>
      let y := op c.ftz a.1 b.1
      (y.word, (a.2.or b.2).or y.conds)) (idle, {}) 6 ls
    s.wide t (fun x => (x.setStat r.2.bits).setG rd (r.1.setWidth 64) (x.vp va || (c.pen && x.pp c.pg))))

/-- A predicate operation (R175): each bit is a lane, so bits that PG leaves inactive are kept or zeroed (R174; DEDUCED, assumption 73). -/
def State.pred (s : State) (t : Nat) (pd pa pb : PReg) (c : VecCtl) (op : Word → Word → Word) : State :=
  s.vec t (noFp c) [] (fun s => s.wide t (fun x => x.setCmp c pd (x.pp pa || x.pp pb) (fun i => (op (x.pr pa) (x.pr pb)).getLsbD i)))

/-! ## Vector memory (R178) -/

/-- The active lanes with their addresses. -/
def Tile.laneAddrs (x : Tile) (c : VecCtl) (f : Nat → Word) : List (Nat × Nat) :=
  ((List.range 64).filter (x.active c)).map (fun i => (i, (f i).toNat))

/-- What the lanes' addresses meet (R178, R189). -/
def State.laneCause (s : State) (t : Nat) (as : List (Nat × Nat)) (write : Bool) : Option (Trap × Nat) :=
  match as.find? (fun a => a.2 % 4 != 0) with
  | some a => some (.misaligned, a.2)
  | none => match as.find? (fun a => !s.inScratch t a.2 4) with
    | some a => some (.tileMemAccess, a.2)
    | none =>
      if write then (as.find? (fun a => (s.tile t).meetsStable a.2 4)).map (fun a => (.stableWrite, a.2)) else none

/-- A vector load or store over lane addresses. A store writes no vector register, so its PZ is reserved (R161, R178). -/
def State.vmem (s : State) (t : Nat) (c : VecCtl) (regs : List Reg) (write : Bool) (ecc : TileEcc) (addr : Tile → Nat → Word)
    (f : List (Nat × Nat) → Tile → Tile) : State :=
  s.vec t (noFp c && !(write && c.pz)) regs (fun s =>
    let as := (s.tile t).laneAddrs c (addr (s.tile t))
    match s.laneCause t as write with
    | some (cause, a) => s.trap t cause (some a)
    | none =>
      let rs := as.map (fun a => (⟨a.2, 4⟩ : Range))
      if s.conflict t (if write then [] else rs) (if write then rs else []) then s
      else (if write then s else s.tileFound t rs ecc).wide t (f as))

/-- The 32-bit word at a tile-local address. -/
def Tile.word32 (x : Tile) (a : Nat) : Word32 := BitVec.ofNat 32 (leNat (memRead x.scratch a 4))

/-- Loaded lanes. -/
def vmemLoad (vd : VReg) (c : VecCtl) (as : List (Nat × Nat)) (x : Tile) : Tile :=
  let poison := as.any (fun a => anyPoison x.poison a.2 4)
  x.setV vd (x.merge c vd (fun i => match as.find? (fun a => a.1 == i) with
    | some a => x.word32 a.2
    | none => 0)) (x.mergePoison c vd poison)

/-- Stored lanes, in ascending order, so that the highest lane's value remains. -/
def vmemStore (va : VReg) (c : VecCtl) (as : List (Nat × Nat)) (x : Tile) : Tile :=
  as.foldl (fun y a => y.storeScratch a.2 (leBytes 4 (lane (x.vr va) a.1).toNat)
    (x.vp va || (c.pen && x.pp c.pg))) x

/-- The offset of a lane in a gather or scatter (R178). -/
def gatherOff (w : Word32) : Word := if Config.gatherSigned then w.signExtend 64 else w.setWidth 64

/-! ## Conversion (R176) -/

/-- Formats of vector conversions (R176). -/
def vcvtFormat (code : BitVec 5) : Option Elem := if code.toNat ≤ 6 then elemOf code.toNat else none

/-- With FTZ a subnormal source element reads as a zero of its sign (R114). -/
def flushIn (el : Elem) (ftz : Bool) (x : Num) : Num :=
  match el, x with
  | .float f, .fin neg m e => if ftz && decide (m < 2 ^ f.mb) then .fin neg 0 0 else .fin neg m e
  | _, x => x

/-- The value of element `i` of a packed register. -/
def vcvtSrc (el : Elem) (ftz : Bool) (v : BitVec 2048) (i : Nat) : Num :=
  flushIn el ftz (el.decode (bits v.toNat (el.width * i) el.width))

/-! ## The instructions -/

def execFadd (t : Nat) (vd va : VReg) (vb : VSrc) (c : VecCtl) (s : State) : Host.Outcome State Fault Refusal :=
  .next (s.spelled t (.fadd t vd va vb c) (s.vfp2 t vd va vb c fpAdd))
def execFsub (t : Nat) (vd va : VReg) (vb : VSrc) (c : VecCtl) (s : State) : Host.Outcome State Fault Refusal :=
  .next (s.spelled t (.fsub t vd va vb c) (s.vfp2 t vd va vb c fpSub))
def execFmul (t : Nat) (vd va : VReg) (vb : VSrc) (c : VecCtl) (s : State) : Host.Outcome State Fault Refusal :=
  .next (s.spelled t (.fmul t vd va vb c) (s.vfp2 t vd va vb c fpMul))
def execFmin (t : Nat) (vd va : VReg) (vb : VSrc) (c : VecCtl) (s : State) : Host.Outcome State Fault Refusal :=
  .next (s.spelled t (.fmin t vd va vb c) (s.vfp2 t vd va vb c fpMin))
def execFmax (t : Nat) (vd va : VReg) (vb : VSrc) (c : VecCtl) (s : State) : Host.Outcome State Fault Refusal :=
  .next (s.spelled t (.fmax t vd va vb c) (s.vfp2 t vd va vb c fpMax))
def execFfma (t : Nat) (vd va : VReg) (vb : VSrc) (vc : VReg) (c : VecCtl) (s : State) : Host.Outcome State Fault Refusal :=
  .next (s.spelled t (.ffma t vd va vb vc c) (s.vfp3 t vd va vb vc c (fun z => fpFma z false false)))
def execFfms (t : Nat) (vd va : VReg) (vb : VSrc) (vc : VReg) (c : VecCtl) (s : State) : Host.Outcome State Fault Refusal :=
  .next (s.spelled t (.ffms t vd va vb vc c) (s.vfp3 t vd va vb vc c (fun z => fpFma z false true)))
def execFnfma (t : Nat) (vd va : VReg) (vb : VSrc) (vc : VReg) (c : VecCtl) (s : State) : Host.Outcome State Fault Refusal :=
  .next (s.spelled t (.fnfma t vd va vb vc c) (s.vfp3 t vd va vb vc c (fun z => fpFma z true false)))
def execFsqrt (t : Nat) (vd va : VReg) (c : VecCtl) (s : State) : Host.Outcome State Fault Refusal :=
  .next (s.spelled t (.fsqrt t vd va c) (s.vfp1 t vd va c fpSqrt))
def execFabs (t : Nat) (vd va : VReg) (c : VecCtl) (s : State) : Host.Outcome State Fault Refusal :=
  .next (s.spelled t (.fabs t vd va c) (s.vfp1 t vd va c (fun z => fpSign z (fun _ => false))))
def execFneg (t : Nat) (vd va : VReg) (c : VecCtl) (s : State) : Host.Outcome State Fault Refusal :=
  .next (s.spelled t (.fneg t vd va c) (s.vfp1 t vd va c (fun z => fpSign z (fun n => !n))))
def execFceq (t : Nat) (pd : PReg) (va : VReg) (vb : VSrc) (c : VecCtl) (s : State) : Host.Outcome State Fault Refusal :=
  .next (s.spelled t (.fceq t pd va vb c) (s.vfcmp t pd va vb c fpEq))
def execFclt (t : Nat) (pd : PReg) (va : VReg) (vb : VSrc) (c : VecCtl) (s : State) : Host.Outcome State Fault Refusal :=
  .next (s.spelled t (.fclt t pd va vb c) (s.vfcmp t pd va vb c fpLt))
def execFcle (t : Nat) (pd : PReg) (va : VReg) (vb : VSrc) (c : VecCtl) (s : State) : Host.Outcome State Fault Refusal :=
  .next (s.spelled t (.fcle t pd va vb c) (s.vfcmp t pd va vb c fpLe))
def execFcun (t : Nat) (pd : PReg) (va : VReg) (vb : VSrc) (c : VecCtl) (s : State) : Host.Outcome State Fault Refusal :=
  .next (s.spelled t (.fcun t pd va vb c) (s.vfcmp t pd va vb c fpUn))
def execVadd (t : Nat) (vd va : VReg) (vb : VSrc) (c : VecCtl) (s : State) : Host.Outcome State Fault Refusal :=
  .next (s.spelled t (.vadd t vd va vb c) (s.vint t vd va vb c (· + ·)))
def execVsub (t : Nat) (vd va : VReg) (vb : VSrc) (c : VecCtl) (s : State) : Host.Outcome State Fault Refusal :=
  .next (s.spelled t (.vsub t vd va vb c) (s.vint t vd va vb c (· - ·)))
def execVmul (t : Nat) (vd va : VReg) (vb : VSrc) (c : VecCtl) (s : State) : Host.Outcome State Fault Refusal :=
  .next (s.spelled t (.vmul t vd va vb c) (s.vint t vd va vb c (· * ·)))
def execVmulh (t : Nat) (vd va : VReg) (vb : VSrc) (c : VecCtl) (s : State) : Host.Outcome State Fault Refusal :=
  .next (s.spelled t (.vmulh t vd va vb c) (s.vint t vd va vb c (fun a b => ((a.signExtend 64 * b.signExtend 64) >>> 32).setWidth 32)))
def execVand (t : Nat) (vd va : VReg) (vb : VSrc) (c : VecCtl) (s : State) : Host.Outcome State Fault Refusal :=
  .next (s.spelled t (.vand t vd va vb c) (s.vint t vd va vb c (· &&& ·)))
def execVor (t : Nat) (vd va : VReg) (vb : VSrc) (c : VecCtl) (s : State) : Host.Outcome State Fault Refusal :=
  .next (s.spelled t (.vor t vd va vb c) (s.vint t vd va vb c (· ||| ·)))
def execVxor (t : Nat) (vd va : VReg) (vb : VSrc) (c : VecCtl) (s : State) : Host.Outcome State Fault Refusal :=
  .next (s.spelled t (.vxor t vd va vb c) (s.vint t vd va vb c (· ^^^ ·)))
def execVshl (t : Nat) (vd va : VReg) (vb : VSrc) (c : VecCtl) (s : State) : Host.Outcome State Fault Refusal :=
  .next (s.spelled t (.vshl t vd va vb c) (s.vint t vd va vb c (fun a b => a <<< (b.toNat % 32))))
def execVshr (t : Nat) (vd va : VReg) (vb : VSrc) (c : VecCtl) (s : State) : Host.Outcome State Fault Refusal :=
  .next (s.spelled t (.vshr t vd va vb c) (s.vint t vd va vb c (fun a b => a >>> (b.toNat % 32))))
def execVsra (t : Nat) (vd va : VReg) (vb : VSrc) (c : VecCtl) (s : State) : Host.Outcome State Fault Refusal :=
  .next (s.spelled t (.vsra t vd va vb c) (s.vint t vd va vb c (fun a b => a.sshiftRight (b.toNat % 32))))
def execVmin (t : Nat) (vd va : VReg) (vb : VSrc) (c : VecCtl) (s : State) : Host.Outcome State Fault Refusal :=
  .next (s.spelled t (.vmin t vd va vb c) (s.vint t vd va vb c (fun a b => if a.slt b then a else b)))
def execVmax (t : Nat) (vd va : VReg) (vb : VSrc) (c : VecCtl) (s : State) : Host.Outcome State Fault Refusal :=
  .next (s.spelled t (.vmax t vd va vb c) (s.vint t vd va vb c (fun a b => if a.slt b then b else a)))
def execVminu (t : Nat) (vd va : VReg) (vb : VSrc) (c : VecCtl) (s : State) : Host.Outcome State Fault Refusal :=
  .next (s.spelled t (.vminu t vd va vb c) (s.vint t vd va vb c (fun a b => if a.ult b then a else b)))
def execVmaxu (t : Nat) (vd va : VReg) (vb : VSrc) (c : VecCtl) (s : State) : Host.Outcome State Fault Refusal :=
  .next (s.spelled t (.vmaxu t vd va vb c) (s.vint t vd va vb c (fun a b => if a.ult b then b else a)))
def execVceq (t : Nat) (pd : PReg) (va : VReg) (vb : VSrc) (c : VecCtl) (s : State) : Host.Outcome State Fault Refusal :=
  .next (s.spelled t (.vceq t pd va vb c) (s.vicmp t pd va vb c (fun a b => a == b)))
def execVclt (t : Nat) (pd : PReg) (va : VReg) (vb : VSrc) (c : VecCtl) (s : State) : Host.Outcome State Fault Refusal :=
  .next (s.spelled t (.vclt t pd va vb c) (s.vicmp t pd va vb c (fun a b => a.slt b)))
def execVcltu (t : Nat) (pd : PReg) (va : VReg) (vb : VSrc) (c : VecCtl) (s : State) : Host.Outcome State Fault Refusal :=
  .next (s.spelled t (.vcltu t pd va vb c) (s.vicmp t pd va vb c (fun a b => a.ult b)))

/-- R175: a governing bit of 1 takes va, of 0 takes vb; PEN must be 0. -/
def execVsel (t : Nat) (vd va : VReg) (vb : VSrc) (c : VecCtl) (s : State) : Host.Outcome State Fault Refusal :=
  .next (s.spelled t (.vsel t vd va vb c) (s.vec t (decide (c.rmode = 0) && !c.sat && !c.ftz && !c.pen && !c.pz) (VSrc.regs vb) (fun s => s.wide t (fun x =>
    x.setV vd (ofLanes (fun i => if (x.pr c.pg).getLsbD i then lane (x.vr va) i else x.src2 vb i))
      (x.vp va || x.src2Poison vb || x.pp c.pg)))))

def execVbcast (t : Nat) (vd : VReg) (ga : Reg) (c : VecCtl) (s : State) : Host.Outcome State Fault Refusal :=
  .next (s.spelled t (.vbcast t vd ga c) (s.vec t (noFp c) [ga] (fun s => s.wide t (fun x =>
    x.setV vd (x.merge c vd (fun _ => (x.gr ga).setWidth 32)) (x.mergePoison c vd (x.gp ga))))))

def execVlane (t : Nat) (vd : VReg) (c : VecCtl) (s : State) : Host.Outcome State Fault Refusal :=
  .next (s.spelled t (.vlane t vd c) (s.vec t (noFp c) [] (fun s => s.wide t (fun x =>
    x.setV vd (x.merge c vd (fun i => BitVec.ofNat 32 i)) (x.mergePoison c vd false)))))

/-- R175: gd takes the lane of va that g[gb] mod 64 names, zero-extended. -/
def execVext (t : Nat) (rd rb : Reg) (va : VReg) (s : State) : Host.Outcome State Fault Refusal :=
  .next (s.spelled t (.vext t rd rb va) (s.vec t true [rd, rb] (fun s => s.wide t (fun x =>
    x.setG rd ((lane (x.vr va) ((x.gr rb).toNat % 64)).setWidth 64) (x.vp va || x.gp rb)))))

/-- R176: every lane draws in STOCH mode, active or not; bits above the packed result are 0. -/
def execVcvt (t : Nat) (vd va : VReg) (src dst : BitVec 5) (c : VecCtl) (s : State) : Host.Outcome State Fault Refusal :=
  .next (s.spelled t (.vcvt t vd va src dst c) (s.vec t ((Rnd.ofCode c.rmode).isSome && VecCtl.predOk c) [] (fun s =>
    match Rnd.ofCode c.rmode, vcvtFormat src, vcvtFormat dst with
    | some mode, some a, some b =>
      let x := s.tile t
      let xs := (List.range 64).map (vcvtSrc a c.ftz (x.vr va))
      let r := encodeAll b ⟨mode, c.sat, c.ftz, Config.tinyAfterRounding⟩ x.lfsr xs
      let s := s.raise t c (r.2.map (fun e => (e.2, false)))
      let w := b.width
      let codes := r.2.zipIdx.map (fun e =>
        if x.active c e.2 then e.1.1 else if c.pz then 0 else bits (x.vr vd).toNat (w * e.2) w)
      s.wide t (fun x => ({ x with lfsr := r.1 }).setV vd (BitVec.ofNat 2048 (packBits w codes)) (x.mergePoison c vd (x.vp va)))
    | _, _, _ => s.trap t .illegalFormat none)))

def execVperm (t : Nat) (vd va vb : VReg) (c : VecCtl) (s : State) : Host.Outcome State Fault Refusal :=
  .next (s.spelled t (.vperm t vd va vb c) (s.vec t (noFp c) [] (fun s => s.wide t (fun x =>
    x.setV vd (x.merge c vd (fun i => lane (x.vr va) ((lane (x.vr vb) i).toNat % 64)))
      (x.mergePoison c vd (x.vp va || x.vp vb))))))

/-- R177: an inactive lane contributes −0. -/
def execVredFadd (t : Nat) (rd : Reg) (va : VReg) (c : VecCtl) (s : State) : Host.Outcome State Fault Refusal :=
  .next (s.spelled t (.vredFadd t rd va c) (s.vredF t rd va c 0x80000000 fpAdd))

/-- R177: an inactive lane contributes −Inf. -/
def execVredFmax (t : Nat) (rd : Reg) (va : VReg) (c : VecCtl) (s : State) : Host.Outcome State Fault Refusal :=
  .next (s.spelled t (.vredFmax t rd va c) (s.vredF t rd va c 0xFF800000 fpMax))

/-- R175, R177: the wraparound sum of the active lanes; bits [63:32] of gd are 0 (DESIGN CHOICE, assumption 73). -/
def execVredAdd (t : Nat) (rd : Reg) (va : VReg) (c : VecCtl) (s : State) : Host.Outcome State Fault Refusal :=
  .next (s.spelled t (.vredAdd t rd va c) (s.vec t (noFp c && !c.pz) [rd] (fun s => s.wide t (fun x =>
    let ls := (List.range 64).map (fun i => if x.active c i then lane (x.vr va) i else 0)
    x.setG rd ((treeFold (· + ·) 0 6 ls).setWidth 64) (x.vp va || (c.pen && x.pp c.pg))))))

/-- R175, R177: the signed maximum of the active lanes, bits [63:32] of gd 0 (DESIGN CHOICE, assumption 73); with none active the spec
states no result. -/
def execVredMax (t : Nat) (rd : Reg) (va : VReg) (c : VecCtl) (s : State) : Host.Outcome State Fault Refusal :=
  .next (s.spelled t (.vredMax t rd va c) (s.vec t (noFp c && !c.pz) [rd] (fun s =>
    let x := s.tile t
    let p := x.vp va || (c.pen && x.pp c.pg)
    if (List.range 64).any (x.active c) then
      s.wide t (fun x =>
        let ls := (List.range 64).map (fun i => if x.active c i then lane (x.vr va) i else 0x80000000)
        x.setG rd ((treeFold (fun a b => if a.slt b then b else a) 0 6 ls).setWidth 64) p)
    else (s.wide t (fun x => x.setG rd (s.openWord &&& 0xFFFFFFFF) p)).used)))

def execPand (t : Nat) (pd pa pb : PReg) (c : VecCtl) (s : State) : Host.Outcome State Fault Refusal := .next (s.spelled t (.pand t pd pa pb c) (s.pred t pd pa pb c (· &&& ·)))
def execPor (t : Nat) (pd pa pb : PReg) (c : VecCtl) (s : State) : Host.Outcome State Fault Refusal := .next (s.spelled t (.por t pd pa pb c) (s.pred t pd pa pb c (· ||| ·)))
def execPxor (t : Nat) (pd pa pb : PReg) (c : VecCtl) (s : State) : Host.Outcome State Fault Refusal := .next (s.spelled t (.pxor t pd pa pb c) (s.pred t pd pa pb c (· ^^^ ·)))
/-- p[VB] is the operand that is complemented (DESIGN CHOICE, assumption 73). -/
def execPandn (t : Nat) (pd pa pb : PReg) (c : VecCtl) (s : State) : Host.Outcome State Fault Refusal :=
  .next (s.spelled t (.pandn t pd pa pb c) (s.pred t pd pa pb c (fun a b => a &&& ~~~b)))
def execPnot (t : Nat) (pd pa : PReg) (c : VecCtl) (s : State) : Host.Outcome State Fault Refusal :=
  .next (s.spelled t (.pnot t pd pa c) (s.pred t pd pa pa c (fun a _ => ~~~a)))
def execPfromg (t : Nat) (pd : PReg) (ga : Reg) (c : VecCtl) (s : State) : Host.Outcome State Fault Refusal :=
  .next (s.spelled t (.pfromg t pd ga c) (s.vec t (noFp c) [ga] (fun s => s.wide t (fun x => x.setCmp c pd (x.gp ga) (fun i => (x.gr ga).getLsbD i)))))
def execPtog (t : Nat) (rd : Reg) (pa : PReg) (s : State) : Host.Outcome State Fault Refusal :=
  .next (s.spelled t (.ptog t rd pa) (s.vec t true [rd] (fun s => s.wide t (fun x => x.setG rd (x.pr pa) (x.pp pa)))))
def execPcnt (t : Nat) (rd : Reg) (pa : PReg) (s : State) : Host.Outcome State Fault Refusal :=
  .next (s.spelled t (.pcnt t rd pa) (s.vec t true [rd] (fun s => s.wide t (fun x =>
    x.setG rd (BitVec.ofNat 64 ((List.range 64).filter (fun i => (x.pr pa).getLsbD i)).length) (x.pp pa)))))

def execVld (t : Nat) (vd : VReg) (ga : Reg) (c : VecCtl) (ecc : TileEcc) (s : State) : Host.Outcome State Fault Refusal :=
  .next (s.spelled t (.vld t vd ga c ecc) (s.vmem t c [ga] false ecc (fun x i => x.gr ga + BitVec.ofNat 64 (4 * i)) (vmemLoad vd c)))
def execVst (t : Nat) (va : VReg) (ga : Reg) (c : VecCtl) (s : State) : Host.Outcome State Fault Refusal :=
  .next (s.spelled t (.vst t va ga c) (s.vmem t c [ga] true .clean (fun x i => x.gr ga + BitVec.ofNat 64 (4 * i)) (vmemStore va c)))
def execVlds (t : Nat) (vd : VReg) (ga gb : Reg) (c : VecCtl) (ecc : TileEcc) (s : State) : Host.Outcome State Fault Refusal :=
  .next (s.spelled t (.vlds t vd ga gb c ecc) (s.vmem t c [ga, gb] false ecc (fun x i => x.gr ga + BitVec.ofNat 64 i * x.gr gb) (vmemLoad vd c)))
def execVsts (t : Nat) (va : VReg) (ga gb : Reg) (c : VecCtl) (s : State) : Host.Outcome State Fault Refusal :=
  .next (s.spelled t (.vsts t va ga gb c) (s.vmem t c [ga, gb] true .clean (fun x i => x.gr ga + BitVec.ofNat 64 i * x.gr gb) (vmemStore va c)))
def execVgather (t : Nat) (vd va : VReg) (ga : Reg) (c : VecCtl) (ecc : TileEcc) (s : State) : Host.Outcome State Fault Refusal :=
  .next (s.spelled t (.vgather t vd va ga c ecc) (s.vmem t c [ga] false ecc (fun x i => x.gr ga + gatherOff (lane (x.vr va) i)) (vmemLoad vd c)))

/-- `vscatter` stores the lanes of the register VD names to g[ga] + va[i] (R178). -/
def execVscatter (t : Nat) (vd va : VReg) (ga : Reg) (c : VecCtl) (s : State) : Host.Outcome State Fault Refusal :=
  .next (s.spelled t (.vscatter t vd va ga c) (s.vmem t c [ga] true .clean (fun x i => x.gr ga + gatherOff (lane (x.vr va) i)) (vmemStore vd c)))

end Sys2Proof.Machine
end

