-- ==== Sys2Proof/Machine/Dispatch.lean ====
section
/-! DEFINITION. One arm per command. -/

namespace Sys2Proof.Machine

def exec (i : Instr) (s : State) : Host.Outcome State Fault Refusal :=
  match i with
  | .laneCrcFail l => Sys2Proof.Machine.execLaneCrcFail l s
  | .laneSwap l => Sys2Proof.Machine.execLaneSwap l s
  | .linkReplayTimeout q path => Sys2Proof.Machine.execLinkReplayTimeout q path s
  | .routeDetour q path => Sys2Proof.Machine.execRouteDetour q path s
  | .loadStrata => Sys2Proof.Machine.execLoadStrata s
  | .strataStaged fetch f => Sys2Proof.Machine.execStrataStaged fetch f s
  | .strataLoadDone => Sys2Proof.Machine.execStrataLoadDone s
  | .launch k => Sys2Proof.Machine.execLaunch k s
  | .launchDispatch k => Sys2Proof.Machine.execLaunchDispatch k s
  | .stableRegionFilled t f => Sys2Proof.Machine.execStableRegionFilled t f s
  | .mmaStart t => Sys2Proof.Machine.execMmaStart t s
  | .mmaComplete t ecc => Sys2Proof.Machine.execMmaComplete t ecc s
  | .tmoveComplete t slot host => Sys2Proof.Machine.execTmoveComplete t slot host s
  | .checkpointDone t ck => Sys2Proof.Machine.execCheckpointDone t ck s
  | .unitCycleLimit t => Sys2Proof.Machine.execUnitCycleLimit t s
  | .tileDatapathFault t => Sys2Proof.Machine.execTileDatapathFault t s
  | .tileReplayStart t ck f => Sys2Proof.Machine.execTileReplayStart t ck f s
  | .tileClockGate t u => Sys2Proof.Machine.execTileClockGate t u s
  | .waitWatchdog w => Sys2Proof.Machine.execWaitWatchdog w s
  | .add t rd ra rb => Sys2Proof.Machine.execAdd t rd ra rb s
  | .sub t rd ra rb => Sys2Proof.Machine.execSub t rd ra rb s
  | .and t rd ra rb => Sys2Proof.Machine.execAnd t rd ra rb s
  | .or t rd ra rb => Sys2Proof.Machine.execOr t rd ra rb s
  | .xor t rd ra rb => Sys2Proof.Machine.execXor t rd ra rb s
  | .sll t rd ra rb => Sys2Proof.Machine.execSll t rd ra rb s
  | .srl t rd ra rb => Sys2Proof.Machine.execSrl t rd ra rb s
  | .sra t rd ra rb => Sys2Proof.Machine.execSra t rd ra rb s
  | .slt t rd ra rb => Sys2Proof.Machine.execSlt t rd ra rb s
  | .sltu t rd ra rb => Sys2Proof.Machine.execSltu t rd ra rb s
  | .min t rd ra rb => Sys2Proof.Machine.execMin t rd ra rb s
  | .max t rd ra rb => Sys2Proof.Machine.execMax t rd ra rb s
  | .minu t rd ra rb => Sys2Proof.Machine.execMinu t rd ra rb s
  | .maxu t rd ra rb => Sys2Proof.Machine.execMaxu t rd ra rb s
  | .mul t rd ra rb => Sys2Proof.Machine.execMul t rd ra rb s
  | .mulh t rd ra rb => Sys2Proof.Machine.execMulh t rd ra rb s
  | .mulhu t rd ra rb => Sys2Proof.Machine.execMulhu t rd ra rb s
  | .div t rd ra rb => Sys2Proof.Machine.execDiv t rd ra rb s
  | .divu t rd ra rb => Sys2Proof.Machine.execDivu t rd ra rb s
  | .rem t rd ra rb => Sys2Proof.Machine.execRem t rd ra rb s
  | .remu t rd ra rb => Sys2Proof.Machine.execRemu t rd ra rb s
  | .clz t rd ra => Sys2Proof.Machine.execClz t rd ra s
  | .ctz t rd ra => Sys2Proof.Machine.execCtz t rd ra s
  | .cpop t rd ra => Sys2Proof.Machine.execCpop t rd ra s
  | .addi t rd ra imm => Sys2Proof.Machine.execAddi t rd ra imm s
  | .andi t rd ra imm => Sys2Proof.Machine.execAndi t rd ra imm s
  | .ori t rd ra imm => Sys2Proof.Machine.execOri t rd ra imm s
  | .xori t rd ra imm => Sys2Proof.Machine.execXori t rd ra imm s
  | .slli t rd ra imm => Sys2Proof.Machine.execSlli t rd ra imm s
  | .srli t rd ra imm => Sys2Proof.Machine.execSrli t rd ra imm s
  | .srai t rd ra imm => Sys2Proof.Machine.execSrai t rd ra imm s
  | .slti t rd ra imm => Sys2Proof.Machine.execSlti t rd ra imm s
  | .sltiu t rd ra imm => Sys2Proof.Machine.execSltiu t rd ra imm s
  | .shins t rd ra imm => Sys2Proof.Machine.execShins t rd ra imm s
  | .beq t ra rb off => Sys2Proof.Machine.execBeq t ra rb off s
  | .bne t ra rb off => Sys2Proof.Machine.execBne t ra rb off s
  | .blt t ra rb off => Sys2Proof.Machine.execBlt t ra rb off s
  | .bge t ra rb off => Sys2Proof.Machine.execBge t ra rb off s
  | .bltu t ra rb off => Sys2Proof.Machine.execBltu t ra rb off s
  | .bgeu t ra rb off => Sys2Proof.Machine.execBgeu t ra rb off s
  | .jal t rd off => Sys2Proof.Machine.execJal t rd off s
  | .jalr t rd ra off => Sys2Proof.Machine.execJalr t rd ra off s
  | .load t rd ra m off parity ecc => Sys2Proof.Machine.execLoad t rd ra m off parity ecc s
  | .store t rb ra m off parity => Sys2Proof.Machine.execStore t rb ra m off parity s
  | .lr t rd ra m ecc par => Sys2Proof.Machine.execLr t rd ra m ecc par s
  | .sc t rd ra rb m par => Sys2Proof.Machine.execSc t rd ra rb m par s
  | .amoAdd t rd ra rb m ecc par => Sys2Proof.Machine.execAmoAdd t rd ra rb m ecc par s
  | .amoSwap t rd ra rb m ecc par => Sys2Proof.Machine.execAmoSwap t rd ra rb m ecc par s
  | .amoCas t rd ra rb m ecc par => Sys2Proof.Machine.execAmoCas t rd ra rb m ecc par s
  | .ldfence t => Sys2Proof.Machine.execLdfence t s
  | .stfence t => Sys2Proof.Machine.execStfence t s
  | .fullfence t par => Sys2Proof.Machine.execFullfence t par s
  | .csrr t rd csr => Sys2Proof.Machine.execCsrr t rd csr s
  | .csrw t ra csr => Sys2Proof.Machine.execCsrw t ra csr s
  | .commit t files => Sys2Proof.Machine.execCommit t files s
  | .yield t files => Sys2Proof.Machine.execYield t files s
  | .halt t par => Sys2Proof.Machine.execHalt t par s
  | .trap t code => Sys2Proof.Machine.execTrap t code s
  | .fadd t vd va vb c => Sys2Proof.Machine.execFadd t vd va vb c s
  | .fsub t vd va vb c => Sys2Proof.Machine.execFsub t vd va vb c s
  | .fmul t vd va vb c => Sys2Proof.Machine.execFmul t vd va vb c s
  | .ffma t vd va vb vc c => Sys2Proof.Machine.execFfma t vd va vb vc c s
  | .ffms t vd va vb vc c => Sys2Proof.Machine.execFfms t vd va vb vc c s
  | .fnfma t vd va vb vc c => Sys2Proof.Machine.execFnfma t vd va vb vc c s
  | .fmin t vd va vb c => Sys2Proof.Machine.execFmin t vd va vb c s
  | .fmax t vd va vb c => Sys2Proof.Machine.execFmax t vd va vb c s
  | .fsqrt t vd va c => Sys2Proof.Machine.execFsqrt t vd va c s
  | .fabs t vd va c => Sys2Proof.Machine.execFabs t vd va c s
  | .fneg t vd va c => Sys2Proof.Machine.execFneg t vd va c s
  | .fceq t pd va vb c => Sys2Proof.Machine.execFceq t pd va vb c s
  | .fclt t pd va vb c => Sys2Proof.Machine.execFclt t pd va vb c s
  | .fcle t pd va vb c => Sys2Proof.Machine.execFcle t pd va vb c s
  | .fcun t pd va vb c => Sys2Proof.Machine.execFcun t pd va vb c s
  | .vadd t vd va vb c => Sys2Proof.Machine.execVadd t vd va vb c s
  | .vsub t vd va vb c => Sys2Proof.Machine.execVsub t vd va vb c s
  | .vmul t vd va vb c => Sys2Proof.Machine.execVmul t vd va vb c s
  | .vmulh t vd va vb c => Sys2Proof.Machine.execVmulh t vd va vb c s
  | .vand t vd va vb c => Sys2Proof.Machine.execVand t vd va vb c s
  | .vor t vd va vb c => Sys2Proof.Machine.execVor t vd va vb c s
  | .vxor t vd va vb c => Sys2Proof.Machine.execVxor t vd va vb c s
  | .vshl t vd va vb c => Sys2Proof.Machine.execVshl t vd va vb c s
  | .vshr t vd va vb c => Sys2Proof.Machine.execVshr t vd va vb c s
  | .vsra t vd va vb c => Sys2Proof.Machine.execVsra t vd va vb c s
  | .vmin t vd va vb c => Sys2Proof.Machine.execVmin t vd va vb c s
  | .vmax t vd va vb c => Sys2Proof.Machine.execVmax t vd va vb c s
  | .vminu t vd va vb c => Sys2Proof.Machine.execVminu t vd va vb c s
  | .vmaxu t vd va vb c => Sys2Proof.Machine.execVmaxu t vd va vb c s
  | .vceq t pd va vb c => Sys2Proof.Machine.execVceq t pd va vb c s
  | .vclt t pd va vb c => Sys2Proof.Machine.execVclt t pd va vb c s
  | .vcltu t pd va vb c => Sys2Proof.Machine.execVcltu t pd va vb c s
  | .vsel t vd va vb c => Sys2Proof.Machine.execVsel t vd va vb c s
  | .vbcast t vd ga c => Sys2Proof.Machine.execVbcast t vd ga c s
  | .vlane t vd c => Sys2Proof.Machine.execVlane t vd c s
  | .vext t rd rb va => Sys2Proof.Machine.execVext t rd rb va s
  | .vcvt t vd va src dst c => Sys2Proof.Machine.execVcvt t vd va src dst c s
  | .vperm t vd va vb c => Sys2Proof.Machine.execVperm t vd va vb c s
  | .vredFadd t rd va c => Sys2Proof.Machine.execVredFadd t rd va c s
  | .vredFmax t rd va c => Sys2Proof.Machine.execVredFmax t rd va c s
  | .vredAdd t rd va c => Sys2Proof.Machine.execVredAdd t rd va c s
  | .vredMax t rd va c => Sys2Proof.Machine.execVredMax t rd va c s
  | .pand t pd pa pb c => Sys2Proof.Machine.execPand t pd pa pb c s
  | .por t pd pa pb c => Sys2Proof.Machine.execPor t pd pa pb c s
  | .pxor t pd pa pb c => Sys2Proof.Machine.execPxor t pd pa pb c s
  | .pandn t pd pa pb c => Sys2Proof.Machine.execPandn t pd pa pb c s
  | .pnot t pd pa c => Sys2Proof.Machine.execPnot t pd pa c s
  | .pfromg t pd ga c => Sys2Proof.Machine.execPfromg t pd ga c s
  | .ptog t rd pa => Sys2Proof.Machine.execPtog t rd pa s
  | .pcnt t rd pa => Sys2Proof.Machine.execPcnt t rd pa s
  | .vld t vd ga c ecc => Sys2Proof.Machine.execVld t vd ga c ecc s
  | .vst t va ga c => Sys2Proof.Machine.execVst t va ga c s
  | .vlds t vd ga gb c ecc => Sys2Proof.Machine.execVlds t vd ga gb c ecc s
  | .vsts t va ga gb c => Sys2Proof.Machine.execVsts t va ga gb c s
  | .vgather t vd va ga c ecc => Sys2Proof.Machine.execVgather t vd va ga c ecc s
  | .vscatter t vd va ga c => Sys2Proof.Machine.execVscatter t vd va ga c s
  | .mma t ga gb m => Sys2Proof.Machine.execMma t ga gb m s
  | .mmaSp t ga gb m => Sys2Proof.Machine.execMmaSp t ga gb m s
  | .accAnchor t acc fp32 anchor => Sys2Proof.Machine.execAccAnchor t acc fp32 anchor s
  | .accLoad t ga acc addTo ecc => Sys2Proof.Machine.execAccLoad t ga acc addTo ecc s
  | .accStore t ga acc => Sys2Proof.Machine.execAccStore t ga acc s
  | .accCvt t ga gb m => Sys2Proof.Machine.execAccCvt t ga gb m s
  | .accWait t files => Sys2Proof.Machine.execAccWait t files s
  | .tmove t ga m ecc f par => Sys2Proof.Machine.execTmove t ga m ecc f par s
  | .micaGemv t ga lc ecc par => Sys2Proof.Machine.execMicaGemv t ga lc ecc par s
  | .feFill t ga gb m par => Sys2Proof.Machine.execFeFill t ga gb m par s
  | .feTake t rd ga m ecc => Sys2Proof.Machine.execFeTake t rd ga m ecc s
  | .fePeek t rd ga m ecc => Sys2Proof.Machine.execFePeek t rd ga m ecc s
  | .sigAdd t ga gb m par => Sys2Proof.Machine.execSigAdd t ga gb m par s
  | .sigSub t ga gb m par => Sys2Proof.Machine.execSigSub t ga gb m par s
  | .sigWait t rd ga gb m => Sys2Proof.Machine.execSigWait t rd ga gb m s
  | .barArrive t rd ga m par => Sys2Proof.Machine.execBarArrive t rd ga m par s
  | .barWait t ga gb m => Sys2Proof.Machine.execBarWait t ga gb m s
  | .lcWait t lc gb => Sys2Proof.Machine.execLcWait t lc gb s
  | .micaStreamStart stack f => Sys2Proof.Machine.execMicaStreamStart stack f s
  | .micaBlockSum id row f => Sys2Proof.Machine.execMicaBlockSum id row f s
  | .micaCommandComplete id f => Sys2Proof.Machine.execMicaCommandComplete id f s
  | .micaResidueFail stack bank row => Sys2Proof.Machine.execMicaResidueFail stack bank row s
  | .dramRefresh stack bank => Sys2Proof.Machine.execDramRefresh stack bank s
  | .bankSwitch stack bank died lost => Sys2Proof.Machine.execBankSwitch stack bank died lost s
  | .queueMicaGemv k => Sys2Proof.Machine.execQueueMicaGemv k s
  | .cacheEnable c => Sys2Proof.Machine.execCacheEnable c s
  | .cacheDisable c par => Sys2Proof.Machine.execCacheDisable c par s
  | .cacheInvalidateAll c par => Sys2Proof.Machine.execCacheInvalidateAll c par s
  | .cacheFillData t host parity => Sys2Proof.Machine.execCacheFillData t host parity s
  | .icacheFill t va parityBad f => Sys2Proof.Machine.execIcacheFill t va parityBad f s
  | .cleanOffer t sector => Sys2Proof.Machine.execCleanOffer t sector s
  | .waySpareSwap quarry slice way directory => Sys2Proof.Machine.execWaySpareSwap quarry slice way directory s
  | .patrolScrub addr ecc words => Sys2Proof.Machine.execPatrolScrub addr ecc words s
  | .rowRepair stack bank row => Sys2Proof.Machine.execRowRepair stack bank row s
  | .granuleTagChange g => Sys2Proof.Machine.execGranuleTagChange g s
  | .translationCompletion req r => Sys2Proof.Machine.execTranslationCompletion req r s
  | .prgResponse slot r => Sys2Proof.Machine.execPrgResponse slot r s
  | .priTimeout slot => Sys2Proof.Machine.execPriTimeout slot s
  | .atsInvalidation pasid => Sys2Proof.Machine.execAtsInvalidation pasid s
  | .invalidationCompletion => Sys2Proof.Machine.execInvalidationCompletion s
  | .invalidationDrainTimeout => Sys2Proof.Machine.execInvalidationDrainTimeout s
  | .prefetchXlat k => Sys2Proof.Machine.execPrefetchXlat k s
  | .adviseWillNeed k => Sys2Proof.Machine.execAdviseWillNeed k s
  | .adviseWillNotNeed k => Sys2Proof.Machine.execAdviseWillNotNeed k s
  | .preferDevice k host => Sys2Proof.Machine.execPreferDevice k host s
  | .preferHost k f => Sys2Proof.Machine.execPreferHost k f s
  | .homeRead id f => Sys2Proof.Machine.execHomeRead id f s
  | .homeReadOwnership id f => Sys2Proof.Machine.execHomeReadOwnership id f s
  | .homeWrite id f => Sys2Proof.Machine.execHomeWrite id f s
  | .homeWriteBack id f => Sys2Proof.Machine.execHomeWriteBack id f s
  | .homeNonallocRead id f => Sys2Proof.Machine.execHomeNonallocRead id f s
  | .homeLr id f => Sys2Proof.Machine.execHomeLr id f s
  | .homeSc id f => Sys2Proof.Machine.execHomeSc id f s
  | .homeAmo id f => Sys2Proof.Machine.execHomeAmo id f s
  | .snpInv agent txn parity => Sys2Proof.Machine.execSnpInv agent txn parity s
  | .snpShr agent txn parity => Sys2Proof.Machine.execSnpShr agent txn parity s
  | .snpCur agent txn parity => Sys2Proof.Machine.execSnpCur agent txn parity s
  | .snoopResponse txn agent a => Sys2Proof.Machine.execSnoopResponse txn agent a s
  | .snoopTimeout txn agent => Sys2Proof.Machine.execSnoopTimeout txn agent s
  | .stashDelivery t sector => Sys2Proof.Machine.execStashDelivery t sector s
  | .stashDropNotice t sector => Sys2Proof.Machine.execStashDropNotice t sector s
  | .reservationLockTimeout granule => Sys2Proof.Machine.execReservationLockTimeout granule s
  | .hostSnoop hpa invalidate => Sys2Proof.Machine.execHostSnoop hpa invalidate s
  | .hostGo id => Sys2Proof.Machine.execHostGo id s
  | .hostCxlmemRequest hpa len wr poisoned own => Sys2Proof.Machine.execHostCxlmemRequest hpa len wr poisoned own s
  | .biResponse txn wb hostKeepsShared => Sys2Proof.Machine.execBiResponse txn wb hostKeepsShared s
  | .memoryResponse id => Sys2Proof.Machine.execMemoryResponse id s
  | .taskCompletion k => Sys2Proof.Machine.execTaskCompletion k s
  | .completionInterrupt k => Sys2Proof.Machine.execCompletionInterrupt k s
  | .flintHomeAdd id => Sys2Proof.Machine.execFlintHomeAdd id s
  | .flintHomeSub id => Sys2Proof.Machine.execFlintHomeSub id s
  | .flintHomeArrival id => Sys2Proof.Machine.execFlintHomeArrival id s
  | .flintHomeRelease id => Sys2Proof.Machine.execFlintHomeRelease id s
  | .flintWaitRegister id => Sys2Proof.Machine.execFlintWaitRegister id s
  | .childListRead obj f => Sys2Proof.Machine.execChildListRead obj f s
  | .feHomeFill id f => Sys2Proof.Machine.execFeHomeFill id f s
  | .feHomeTake id f => Sys2Proof.Machine.execFeHomeTake id f s
  | .feHomePeek id f => Sys2Proof.Machine.execFeHomePeek id f s
  | .flintWake id => Sys2Proof.Machine.execFlintWake id s
  | .flintWinAdd obj v m => Sys2Proof.Machine.execFlintWinAdd obj v m s
  | .flintWinSub obj v m => Sys2Proof.Machine.execFlintWinSub obj v m s
  | .flintWinArrive obj m => Sys2Proof.Machine.execFlintWinArrive obj m s
  | .flintWinClear obj v m => Sys2Proof.Machine.execFlintWinClear obj v m s
  | .feWinFill slot v m => Sys2Proof.Machine.execFeWinFill slot v m s
  | .feWinTake slot pasid f => Sys2Proof.Machine.execFeWinTake slot pasid f s
  | .contextRestore c f => Sys2Proof.Machine.execContextRestore c f s
  | .flintSliceFault quarry => Sys2Proof.Machine.execFlintSliceFault quarry s
  | .workDoorbell off width v m => Sys2Proof.Machine.execWorkDoorbell off width v m s
  | .admqDoorbell w v => Sys2Proof.Machine.execAdmqDoorbell w v s
  | .admqBase w v => Sys2Proof.Machine.execAdmqBase w v s
  | .admqSize w v => Sys2Proof.Machine.execAdmqSize w v s
  | .entryFetch q => Sys2Proof.Machine.execEntryFetch q s
  | .entryFetched q host f => Sys2Proof.Machine.execEntryFetched q host f s
  | .ownStallRetry q => Sys2Proof.Machine.execOwnStallRetry q s
  | .entryDispatch k => Sys2Proof.Machine.execEntryDispatch k s
  | .deadlineMiss k => Sys2Proof.Machine.execDeadlineMiss k s
  | .nop k => Sys2Proof.Machine.execNop k s
  | .copy k => Sys2Proof.Machine.execCopy k s
  | .copyInline k => Sys2Proof.Machine.execCopyInline k s
  | .fill k => Sys2Proof.Machine.execFill k s
  | .copyComplete k host f => Sys2Proof.Machine.execCopyComplete k host f s
  | .signalAdd k => Sys2Proof.Machine.execSignalAdd k s
  | .signalSub k => Sys2Proof.Machine.execSignalSub k s
  | .signalConfigure k => Sys2Proof.Machine.execSignalConfigure k s
  | .signalFree k => Sys2Proof.Machine.execSignalFree k s
  | .wait k => Sys2Proof.Machine.execWait k s
  | .barrierArrive k => Sys2Proof.Machine.execBarrierArrive k s
  | .flush k t par => Sys2Proof.Machine.execFlush k t par s
  | .fence k => Sys2Proof.Machine.execFence k s
  | .timestamp k => Sys2Proof.Machine.execTimestamp k s
  | .createQueue => Sys2Proof.Machine.execCreateQueue s
  | .destroyQueue => Sys2Proof.Machine.execDestroyQueue s
  | .resetQueue => Sys2Proof.Machine.execResetQueue s
  | .abortQueue => Sys2Proof.Machine.execAbortQueue s
  | .createContext => Sys2Proof.Machine.execCreateContext s
  | .destroyContext => Sys2Proof.Machine.execDestroyContext s
  | .evictContext => Sys2Proof.Machine.execEvictContext s
  | .setSegment => Sys2Proof.Machine.execSetSegment s
  | .setPowerCap => Sys2Proof.Machine.execSetPowerCap s
  | .selfTest failed => Sys2Proof.Machine.execSelfTest failed s
  | .dumpSyncState => Sys2Proof.Machine.execDumpSyncState s
  | .assignDeviceNumber => Sys2Proof.Machine.execAssignDeviceNumber s
  | .sleep => Sys2Proof.Machine.execSleep s
  | .copyChunkCrcFail k engine => Sys2Proof.Machine.execCopyChunkCrcFail k engine s
  | .flr => Sys2Proof.Machine.execFlr s
  | .hotReset => Sys2Proof.Machine.execHotReset s
  | .fundamentalReset b => Sys2Proof.Machine.execFundamentalReset b s
  | .d3hotWrite => Sys2Proof.Machine.execD3hotWrite s
  | .d0Write => Sys2Proof.Machine.execD0Write s
  | .bar4Resize log2Bytes => Sys2Proof.Machine.execBar4Resize log2Bytes s
  | .hdmDecoderCommit base size ways lock => Sys2Proof.Machine.execHdmDecoderCommit base size ways lock s
  | .cacheWritebackInvalidate => Sys2Proof.Machine.execCacheWritebackInvalidate s
  | .msixUnmask vector => Sys2Proof.Machine.execMsixUnmask vector s
  | .bar4Read off len pasid => Sys2Proof.Machine.execBar4Read off len pasid s
  | .bar4Write off bytes m steer => Sys2Proof.Machine.execBar4Write off bytes m steer s
  | .bar4Atomic off size64 swap cas v pasid => Sys2Proof.Machine.execBar4Atomic off size64 swap cas v pasid s
  | .completionTimeout id => Sys2Proof.Machine.execCompletionTimeout id s
  | .cxlioReadCompletion id d => Sys2Proof.Machine.execCxlioReadCompletion id d s
  | .aspmL1Entry => Sys2Proof.Machine.execAspmL1Entry s
  | .doeDiscovery index => Sys2Proof.Machine.execDoeDiscovery index s
  | .cdatRead entry => Sys2Proof.Machine.execCdatRead entry s
  | .getVersion => Sys2Proof.Machine.execGetVersion s
  | .getCapabilities => Sys2Proof.Machine.execGetCapabilities s
  | .negotiateAlgorithms => Sys2Proof.Machine.execNegotiateAlgorithms s
  | .getDigests => Sys2Proof.Machine.execGetDigests s
  | .getCertificate slot off len => Sys2Proof.Machine.execGetCertificate slot off len s
  | .challenge nonce => Sys2Proof.Machine.execChallenge nonce s
  | .getMeasurements index => Sys2Proof.Machine.execGetMeasurements index s
  | .devtabInvalidateOne w device => Sys2Proof.Machine.execDevtabInvalidateOne w device s
  | .devtabInvalidateAll w => Sys2Proof.Machine.execDevtabInvalidateAll w s
  | .fabDevtabBase w v => Sys2Proof.Machine.execFabDevtabBase w v s
  | .devtabFill device f => Sys2Proof.Machine.execDevtabFill device f s
  | .inboundPut h addr bytes poison stash => Sys2Proof.Machine.execInboundPut h addr bytes poison stash s
  | .inboundGet h addr len => Sys2Proof.Machine.execInboundGet h addr len s
  | .inboundAtomic h addr cas v => Sys2Proof.Machine.execInboundAtomic h addr cas v s
  | .inboundSignal h obj subtract amount => Sys2Proof.Machine.execInboundSignal h obj subtract amount s
  | .inboundArrival h obj => Sys2Proof.Machine.execInboundArrival h obj s
  | .inboundRelease h obj => Sys2Proof.Machine.execInboundRelease h obj s
  | .inboundFill h addr v => Sys2Proof.Machine.execInboundFill h addr v s
  | .packetCommit channel id => Sys2Proof.Machine.execPacketCommit channel id s
  | .fabricResponse id code bytes poison => Sys2Proof.Machine.execFabricResponse id code bytes poison s
  | .creditGrant channel requests responses => Sys2Proof.Machine.execCreditGrant channel requests responses s
  | .qpTimeout device => Sys2Proof.Machine.execQpTimeout device s
  | .qpAuthFailed device => Sys2Proof.Machine.execQpAuthFailed device s
  | .wakePacket => Sys2Proof.Machine.execWakePacket s
  | .pwrFset w v => Sys2Proof.Machine.execPwrFset w v s
  | .pwrCapOwner w v => Sys2Proof.Machine.execPwrCapOwner w v s
  | .rackCapSet watts => Sys2Proof.Machine.execRackCapSet watts s
  | .freqChangeDone quarry => Sys2Proof.Machine.execFreqChangeDone quarry s
  | .boostStep quarry nextStepWatts => Sys2Proof.Machine.execBoostStep quarry nextStepWatts s
  | .voltageTrim quarry marginMv => Sys2Proof.Machine.execVoltageTrim quarry marginMv s
  | .droopDetect quarry => Sys2Proof.Machine.execDroopDetect quarry s
  | .stretchEnd quarry => Sys2Proof.Machine.execStretchEnd quarry s
  | .currentLimitStep quarry averageMilliAmps => Sys2Proof.Machine.execCurrentLimitStep quarry averageMilliAmps s
  | .vralertAssert => Sys2Proof.Machine.execVralertAssert s
  | .vralertDeassert => Sys2Proof.Machine.execVralertDeassert s
  | .alertFloorRelease => Sys2Proof.Machine.execAlertFloorRelease s
  | .powerGrantInterval fixed items => Sys2Proof.Machine.execPowerGrantInterval fixed items s
  | .powerModelCalibrate measuredWatts => Sys2Proof.Machine.execPowerModelCalibrate measuredWatts s
  | .energyUpdate counts measuredMicroJ => Sys2Proof.Machine.execEnergyUpdate counts measuredMicroJ s
  | .thermalSample readings => Sys2Proof.Machine.execThermalSample readings s
  | .thermalLimitStep quarry => Sys2Proof.Machine.execThermalLimitStep quarry s
  | .sleepEntry => Sys2Proof.Machine.execSleepEntry s
  | .wake => Sys2Proof.Machine.execWake s
  | .wakeNAssert => Sys2Proof.Machine.execWakeNAssert s
  | .pldmWake => Sys2Proof.Machine.execPldmWake s
  | .wakeComplete => Sys2Proof.Machine.execWakeComplete s
  | .heartbeat => Sys2Proof.Machine.execHeartbeat s
  | .quartzTakeover => Sys2Proof.Machine.execQuartzTakeover s
  | .pllFault quarry kiloHertz => Sys2Proof.Machine.execPllFault quarry kiloHertz s
  | .memorySideCrcFail t second => Sys2Proof.Machine.execMemorySideCrcFail t second s
  | .tileRetire t deficitMv => Sys2Proof.Machine.execTileRetire t deficitMv s
  | .rotationStep quarry => Sys2Proof.Machine.execRotationStep quarry s
  | .spareTest u => Sys2Proof.Machine.execSpareTest u s
  | .unitTestDone u passed ticks => Sys2Proof.Machine.execUnitTestDone u passed ticks s
  | .calibrationCheck l temp milliAmps => Sys2Proof.Machine.execCalibrationCheck l temp milliAmps s
  | .laneRetrain l temp milliAmps => Sys2Proof.Machine.execLaneRetrain l temp milliAmps s
  | .faultNotify => Sys2Proof.Machine.execFaultNotify s
  | .ownClaim epoch => Sys2Proof.Machine.execOwnClaim epoch s
  | .claim w => Sys2Proof.Machine.execClaim w s
  | .ownRenew w epoch => Sys2Proof.Machine.execOwnRenew w epoch s
  | .leaseLapse => Sys2Proof.Machine.execLeaseLapse s
  | .ownHandover w v => Sys2Proof.Machine.execOwnHandover w v s
  | .handoverLapse => Sys2Proof.Machine.execHandoverLapse s
  | .regRead off width => Sys2Proof.Machine.execRegRead off width s
  | .regWrite w off width v => Sys2Proof.Machine.execRegWrite w off width v s
  | .memRead addr len => Sys2Proof.Machine.execMemRead addr len s
  | .memWrite w addr bytes => Sys2Proof.Machine.execMemWrite w addr bytes s
  | .ownDeniedCount pasid => Sys2Proof.Machine.execOwnDeniedCount pasid s
  | .queueDbIgnored pasid => Sys2Proof.Machine.execQueueDbIgnored pasid s
  | .flintFaults pasid => Sys2Proof.Machine.execFlintFaults pasid s
  | .flintWinIgnored pasid => Sys2Proof.Machine.execFlintWinIgnored pasid s
  | .xlatDrainMax pasid => Sys2Proof.Machine.execXlatDrainMax pasid s
  | .fabEvents pasid => Sys2Proof.Machine.execFabEvents pasid s
  | .registerWrite off width v m => Sys2Proof.Machine.execRegisterWrite off width v m s
  | .perstAsserted => Sys2Proof.Machine.execPerstAsserted s
  | .hostLinkUp => Sys2Proof.Machine.execHostLinkUp s
  | .configurationWrite f => Sys2Proof.Machine.execConfigurationWrite f s
  | .currentLimitReport quarry milliAmps => Sys2Proof.Machine.execCurrentLimitReport quarry milliAmps s
  | .referenceClockEdge => Sys2Proof.Machine.execReferenceClockEdge s
  | .accOpComplete t slot => Sys2Proof.Machine.execAccOpComplete t slot s

end Sys2Proof.Machine
end

