-- ==== Sys2Proof/Machine/Held.lean ====
section
/-! DEFINITION. Requests of the host that its port holds, and how they are taken up again (R409, R417). -/

namespace Sys2Proof.Machine

/-- The command that a held request is. -/
def PortReq.run (c : PortReq) (s : State) : Host.Outcome State Fault Refusal :=
  match c with
  | .bar4Read off len pasid => execBar4Read off len pasid s
  | .bar4Write off bytes m steer => execBar4Write off bytes m steer s
  | .bar4Atomic off size64 swap cas v pasid => execBar4Atomic off size64 swap cas v pasid s
  | .hostCxlmemRequest hpa len wr poisoned own => execHostCxlmemRequest hpa len wr poisoned own s
  | .hdmDecoderCommit base size ways lock => execHdmDecoderCommit base size ways lock s
  | .flintWinAdd obj v m => execFlintWinAdd obj v m s
  | .flintWinSub obj v m => execFlintWinSub obj v m s
  | .flintWinArrive obj m => execFlintWinArrive obj m s
  | .flintWinClear obj v m => execFlintWinClear obj v m s
  | .feWinFill slot v m => execFeWinFill slot v m s
  | .feWinTake slot pasid f => execFeWinTake slot pasid f s
  | .workDoorbell off width v m => execWorkDoorbell off width v m s
  | .admqDoorbell w v => execAdmqDoorbell w v s
  | .admqBase w v => execAdmqBase w v s
  | .admqSize w v => execAdmqSize w v s
  | .ownClaim epoch => execOwnClaim epoch s
  | .ownRenew w epoch => execOwnRenew w epoch s
  | .ownHandover w v => execOwnHandover w v s
  | .pwrFset w v => execPwrFset w v s
  | .pwrCapOwner w v => execPwrCapOwner w v s
  | .devtabInvalidateOne w device => execDevtabInvalidateOne w device s
  | .devtabInvalidateAll w => execDevtabInvalidateAll w s
  | .fabDevtabBase w v => execFabDevtabBase w v s
  | .msixUnmask vector => execMsixUnmask vector s
  | .registerWrite off width v m => execRegisterWrite off width v m s
  | .ownDeniedCount pasid => execOwnDeniedCount pasid s
  | .queueDbIgnored pasid => execQueueDbIgnored pasid s
  | .flintFaults pasid => execFlintFaults pasid s
  | .flintWinIgnored pasid => execFlintWinIgnored pasid s
  | .xlatDrainMax pasid => execXlatDrainMax pasid s
  | .fabEvents pasid => execFabEvents pasid s

/-- The host port tries the oldest request that it holds; those behind it stay in their order (R409, R417; assumption 1). -/
def State.takeHeld (s : State) : Host.Outcome State Fault Refusal :=
  match s.host.waiting with
  | [] => .next s
  | c :: rest =>
    match c.run { s with host := { s.host with waiting := [] } } with
    | .next u => .next { u with host := { u.host with waiting := u.host.waiting ++ rest } }
    | o => o

end Sys2Proof.Machine
end

