-- ==== Sys2Proof/Safety.lean ====
section
/-! DEFINITION. What counts as a safe state, and the terms that claims use: what a tile instruction writes and what it leaves alone. -/

namespace Sys2Proof.Machine

/-- A cap that R465 allows, in watts. -/
def capOk (w : Nat) : Prop := 800 ≤ w ∧ w ≤ 3000

/-- The caps, those recorded for later too, and the lease lie in their ranges (R464, R465, R483, R527). -/
def State.rangesOk (s : State) : Prop :=
  capOk s.pwr.capOwner ∧ capOk s.pwr.capRack ∧ (∀ w ∈ s.pwr.deferredOwner, capOk w) ∧ (∀ w ∈ s.pwr.deferredRack, capOk w) ∧
    100 ≤ s.own.leaseMs ∧ s.own.leaseMs ≤ 60000

/-- Device memory is in its canonical form. -/
def State.memOk (s : State) : Prop := Memory.wf s.mem.bytes = true

/-! ## Tile instructions -/

/-- Tile `t` issues an instruction of one word, or two (`wide`): it runs a launch, the words pass their fetch, and the named registers
await no result (R118, R131, R191). -/
def State.issues (s : State) (t : Nat) (wide : Bool) (regs : List Reg) : Prop :=
  (s.tile t).canIssue = true ∧ s.fetch t wide = .good ∧ (s.tile t).busy regs = false

/-- R233: the lines that tile `x` reads for a write-back of all its dirty data are good, or there are none. -/
def Tile.readsGood (x : Tile) (par : CacheParity) : Prop := par = .good ∨ x.dirtyLines = []

/-- R233: parity ends a write-back of the dirty data of tile `t`, and its vein is in DOMAIN_DOWN. -/
def State.parityDown (s u : State) (t : Nat) : Prop := setHas u.blk.veinDown (s.tile t).vein = true

/-- The words at the program counter of tile `t` pass their fetch and spell instruction `i` (R154, R160; log entry 5). -/
def State.spells (s : State) (t : Nat) (i : Instr) : Prop :=
  s.fetch t (wideWord (s.codeWord t (s.tile t).pc)) = .good ∧ s.spelling t i = .same

/-- Commands of a tile that are no instructions of its set: what its units, its memory and its neighbours do. -/
def isTileEvent : Instr → Bool
  | .stableRegionFilled _ _ | .mmaStart _ | .mmaComplete _ _ | .tmoveComplete _ _ _ | .accOpComplete _ _ | .checkpointDone _ _
  | .unitCycleLimit _ | .tileDatapathFault _ | .tileReplayStart _ _ _ | .tileClockGate _ _ | .cacheFillData _ _ _ | .icacheFill _ _ _ _
  | .cleanOffer _ _ | .stashDelivery _ _ | .stashDropNotice _ _ | .memorySideCrcFail _ _ | .tileRetire _ _ => true
  | _ => false

/-- Nothing outside tile `t` changes but the count of open values that its cycle counts take (R156). -/
def State.onlyTile (s u : State) (t : Nat) : Prop :=
  u = { s with tiles := u.tiles, free := u.free } ∧ ∀ q, q ≠ t → u.tile q = s.tile q

/-- The same where numbers are given out to work that joins the tile's own queues. -/
def State.onlyTileNumbered (s u : State) (t : Nat) : Prop :=
  u = { s with tiles := u.tiles, free := u.free, nextId := u.nextId } ∧ s.nextId ≤ u.nextId ∧ ∀ q, q ≠ t → u.tile q = s.tile q

/-- The matrix queue holds products alone: nothing in it can run before the oldest product starts (R125). -/
def Tile.onlyProducts (x : Tile) : Prop := ∀ q ∈ x.matQueue, ∃ o, q = MatOp.mma o

/-- Register files that a change leaves alone. -/
def Tile.keepsG (x y : Tile) : Prop := y.g = x.g ∧ y.gPoison = x.gPoison
def Tile.keepsV (x y : Tile) : Prop := y.v = x.v ∧ y.vPoison = x.vPoison
def Tile.keepsP (x y : Tile) : Prop := y.p = x.p ∧ y.pPoison = x.pPoison

/-- Of a tile only registers, ASTAT, the program counter, the cycle counts and the order of use of its instruction cache change, and
clock gates open (R124, R239). -/
def Tile.sameButRegs (x y : Tile) : Prop :=
  y = { x with
    g := y.g, gPoison := y.gPoison, v := y.v, vPoison := y.vPoison, p := y.p, pPoison := y.pPoison, astat := y.astat
    gated := y.gated, pc := y.pc, iplru := y.iplru, cycle := y.cycle, unitCycles := y.unitCycles } ∧ ∀ g ∈ y.gated, g ∈ x.gated

/-- An instruction whose whole effect is a scalar result: `v`, poisoned by `p`, in `rd` (g0 discards it), the bits `st` and, for a
poisoned result, bit 6 set in ASTAT, the program counter at `pc` (R116, R121, R157). -/
def State.wroteG (s u : State) (t : Nat) (rd : Reg) (v : Word) (p : Bool) (st : BitVec 7) (pc : Nat) : Prop :=
  let x := s.tile t
  let y := u.tile t
  (∀ q, y.gr q = if q = 0 then 0 else if q = rd then v else x.gr q) ∧
    (∀ q, y.gp q = if q = 0 then false else if q = rd then p else x.gp q) ∧
    y.astat = x.astat ||| st ||| (if p && rd != 0 then 0x40#7 else 0) ∧ y.pc = pc % 2 ^ 64 ∧
    x.keepsV y ∧ x.keepsP y ∧ x.sameButRegs y ∧ s.onlyTile u t

/-- The same of a vector result. -/
def State.wroteV (s u : State) (t : Nat) (vd : VReg) (v : BitVec 2048) (p : Bool) (st : BitVec 7) : Prop :=
  let x := s.tile t
  let y := u.tile t
  (∀ q, y.vr q = if q = vd then v else x.vr q) ∧ (∀ q, y.vp q = if q = vd then p else x.vp q) ∧
    y.astat = x.astat ||| st ||| (if p then 0x40#7 else 0) ∧ y.pc = (x.pc + 8) % 2 ^ 64 ∧
    x.keepsG y ∧ x.keepsP y ∧ x.sameButRegs y ∧ s.onlyTile u t

/-- The same of a predicate result. -/
def State.wroteP (s u : State) (t : Nat) (pd : PReg) (v : Word) (p : Bool) (st : BitVec 7) : Prop :=
  let x := s.tile t
  let y := u.tile t
  (∀ q, y.pr q = if q = pd then v else x.pr q) ∧ (∀ q, y.pp q = if q = pd then p else x.pp q) ∧
    y.astat = x.astat ||| st ||| (if p then 0x40#7 else 0) ∧ y.pc = (x.pc + 8) % 2 ^ 64 ∧
    x.keepsG y ∧ x.keepsV y ∧ x.sameButRegs y ∧ s.onlyTile u t

/-- A vector value whose active lanes are `f`, and whose inactive lanes are 0 or kept (R174). -/
def Tile.lanesAre (x : Tile) (c : VecCtl) (vd : VReg) (f : Nat → Word32) (v : BitVec 2048) : Prop :=
  ∀ i, i < 64 → lane v i = if x.active c i then f i else if c.pz then 0 else lane (x.vr vd) i

/-- The same of a predicate. -/
def Tile.bitsAre (x : Tile) (c : VecCtl) (pd : PReg) (f : Nat → Bool) (v : Word) : Prop :=
  ∀ i, i < 64 → v.getLsbD i = if x.active c i then f i else if c.pz then false else (x.pr pd).getLsbD i

/-- The ASTAT bits that lane results raise: those of the active lanes' conditions (R115, R174). Where a lane's invalid condition is
open, bit 0 is. -/
def Tile.raises (x : Tile) (c : VecCtl) (f : Nat → BitVec 7) (isOpen : Nat → Bool) (st : BitVec 7) : Prop :=
  (∀ j, 1 ≤ j → j < 7 → st.getLsbD j = (List.range 64).any (fun i => x.active c i && (f i).getLsbD j)) ∧
    ((∀ i, i < 64 → x.active c i = true → isOpen i = false) →
      st.getLsbD 0 = (List.range 64).any (fun i => x.active c i && (f i).getLsbD 0))

/-- Fields that only conversions use are 0, PG and PZ too where PEN is, and for integer instructions FTZ as well (R161, R174). -/
def VecCtl.plainFp (c : VecCtl) : Prop := c.rmode = 0 ∧ c.sat = false ∧ (c.pen = false → c.pg = 0 ∧ c.pz = false)
def VecCtl.plainInt (c : VecCtl) : Prop := VecCtl.plainFp c ∧ c.ftz = false

/-- An instruction that writes no register: the program counter moves, and nothing else of the tile but its cycle counts and the order
of use of its instruction cache (R239). -/
def State.wentTo (s u : State) (t pc : Nat) : Prop :=
  let x := s.tile t
  let y := u.tile t
  y = { x with pc := pc % 2 ^ 64, iplru := y.iplru, cycle := y.cycle, unitCycles := y.unitCycles } ∧ s.onlyTile u t

/-- The tile's reservation is gone: none stands in the tile, at a home, or on its way, and its progress lock has ended (R169, R303). -/
def State.reservationGone (s : State) (t : Nat) : Prop :=
  (s.tile t).reservation = none ∧ (∀ r ∈ s.homes.resv, r.tile ≠ t) ∧ (∀ p ∈ (s.tile t).pend, p.kind ≠ .reserve)

/-- An instruction that writes scratch alone: bytes that `out` names keep their values, and of the tile only scratch, its poison marks,
clock gates, the program counter at `pc`, the cycle counts and the order of use of its instruction cache change (R119, R121, R239). -/
def State.wroteScratch (s u : State) (t pc : Nat) (out : Nat → Prop) : Prop :=
  let x := s.tile t
  let y := u.tile t
  (∀ a, out a → memGet y.scratch a = memGet x.scratch a) ∧
    y = { x with
      scratch := y.scratch, poison := y.poison, gated := y.gated, pc := pc % 2 ^ 64, iplru := y.iplru, cycle := y.cycle
      unitCycles := y.unitCycles } ∧
    (∀ g ∈ y.gated, g ∈ x.gated) ∧ s.onlyTile u t

/-- The lane address that a vector memory instruction uses (R178). -/
def Tile.laneAddr (x : Tile) (ga : Reg) (off : Nat → Word) (i : Nat) : Nat := (x.gr ga + off i).toNat

/-- Fields of the second word of a SYNC instruction that it does not use are 0 (R161, R184). -/
def SyncCtl.plain (m : SyncCtl) (l : Bool) : Prop := m.loc = l ∧ m.nw = false ∧ m.pd = 0 ∧ m.cond = 0

/-- An integer wrapped to 64 bits. -/
def wrap64 (v : Int) : Word := BitVec.ofInt 64 v

/-- A new log entry with these contents is the newest (R501, R503). -/
def State.logged (s u : State) (cls : LogClass) (out : Outc) (unit d0 d1 : Nat) : Prop :=
  u.flt.newest = s.flt.newest + 1 ∧ ∃ e, u.flt.log.getLast? = some e ∧ e.seq = s.flt.newest + 1 ∧ e.time = s.now ∧ e.cls = cls ∧
    e.outcome = out ∧ e.unit = unit ∧ e.count = 1 ∧ e.detail0 = d0 % 2 ^ 64 ∧ e.detail1 = d1 % 2 ^ 64

/-- No entry that a masked event or a notice could fold into (R505). -/
def State.noFold (s : State) (cls : LogClass) (quarry unit : Nat) : Prop :=
  ∀ e ∈ s.flt.log, e.cls = cls → e.quarry = quarry → e.unit = unit → e.time + msTicks ≤ s.now

/-- A tile of a grid has stopped: its held effects are discarded, or it had ended before (R190). -/
def State.stoppedGrid (s u : State) (k : Nat) : Prop :=
  ∀ q, (s.tile q).task = some k → ((u.tile q).run = .halted ∨ (u.tile q).run = .stopped ∨ (u.tile q).run = .none) ∧
    ((s.tile q).run ≠ .halted → (s.tile q).run ≠ .stopped → (u.tile q).held = [])

/-- A trap of tile `t` at `pc`: its TILE_TRAP entry, its fault in its launch, and the stop of the grid (R188, R190, R504). -/
def State.trapped (s u : State) (t : Nat) (cause : Trap) (address : Option Nat) (pc : Nat) : Prop :=
  s.logged u .tileTrap .notice t (cause.code + 256 * (s.logicalOf t % 512)) pc ∧
    ∀ k y, (s.tile t).task = some k → s.task? k = some y → s.stoppedGrid u k ∧ ∃ z, u.task? k = some z ∧
      z.faults = y.faults ++ [(cause.status, ⟨cause.code, some (s.logicalOf t), some pc, address, 0, s.flt.newest + 1⟩)] ∧
      z.trapped = y.trapped + 1 ∧ z.stopping = true

/-- A matrix, mover or Mica instruction has been issued: of the tile only what `y` names changes beside the program counter, the
gates and the cycle counts (R116). -/
def State.issuedAs (s u : State) (t : Nat) (y : Tile) : Prop :=
  let z := u.tile t
  z = { y with gated := z.gated, pc := (y.pc + 8) % 2 ^ 64, iplru := z.iplru, cycle := z.cycle, unitCycles := z.unitCycles } ∧
    (∀ g ∈ z.gated, g ∈ y.gated) ∧ ∀ q, q ≠ t → u.tile q = s.tile q

/-- An instruction retires: the tile is `y` but for the program counter, the cycle counts and the order of use of its instruction cache. -/
def State.retired (s u : State) (t : Nat) (y : Tile) : Prop :=
  let z := u.tile t
  z = { y with pc := ((s.tile t).pc + 4) % 2 ^ 64, iplru := z.iplru, cycle := z.cycle, unitCycles := z.unitCycles } ∧ s.onlyTile u t

/-- A wide instruction has put one effect with the release mark behind the unit's held effects; of the tile nothing else changes but
scalar registers, the program counter, the cycle counts and the order of use of its instruction cache. -/
def State.heldOne (s u : State) (t : Nat) (e : Effect) (va : Nat) (device : Bool) : Prop :=
  let x := s.tile t
  let y := u.tile t
  y = { x with
    held := x.held ++ [⟨e, va, true, x.fencePending, false, device, x.pc, e.cost, none⟩], fencePending := false
    g := y.g, gPoison := y.gPoison, pc := (x.pc + 8) % 2 ^ 64, iplru := y.iplru, cycle := y.cycle, unitCycles := y.unitCycles } ∧ s.onlyTile u t

/-- The bytes that an effect writes. -/
def Effect.data : Effect → List Byte
  | .write _ bs _ => bs
  | .put _ _ bs => bs.map (·.1)
  | _ => []

/-- Some new log entry with these contents has been written (R501, R503). -/
def State.noted (s u : State) (cls : LogClass) (out : Outc) (unit d0 d1 : Nat) : Prop :=
  ∃ e ∈ u.flt.log, e.seq = s.flt.newest + 1 ∧ e.time = s.now ∧ e.cls = cls ∧ e.outcome = out ∧ e.unit = unit ∧
    e.detail0 = d0 % 2 ^ 64 ∧ e.detail1 = d1 % 2 ^ 64

/-- Every request whose snoops are out has a transaction that waits for them. -/
def State.homesSettled (s : State) : Prop :=
  ∀ e ∈ s.pkts, e.2.begun = true → e.2.req.range.isSome = true → ∃ x ∈ s.homes.txns, x.2.pkt = e.1

/-- The request of packet `id`, for `n` bytes at `a`, may be applied at once at its home: it is its turn, the owner tags pass it, the
directory has room for its agent, no agent has to be snooped first, and it is no write-back of the host (R29, R259, R307, R308, R312). -/
def State.servable (s : State) (id : Nat) (p : Packet) (a n : Nat) : Prop :=
  tblFind s.pkts id = some p ∧ p.req.range = some (a, n) ∧ p.begun = false ∧ s.ordHeld id p = false ∧ s.turnOf id p a n = .goes ∧
    s.rangePass p.context a n = true ∧ s.granExists (granOf a) = true ∧
    (p.src.agent.isSome = true ∨ p.req.stashes = true → s.roomHeld (blockOf a) = none) ∧ s.homesSettled ∧ s.snoopsFor p a n = [] ∧
    s.isHostBack p a n = false

/-- The directory set of a block has a way for it, its own entry aside (R307). -/
def State.dirFits (s : State) (b : Nat) : Bool :=
  let key := s.dirKey (512 * b)
  decide ((s.homes.dir.filter (fun e => e.1 != b && s.dirKey (512 * e.1) == key)).length +
    b2n (setHas s.homes.dirLost (key.1 * 64 + key.2.1)) < 12)

/-- A stash delivery of a sector to a tile. -/
def Req.isStash (r : Req) (x t : Nat) : Bool :=
  match r with
  | .stash y u _ => u == t && y == x
  | _ => false

/-- No tile and no host owns a sector of the range. -/
def State.unowned (s : State) (a n : Nat) : Prop := ∀ x ∈ sectorsOf a n, ∀ o, s.sectSt x ≠ .m o

/-- Packet `id` has been served: it is gone, and its response is on its way to its source. -/
def State.answered (u : State) (id : Nat) (p : Packet) (r : Rsp) : Prop :=
  tblFind u.pkts id = none ∧ tblFind u.rsps id = some r ∧ r.dst = p.src ∧ r.task = p.task

/-- Device memory holds `bs` at `a`, and every other byte is as before. -/
def State.stored (s u : State) (a : Nat) (bs : List Byte) : Prop :=
  ∀ b, memGet u.mem.bytes b = if a ≤ b ∧ b < a + bs.length then nth 0 bs (b - a) else memGet s.mem.bytes b

/-- A finding of nothing. -/
def HomeFinding.clean (f : HomeFinding) : Prop := f.dram = .clean ∧ f.qcache = .clean ∧ f.directory = .clean

/-- No Mica command waits at its tile for a place in its stacks' queues (R215). -/
def State.noMicaWaits (s : State) : Prop := ∀ e ∈ s.tiles, ∀ h ∈ e.2.released.head?, ∀ id, h.eff ≠ .mica id

/-! ## Flint -/

/-- The operation of packet `id` on object `n` may be applied at its home: nothing older holds it back, the object is ACTIVE and not
ABANDONED, and is of the operation's context and kind (R330). -/
def State.flintServable (s : State) (id : Nat) (p : Packet) (n : Nat) : Prop :=
  tblFind s.pkts id = some p ∧ p.req.object = some n ∧ s.ordHeld id p = false ∧ setHas s.flint.childReads n = false ∧
    s.flintRefused p n = false ∧ (s.obj n).state = 1 ∧ (s.obj n).abandoned = false ∧ p.src ≠ .hostPort ∧ id < s.nextId

/-- Object `n` is now `o` with the time of the operation; no other object, no memory and no tile changes, and no waiter of the object is
left whose condition holds (R334, R356). -/
def State.objChanged (s u : State) (n : Nat) (o : Obj) : Prop :=
  u.obj n = { o with when' := s.now } ∧ (∀ m, m ≠ n → u.obj m = s.obj m) ∧ u.mem = s.mem ∧ u.tiles = s.tiles ∧
    ∀ w ∈ u.flint.waiters, w.obj = some n → o.holds w.cond = false

/-- A wake is on its way to a waiter. -/
def State.wakeSent (u : State) (who : WaitRef) (seq value : Nat) (abandoned : Bool) : Prop :=
  ∃ k, tblFind u.flint.wakes k = some ⟨who, seq, value, abandoned, false⟩

/-! ## The host port -/

/-- The host port takes a request of the host: memory accesses are enabled, the link is up, the block is in D0 (R408, R416). -/
def State.hostTakes (s : State) : Prop := s.portTake = .taken ∧ s.unstructured = false

/-- A packet of the host port is on its way. -/
def State.portSent (s u : State) (r : Req) : Prop :=
  tblFind u.pkts s.nextId = some ⟨.hostPort, none, r, none, false, false, s.opNumber .hostPort r⟩ ∧ u.mem = s.mem ∧ u.tiles = s.tiles ∧
    u.flint = { s.flint with opCounts := u.flint.opCounts }

/-! ## Owner-only registers, tasks -/

/-- The block as a register write of `w` finds it: a host's write brings the link back to L0 (R415). -/
def State.heard (s : State) (w : Who) : State :=
  match w with
  | .host => s.awake
  | _ => s

/-- An owner-only register write of `w` is taken: it reaches the block, and `w` is the owner with the current epoch (R16, R516, R522). -/
def State.ownerMay (s : State) (w : Who) : Prop :=
  (w = .host → s.portTake = .taken ∧ s.hostQuiet = true) ∧ s.blk.quartz.isSome = true ∧ s.isOwner w = true ∧ s.blk.state ≠ .halted

/-- Task `k`, that was `x`, has ended and is due for completion (R38). -/
def State.taskDone (s u : State) (k : Nat) (x : Task) : Prop := u.task? k = some { x with phase := .due, ticks := s.now - x.start }

/-- Task `k` has ended with one more fault. -/
def State.taskFailed (u : State) (k : Nat) (x : Task) (st : Status) (d : Detail) : Prop :=
  ∃ y, u.task? k = some y ∧ (y.phase = .ended ∨ y.phase = .due) ∧ y.faults = x.faults ++ [(st, d)] ∧ y.tag = x.tag

/-- A work task has been handed to its engines, and none of its writes is under way; it is not yet a copy that reads a source. -/
def State.onEngines (s : State) (k : Nat) (x : Task) : Prop :=
  s.task? k = some x ∧ x.phase = .dispatched ∧ x.queue.isSome = true ∧ x.unseen = [] ∧ x.source = []

/-- The running admin command, dispatched. -/
def State.onAdminTask (s : State) (k : Nat) (x : Task) (b : AdminBody) : Prop :=
  s.adm.running = some k ∧ s.task? k = some x ∧ x.phase = .dispatched ∧ x.queue = none ∧ x.unseen = [] ∧ x.source = [] ∧ x.admin = some b

/-- Every byte of a device-virtual range is device memory from `a` on. -/
def State.inDevice (s : State) (e : Src) (x : Task) (va a n : Nat) (write : Bool) : Prop :=
  isHostVa va = false ∧ s.rangePass (some x.context) a n = true ∧
    ∀ i, i < n → ∃ g, s.reach e x.context x.segs (va + i) write = .to (.device (a + i) true) g

/-- Configuration space takes a request: the link is up, the block has booted and no reset is under way (R419, R509). -/
def State.configOpen (s : State) : Prop := s.host.linkUp = true ∧ s.host.retry = false ∧ s.blk.booted = true

/-- Nothing is under way that a reset would have to end: no task, no packet, no released effect, no load, and the block does not sleep. -/
def State.still (s : State) : Prop :=
  s.tasks = [] ∧ s.pkts = [] ∧ s.strata.load = none ∧ s.blk.state ≠ .sleep ∧ s.homes.dir = [] ∧ s.host.retry = false ∧
    ∀ e ∈ s.tiles, e.2.released = []

/-! ## The fabric port, power -/

/-- The order of R440 lets packet `id` commit: every older packet of its queue pair has arrived and it overlaps none that has not
committed, if it is a put or a get (log entry 77); any other packet waits for every older one to commit. -/
def State.inTurn (s : State) (id : Nat) (h : PacketHead) (r : Req) : Prop :=
  if r.plain then
    s.gapless h = true ∧ ∀ e ∈ s.fab.inbound, e.1 ≠ id → e.2.head.handle = h.handle → e.2.reply = none → s.ahead e.2.head < s.ahead h →
      r.span.1 + r.span.2 ≤ e.2.req.span.1 ∨ e.2.req.span.1 + e.2.req.span.2 ≤ r.span.1
  else s.ahead h = 0

/-- Quarry `q`'s clock, power and thermal state is now `y`; only it, and the throttle reasons seen, have changed. -/
def State.quarryNow (s u : State) (q : Nat) (y : QPower) : Prop :=
  u.qpower q = y ∧ (∀ p, p ≠ q → u.qpower p = s.qpower p) ∧ u = { s with pwr := { s.pwr with q := u.pwr.q, seen := u.pwr.seen } }

/-- Power changes alone. -/
def State.onlyPower (s u : State) : Prop := u = { s with pwr := u.pwr }

end Sys2Proof.Machine
end

