-- ==== Sys2Proof/WellFormed.lean ====
section
/-! DEFINITION. Well-formed commands: operands inside the block's ranges (R4, R21, R529 of the spec; widths of the
sideband messages, R517). A register number is well formed by its type. -/

namespace Sys2Proof

/-- A physical tile number (R21). -/
def tileOk (t : Nat) : Bool := decide (t < 416)

/-- A quarry or stack number (R21). -/
def quarryOk (q : Nat) : Bool := decide (q < 8)

/-- A work queue, or the admin queue (R363). -/
def queueOk : Option Nat → Bool
  | none => true
  | some q => decide (q < 4096)

/-- The widths of a sideband register access (R517). -/
def widthOk (w : Nat) : Bool := w == 4 || w == 8

/-- A lane of R503: its quarry, and its number inside its path (4,096 + 128 TSV lanes, 512 + 32 link lanes, 320 + 16 result
spares per die). -/
def laneOk (l : LaneRef) : Bool :=
  quarryOk l.quarry && decide (l.die < 16) &&
    match l.path with
    | .tsv => decide (l.lane < 4224)
    | .result => decide (l.lane < 336)
    | _ => decide (l.lane < 544)

/-- A cache of R235. -/
def cacheOk : CacheRef → Bool
  | .tileData t => tileOk t
  | .tileInstr t => tileOk t
  | .copyEngine q e => quarryOk q && decide (e < 5)
  | .quarryCache q => quarryOk q
  | .quartzInstr c | .quartzData c => decide (c < 2)
  | .sequencer s => decide (s < 32)

/-- A unit of R497. -/
def unitOk : TestUnit → Bool
  | .tile t => tileOk t
  | .spareBank s d b => quarryOk s && decide (d < 16) && decide (b < 68)
  | .lane l => laneOk l
  | .copyEngine q => quarryOk q
  | .pll q => quarryOk q
  | .quartz => true

/-- A demand of R466 names a vein, and at most the 8 quarries. -/
def demandOk (x : DemandItem) : Bool :=
  (match x.vein with
    | none => true
    | some v => decide (v < 32)) && decide (x.draws.length ≤ 8)

/-- The physical tile whose sequencer executes a command, where one does. -/
def Instr.tile? : Instr → Option Nat
  | .laneCrcFail _ => none
  | .laneSwap _ => none
  | .linkReplayTimeout _ _ => none
  | .routeDetour _ _ => none
  | .loadStrata => none
  | .strataStaged _ _ => none
  | .strataLoadDone => none
  | .launch _ => none
  | .launchDispatch _ => none
  | .stableRegionFilled t _ => some t
  | .mmaStart t => some t
  | .mmaComplete t _ => some t
  | .tmoveComplete t _ _ => some t
  | .checkpointDone t _ => some t
  | .unitCycleLimit t => some t
  | .tileDatapathFault t => some t
  | .tileReplayStart t _ _ => some t
  | .tileClockGate t _ => some t
  | .waitWatchdog _ => none
  | .add t _ _ _ => some t
  | .sub t _ _ _ => some t
  | .and t _ _ _ => some t
  | .or t _ _ _ => some t
  | .xor t _ _ _ => some t
  | .sll t _ _ _ => some t
  | .srl t _ _ _ => some t
  | .sra t _ _ _ => some t
  | .slt t _ _ _ => some t
  | .sltu t _ _ _ => some t
  | .min t _ _ _ => some t
  | .max t _ _ _ => some t
  | .minu t _ _ _ => some t
  | .maxu t _ _ _ => some t
  | .mul t _ _ _ => some t
  | .mulh t _ _ _ => some t
  | .mulhu t _ _ _ => some t
  | .div t _ _ _ => some t
  | .divu t _ _ _ => some t
  | .rem t _ _ _ => some t
  | .remu t _ _ _ => some t
  | .clz t _ _ => some t
  | .ctz t _ _ => some t
  | .cpop t _ _ => some t
  | .addi t _ _ _ => some t
  | .andi t _ _ _ => some t
  | .ori t _ _ _ => some t
  | .xori t _ _ _ => some t
  | .slli t _ _ _ => some t
  | .srli t _ _ _ => some t
  | .srai t _ _ _ => some t
  | .slti t _ _ _ => some t
  | .sltiu t _ _ _ => some t
  | .shins t _ _ _ => some t
  | .beq t _ _ _ => some t
  | .bne t _ _ _ => some t
  | .blt t _ _ _ => some t
  | .bge t _ _ _ => some t
  | .bltu t _ _ _ => some t
  | .bgeu t _ _ _ => some t
  | .jal t _ _ => some t
  | .jalr t _ _ _ => some t
  | .load t _ _ _ _ _ _ => some t
  | .store t _ _ _ _ _ => some t
  | .lr t _ _ _ _ _ => some t
  | .sc t _ _ _ _ _ => some t
  | .amoAdd t _ _ _ _ _ _ => some t
  | .amoSwap t _ _ _ _ _ _ => some t
  | .amoCas t _ _ _ _ _ _ => some t
  | .ldfence t => some t
  | .stfence t => some t
  | .fullfence t _ => some t
  | .csrr t _ _ => some t
  | .csrw t _ _ => some t
  | .commit t _ => some t
  | .yield t _ => some t
  | .halt t _ => some t
  | .trap t _ => some t
  | .fadd t _ _ _ _ => some t
  | .fsub t _ _ _ _ => some t
  | .fmul t _ _ _ _ => some t
  | .ffma t _ _ _ _ _ => some t
  | .ffms t _ _ _ _ _ => some t
  | .fnfma t _ _ _ _ _ => some t
  | .fmin t _ _ _ _ => some t
  | .fmax t _ _ _ _ => some t
  | .fsqrt t _ _ _ => some t
  | .fabs t _ _ _ => some t
  | .fneg t _ _ _ => some t
  | .fceq t _ _ _ _ => some t
  | .fclt t _ _ _ _ => some t
  | .fcle t _ _ _ _ => some t
  | .fcun t _ _ _ _ => some t
  | .vadd t _ _ _ _ => some t
  | .vsub t _ _ _ _ => some t
  | .vmul t _ _ _ _ => some t
  | .vmulh t _ _ _ _ => some t
  | .vand t _ _ _ _ => some t
  | .vor t _ _ _ _ => some t
  | .vxor t _ _ _ _ => some t
  | .vshl t _ _ _ _ => some t
  | .vshr t _ _ _ _ => some t
  | .vsra t _ _ _ _ => some t
  | .vmin t _ _ _ _ => some t
  | .vmax t _ _ _ _ => some t
  | .vminu t _ _ _ _ => some t
  | .vmaxu t _ _ _ _ => some t
  | .vceq t _ _ _ _ => some t
  | .vclt t _ _ _ _ => some t
  | .vcltu t _ _ _ _ => some t
  | .vsel t _ _ _ _ => some t
  | .vbcast t _ _ _ => some t
  | .vlane t _ _ => some t
  | .vext t _ _ _ => some t
  | .vcvt t _ _ _ _ _ => some t
  | .vperm t _ _ _ _ => some t
  | .vredFadd t _ _ _ => some t
  | .vredFmax t _ _ _ => some t
  | .vredAdd t _ _ _ => some t
  | .vredMax t _ _ _ => some t
  | .pand t _ _ _ _ => some t
  | .por t _ _ _ _ => some t
  | .pxor t _ _ _ _ => some t
  | .pandn t _ _ _ _ => some t
  | .pnot t _ _ _ => some t
  | .pfromg t _ _ _ => some t
  | .ptog t _ _ => some t
  | .pcnt t _ _ => some t
  | .vld t _ _ _ _ => some t
  | .vst t _ _ _ => some t
  | .vlds t _ _ _ _ _ => some t
  | .vsts t _ _ _ _ => some t
  | .vgather t _ _ _ _ _ => some t
  | .vscatter t _ _ _ _ => some t
  | .mma t _ _ _ => some t
  | .mmaSp t _ _ _ => some t
  | .accAnchor t _ _ _ => some t
  | .accLoad t _ _ _ _ => some t
  | .accStore t _ _ => some t
  | .accCvt t _ _ _ => some t
  | .accWait t _ => some t
  | .tmove t _ _ _ _ _ => some t
  | .micaGemv t _ _ _ _ => some t
  | .feFill t _ _ _ _ => some t
  | .feTake t _ _ _ _ => some t
  | .fePeek t _ _ _ _ => some t
  | .sigAdd t _ _ _ _ => some t
  | .sigSub t _ _ _ _ => some t
  | .sigWait t _ _ _ _ => some t
  | .barArrive t _ _ _ _ => some t
  | .barWait t _ _ _ => some t
  | .lcWait t _ _ => some t
  | .micaStreamStart _ _ => none
  | .micaBlockSum _ _ _ => none
  | .micaCommandComplete _ _ => none
  | .micaResidueFail _ _ _ => none
  | .dramRefresh _ _ => none
  | .bankSwitch _ _ _ _ => none
  | .queueMicaGemv _ => none
  | .cacheEnable _ => none
  | .cacheDisable _ _ => none
  | .cacheInvalidateAll _ _ => none
  | .cacheFillData t _ _ => some t
  | .icacheFill t _ _ _ => some t
  | .cleanOffer t _ => some t
  | .waySpareSwap _ _ _ _ => none
  | .patrolScrub _ _ _ => none
  | .rowRepair _ _ _ => none
  | .granuleTagChange _ => none
  | .translationCompletion _ _ => none
  | .prgResponse _ _ => none
  | .priTimeout _ => none
  | .atsInvalidation _ => none
  | .invalidationCompletion => none
  | .invalidationDrainTimeout => none
  | .prefetchXlat _ => none
  | .adviseWillNeed _ => none
  | .adviseWillNotNeed _ => none
  | .preferDevice _ _ => none
  | .preferHost _ _ => none
  | .homeRead _ _ => none
  | .homeReadOwnership _ _ => none
  | .homeWrite _ _ => none
  | .homeWriteBack _ _ => none
  | .homeNonallocRead _ _ => none
  | .homeLr _ _ => none
  | .homeSc _ _ => none
  | .homeAmo _ _ => none
  | .snpInv _ _ _ => none
  | .snpShr _ _ _ => none
  | .snpCur _ _ _ => none
  | .snoopResponse _ _ _ => none
  | .snoopTimeout _ _ => none
  | .stashDelivery t _ => some t
  | .stashDropNotice t _ => some t
  | .reservationLockTimeout _ => none
  | .hostSnoop _ _ => none
  | .hostGo _ => none
  | .hostCxlmemRequest _ _ _ _ _ => none
  | .biResponse _ _ _ => none
  | .memoryResponse _ => none
  | .taskCompletion _ => none
  | .completionInterrupt _ => none
  | .flintHomeAdd _ => none
  | .flintHomeSub _ => none
  | .flintHomeArrival _ => none
  | .flintHomeRelease _ => none
  | .flintWaitRegister _ => none
  | .childListRead _ _ => none
  | .feHomeFill _ _ => none
  | .feHomeTake _ _ => none
  | .feHomePeek _ _ => none
  | .flintWake _ => none
  | .flintWinAdd _ _ _ => none
  | .flintWinSub _ _ _ => none
  | .flintWinArrive _ _ => none
  | .flintWinClear _ _ _ => none
  | .feWinFill _ _ _ => none
  | .feWinTake _ _ _ => none
  | .contextRestore _ _ => none
  | .flintSliceFault _ => none
  | .workDoorbell _ _ _ _ => none
  | .admqDoorbell _ _ => none
  | .admqBase _ _ => none
  | .admqSize _ _ => none
  | .entryFetch _ => none
  | .entryFetched _ _ _ => none
  | .ownStallRetry _ => none
  | .entryDispatch _ => none
  | .deadlineMiss _ => none
  | .nop _ => none
  | .copy _ => none
  | .copyInline _ => none
  | .fill _ => none
  | .copyComplete _ _ _ => none
  | .signalAdd _ => none
  | .signalSub _ => none
  | .signalConfigure _ => none
  | .signalFree _ => none
  | .wait _ => none
  | .barrierArrive _ => none
  | .flush _ _ _ => none
  | .fence _ => none
  | .timestamp _ => none
  | .createQueue => none
  | .destroyQueue => none
  | .resetQueue => none
  | .abortQueue => none
  | .createContext => none
  | .destroyContext => none
  | .evictContext => none
  | .setSegment => none
  | .setPowerCap => none
  | .selfTest _ => none
  | .dumpSyncState => none
  | .assignDeviceNumber => none
  | .sleep => none
  | .copyChunkCrcFail _ _ => none
  | .flr => none
  | .hotReset => none
  | .fundamentalReset _ => none
  | .d3hotWrite => none
  | .d0Write => none
  | .bar4Resize _ => none
  | .hdmDecoderCommit _ _ _ _ => none
  | .cacheWritebackInvalidate => none
  | .msixUnmask _ => none
  | .bar4Read _ _ _ => none
  | .bar4Write _ _ _ _ => none
  | .bar4Atomic _ _ _ _ _ _ => none
  | .completionTimeout _ => none
  | .cxlioReadCompletion _ _ => none
  | .aspmL1Entry => none
  | .doeDiscovery _ => none
  | .cdatRead _ => none
  | .getVersion => none
  | .getCapabilities => none
  | .negotiateAlgorithms => none
  | .getDigests => none
  | .getCertificate _ _ _ => none
  | .challenge _ => none
  | .getMeasurements _ => none
  | .devtabInvalidateOne _ _ => none
  | .devtabInvalidateAll _ => none
  | .fabDevtabBase _ _ => none
  | .devtabFill _ _ => none
  | .inboundPut _ _ _ _ _ => none
  | .inboundGet _ _ _ => none
  | .inboundAtomic _ _ _ _ => none
  | .inboundSignal _ _ _ _ => none
  | .inboundArrival _ _ => none
  | .inboundRelease _ _ => none
  | .inboundFill _ _ _ => none
  | .packetCommit _ _ => none
  | .fabricResponse _ _ _ _ => none
  | .creditGrant _ _ _ => none
  | .qpTimeout _ => none
  | .qpAuthFailed _ => none
  | .wakePacket => none
  | .pwrFset _ _ => none
  | .pwrCapOwner _ _ => none
  | .rackCapSet _ => none
  | .freqChangeDone _ => none
  | .boostStep _ _ => none
  | .voltageTrim _ _ => none
  | .droopDetect _ => none
  | .stretchEnd _ => none
  | .currentLimitStep _ _ => none
  | .vralertAssert => none
  | .vralertDeassert => none
  | .alertFloorRelease => none
  | .powerGrantInterval _ _ => none
  | .powerModelCalibrate _ => none
  | .energyUpdate _ _ => none
  | .thermalSample _ => none
  | .thermalLimitStep _ => none
  | .sleepEntry => none
  | .wake => none
  | .wakeNAssert => none
  | .pldmWake => none
  | .wakeComplete => none
  | .heartbeat => none
  | .quartzTakeover => none
  | .pllFault _ _ => none
  | .memorySideCrcFail t _ => some t
  | .tileRetire t _ => some t
  | .rotationStep _ => none
  | .spareTest _ => none
  | .unitTestDone _ _ _ => none
  | .calibrationCheck _ _ _ => none
  | .laneRetrain _ _ _ => none
  | .faultNotify => none
  | .ownClaim _ => none
  | .claim _ => none
  | .ownRenew _ _ => none
  | .leaseLapse => none
  | .ownHandover _ _ => none
  | .handoverLapse => none
  | .regRead _ _ => none
  | .regWrite _ _ _ _ => none
  | .memRead _ _ => none
  | .memWrite _ _ _ => none
  | .ownDeniedCount _ => none
  | .queueDbIgnored _ => none
  | .flintFaults _ => none
  | .flintWinIgnored _ => none
  | .xlatDrainMax _ => none
  | .fabEvents _ => none
  | .registerWrite _ _ _ _ => none
  | .perstAsserted => none
  | .hostLinkUp => none
  | .configurationWrite _ => none
  | .currentLimitReport _ _ => none
  | .referenceClockEdge => none
  | .accOpComplete t _ => some t

/-- Every operand lies in its range. -/
def Instr.wf : Instr → Bool
  | .laneCrcFail l => laneOk l
  | .laneSwap l => laneOk l
  | .linkReplayTimeout q _ => quarryOk q
  | .routeDetour q _ => quarryOk q
  | .loadStrata => true
  | .strataStaged _ _ => true
  | .strataLoadDone => true
  | .launch _ => true
  | .launchDispatch _ => true
  | .stableRegionFilled t _ => tileOk t
  | .mmaStart t => tileOk t
  | .mmaComplete t _ => tileOk t
  | .tmoveComplete t slot _ => tileOk t && decide (slot < 16)
  | .checkpointDone t _ => tileOk t
  | .unitCycleLimit t => tileOk t
  | .tileDatapathFault t => tileOk t
  | .tileReplayStart t _ _ => tileOk t
  | .tileClockGate t _ => tileOk t
  | .waitWatchdog _ => true
  | .add t _ _ _ => tileOk t
  | .sub t _ _ _ => tileOk t
  | .and t _ _ _ => tileOk t
  | .or t _ _ _ => tileOk t
  | .xor t _ _ _ => tileOk t
  | .sll t _ _ _ => tileOk t
  | .srl t _ _ _ => tileOk t
  | .sra t _ _ _ => tileOk t
  | .slt t _ _ _ => tileOk t
  | .sltu t _ _ _ => tileOk t
  | .min t _ _ _ => tileOk t
  | .max t _ _ _ => tileOk t
  | .minu t _ _ _ => tileOk t
  | .maxu t _ _ _ => tileOk t
  | .mul t _ _ _ => tileOk t
  | .mulh t _ _ _ => tileOk t
  | .mulhu t _ _ _ => tileOk t
  | .div t _ _ _ => tileOk t
  | .divu t _ _ _ => tileOk t
  | .rem t _ _ _ => tileOk t
  | .remu t _ _ _ => tileOk t
  | .clz t _ _ => tileOk t
  | .ctz t _ _ => tileOk t
  | .cpop t _ _ => tileOk t
  | .addi t _ _ _ => tileOk t
  | .andi t _ _ _ => tileOk t
  | .ori t _ _ _ => tileOk t
  | .xori t _ _ _ => tileOk t
  | .slli t _ _ _ => tileOk t
  | .srli t _ _ _ => tileOk t
  | .srai t _ _ _ => tileOk t
  | .slti t _ _ _ => tileOk t
  | .sltiu t _ _ _ => tileOk t
  | .shins t _ _ _ => tileOk t
  | .beq t _ _ _ => tileOk t
  | .bne t _ _ _ => tileOk t
  | .blt t _ _ _ => tileOk t
  | .bge t _ _ _ => tileOk t
  | .bltu t _ _ _ => tileOk t
  | .bgeu t _ _ _ => tileOk t
  | .jal t _ _ => tileOk t
  | .jalr t _ _ _ => tileOk t
  | .load t _ _ _ _ _ _ => tileOk t
  | .store t _ _ _ _ _ => tileOk t
  | .lr t _ _ _ _ _ => tileOk t
  | .sc t _ _ _ _ _ => tileOk t
  | .amoAdd t _ _ _ _ _ _ => tileOk t
  | .amoSwap t _ _ _ _ _ _ => tileOk t
  | .amoCas t _ _ _ _ _ _ => tileOk t
  | .ldfence t => tileOk t
  | .stfence t => tileOk t
  | .fullfence t _ => tileOk t
  | .csrr t _ _ => tileOk t
  | .csrw t _ _ => tileOk t
  | .commit t _ => tileOk t
  | .yield t _ => tileOk t
  | .halt t _ => tileOk t
  | .trap t _ => tileOk t
  | .fadd t _ _ _ _ => tileOk t
  | .fsub t _ _ _ _ => tileOk t
  | .fmul t _ _ _ _ => tileOk t
  | .ffma t _ _ _ _ _ => tileOk t
  | .ffms t _ _ _ _ _ => tileOk t
  | .fnfma t _ _ _ _ _ => tileOk t
  | .fmin t _ _ _ _ => tileOk t
  | .fmax t _ _ _ _ => tileOk t
  | .fsqrt t _ _ _ => tileOk t
  | .fabs t _ _ _ => tileOk t
  | .fneg t _ _ _ => tileOk t
  | .fceq t _ _ _ _ => tileOk t
  | .fclt t _ _ _ _ => tileOk t
  | .fcle t _ _ _ _ => tileOk t
  | .fcun t _ _ _ _ => tileOk t
  | .vadd t _ _ _ _ => tileOk t
  | .vsub t _ _ _ _ => tileOk t
  | .vmul t _ _ _ _ => tileOk t
  | .vmulh t _ _ _ _ => tileOk t
  | .vand t _ _ _ _ => tileOk t
  | .vor t _ _ _ _ => tileOk t
  | .vxor t _ _ _ _ => tileOk t
  | .vshl t _ _ _ _ => tileOk t
  | .vshr t _ _ _ _ => tileOk t
  | .vsra t _ _ _ _ => tileOk t
  | .vmin t _ _ _ _ => tileOk t
  | .vmax t _ _ _ _ => tileOk t
  | .vminu t _ _ _ _ => tileOk t
  | .vmaxu t _ _ _ _ => tileOk t
  | .vceq t _ _ _ _ => tileOk t
  | .vclt t _ _ _ _ => tileOk t
  | .vcltu t _ _ _ _ => tileOk t
  | .vsel t _ _ _ _ => tileOk t
  | .vbcast t _ _ _ => tileOk t
  | .vlane t _ _ => tileOk t
  | .vext t _ _ _ => tileOk t
  | .vcvt t _ _ _ _ _ => tileOk t
  | .vperm t _ _ _ _ => tileOk t
  | .vredFadd t _ _ _ => tileOk t
  | .vredFmax t _ _ _ => tileOk t
  | .vredAdd t _ _ _ => tileOk t
  | .vredMax t _ _ _ => tileOk t
  | .pand t _ _ _ _ => tileOk t
  | .por t _ _ _ _ => tileOk t
  | .pxor t _ _ _ _ => tileOk t
  | .pandn t _ _ _ _ => tileOk t
  | .pnot t _ _ _ => tileOk t
  | .pfromg t _ _ _ => tileOk t
  | .ptog t _ _ => tileOk t
  | .pcnt t _ _ => tileOk t
  | .vld t _ _ _ _ => tileOk t
  | .vst t _ _ _ => tileOk t
  | .vlds t _ _ _ _ _ => tileOk t
  | .vsts t _ _ _ _ => tileOk t
  | .vgather t _ _ _ _ _ => tileOk t
  | .vscatter t _ _ _ _ => tileOk t
  | .mma t _ _ _ => tileOk t
  | .mmaSp t _ _ _ => tileOk t
  | .accAnchor t _ _ _ => tileOk t
  | .accLoad t _ _ _ _ => tileOk t
  | .accStore t _ _ => tileOk t
  | .accCvt t _ _ _ => tileOk t
  | .accWait t _ => tileOk t
  | .tmove t _ _ _ _ _ => tileOk t
  | .micaGemv t _ _ _ _ => tileOk t
  | .feFill t _ _ _ _ => tileOk t
  | .feTake t _ _ _ _ => tileOk t
  | .fePeek t _ _ _ _ => tileOk t
  | .sigAdd t _ _ _ _ => tileOk t
  | .sigSub t _ _ _ _ => tileOk t
  | .sigWait t _ _ _ _ => tileOk t
  | .barArrive t _ _ _ _ => tileOk t
  | .barWait t _ _ _ => tileOk t
  | .lcWait t _ _ => tileOk t
  | .micaStreamStart stack _ => quarryOk stack
  | .micaBlockSum _ row _ => decide (row < 65536)
  | .micaCommandComplete _ _ => true
  | .micaResidueFail stack bank row => quarryOk stack && decide (bank < 1024) && decide (row < 65536)
  | .dramRefresh stack bank => quarryOk stack && decide (bank < 1024)
  | .bankSwitch stack bank _ _ => quarryOk stack && decide (bank < 1024)
  | .queueMicaGemv _ => true
  | .cacheEnable c => cacheOk c
  | .cacheDisable c _ => cacheOk c
  | .cacheInvalidateAll c _ => cacheOk c
  | .cacheFillData t _ _ => tileOk t
  | .icacheFill t _ _ _ => tileOk t
  | .cleanOffer t _ => tileOk t
  | .waySpareSwap quarry slice way _ => quarryOk quarry && decide (slice < 64) && decide (way < 17)
  | .patrolScrub addr _ _ => decide (addr < 2 ^ 40)
  | .rowRepair stack bank row => quarryOk stack && decide (bank < 1024) && decide (row < 65536)
  | .granuleTagChange g => decide (g < 524288)
  | .translationCompletion _ _ => true
  | .prgResponse slot _ => decide (slot < 512)
  | .priTimeout slot => decide (slot < 512)
  | .atsInvalidation _ => true
  | .invalidationCompletion => true
  | .invalidationDrainTimeout => true
  | .prefetchXlat _ => true
  | .adviseWillNeed _ => true
  | .adviseWillNotNeed _ => true
  | .preferDevice _ _ => true
  | .preferHost _ _ => true
  | .homeRead _ _ => true
  | .homeReadOwnership _ _ => true
  | .homeWrite _ _ => true
  | .homeWriteBack _ _ => true
  | .homeNonallocRead _ _ => true
  | .homeLr _ _ => true
  | .homeSc _ _ => true
  | .homeAmo _ _ => true
  | .snpInv agent _ _ => decide (agent ≤ 416)
  | .snpShr agent _ _ => decide (agent ≤ 416)
  | .snpCur agent _ _ => decide (agent ≤ 416)
  | .snoopResponse _ agent _ => decide (agent ≤ 416)
  | .snoopTimeout _ agent => decide (agent ≤ 416)
  | .stashDelivery t _ => tileOk t
  | .stashDropNotice t _ => tileOk t
  | .reservationLockTimeout _ => true
  | .hostSnoop _ _ => true
  | .hostGo _ => true
  | .hostCxlmemRequest _ _ _ _ _ => true
  | .biResponse _ _ _ => true
  | .memoryResponse _ => true
  | .taskCompletion _ => true
  | .completionInterrupt _ => true
  | .flintHomeAdd _ => true
  | .flintHomeSub _ => true
  | .flintHomeArrival _ => true
  | .flintHomeRelease _ => true
  | .flintWaitRegister _ => true
  | .childListRead obj _ => decide (obj < 16384)
  | .feHomeFill _ _ => true
  | .feHomeTake _ _ => true
  | .feHomePeek _ _ => true
  | .flintWake _ => true
  | .flintWinAdd obj _ _ => decide (obj < 16384)
  | .flintWinSub obj _ _ => decide (obj < 16384)
  | .flintWinArrive obj _ => decide (obj < 16384)
  | .flintWinClear obj _ _ => decide (obj < 16384)
  | .feWinFill slot _ _ => decide (slot < 65536)
  | .feWinTake slot _ _ => decide (slot < 65536)
  | .contextRestore c _ => decide (c < 4096)
  | .flintSliceFault quarry => quarryOk quarry
  | .workDoorbell _ _ _ _ => true
  | .admqDoorbell _ _ => true
  | .admqBase _ _ => true
  | .admqSize _ _ => true
  | .entryFetch q => queueOk q
  | .entryFetched q _ _ => queueOk q
  | .ownStallRetry q => queueOk q
  | .entryDispatch _ => true
  | .deadlineMiss _ => true
  | .nop _ => true
  | .copy _ => true
  | .copyInline _ => true
  | .fill _ => true
  | .copyComplete _ _ _ => true
  | .signalAdd _ => true
  | .signalSub _ => true
  | .signalConfigure _ => true
  | .signalFree _ => true
  | .wait _ => true
  | .barrierArrive _ => true
  | .flush _ t _ => tileOk t
  | .fence _ => true
  | .timestamp _ => true
  | .createQueue => true
  | .destroyQueue => true
  | .resetQueue => true
  | .abortQueue => true
  | .createContext => true
  | .destroyContext => true
  | .evictContext => true
  | .setSegment => true
  | .setPowerCap => true
  | .selfTest _ => true
  | .dumpSyncState => true
  | .assignDeviceNumber => true
  | .sleep => true
  | .copyChunkCrcFail _ engine => decide (engine < 5)
  | .flr => true
  | .hotReset => true
  | .fundamentalReset _ => true
  | .d3hotWrite => true
  | .d0Write => true
  | .bar4Resize _ => true
  | .hdmDecoderCommit _ _ _ _ => true
  | .cacheWritebackInvalidate => true
  | .msixUnmask vector => decide (vector < 2048)
  | .bar4Read _ _ _ => true
  | .bar4Write _ _ _ _ => true
  | .bar4Atomic _ _ _ _ _ _ => true
  | .completionTimeout _ => true
  | .cxlioReadCompletion _ _ => true
  | .aspmL1Entry => true
  | .doeDiscovery _ => true
  | .cdatRead _ => true
  | .getVersion => true
  | .getCapabilities => true
  | .negotiateAlgorithms => true
  | .getDigests => true
  | .getCertificate _ _ _ => true
  | .challenge _ => true
  | .getMeasurements _ => true
  | .devtabInvalidateOne _ device => decide (device < 65536)
  | .devtabInvalidateAll _ => true
  | .fabDevtabBase _ _ => true
  | .devtabFill device _ => decide (device < 65536)
  | .inboundPut h _ _ _ _ => decide (h.device < 65536)
  | .inboundGet h _ _ => decide (h.device < 65536)
  | .inboundAtomic h _ _ _ => decide (h.device < 65536)
  | .inboundSignal h obj _ _ => decide (h.device < 65536) && decide (obj < 16384)
  | .inboundArrival h obj => decide (h.device < 65536) && decide (obj < 16384)
  | .inboundRelease h obj => decide (h.device < 65536) && decide (obj < 16384)
  | .inboundFill h _ _ => decide (h.device < 65536)
  | .packetCommit channel _ => decide (channel < 16)
  | .fabricResponse _ _ _ _ => true
  | .creditGrant channel _ _ => decide (channel < 16)
  | .qpTimeout device => decide (device < 65536)
  | .qpAuthFailed device => decide (device < 65536)
  | .wakePacket => true
  | .pwrFset _ _ => true
  | .pwrCapOwner _ _ => true
  | .rackCapSet _ => true
  | .freqChangeDone quarry => quarryOk quarry
  | .boostStep quarry _ => quarryOk quarry
  | .voltageTrim quarry _ => quarryOk quarry
  | .droopDetect quarry => quarryOk quarry
  | .stretchEnd quarry => quarryOk quarry
  | .currentLimitStep quarry _ => quarryOk quarry
  | .vralertAssert => true
  | .vralertDeassert => true
  | .alertFloorRelease => true
  | .powerGrantInterval _ items => items.all demandOk
  | .powerModelCalibrate _ => true
  | .energyUpdate _ _ => true
  | .thermalSample _ => true
  | .thermalLimitStep quarry => quarryOk quarry
  | .sleepEntry => true
  | .wake => true
  | .wakeNAssert => true
  | .pldmWake => true
  | .wakeComplete => true
  | .heartbeat => true
  | .quartzTakeover => true
  | .pllFault quarry _ => quarryOk quarry
  | .memorySideCrcFail t _ => tileOk t
  | .tileRetire t _ => tileOk t
  | .rotationStep quarry => quarryOk quarry
  | .spareTest u => unitOk u
  | .unitTestDone u _ _ => unitOk u
  | .calibrationCheck l _ _ => laneOk l
  | .laneRetrain l _ _ => laneOk l
  | .faultNotify => true
  | .ownClaim _ => true
  | .claim _ => true
  | .ownRenew _ _ => true
  | .leaseLapse => true
  | .ownHandover _ _ => true
  | .handoverLapse => true
  | .regRead _ width => widthOk width
  | .regWrite _ _ width _ => widthOk width
  | .memRead addr len => decide (addr < 2 ^ 40) && decide (1 ≤ len) && decide (len ≤ 256)
  | .memWrite _ addr bytes => decide (addr < 2 ^ 40) && decide (1 ≤ bytes.length) && decide (bytes.length ≤ 256)
  | .ownDeniedCount _ => true
  | .queueDbIgnored _ => true
  | .flintFaults _ => true
  | .flintWinIgnored _ => true
  | .xlatDrainMax _ => true
  | .fabEvents _ => true
  | .registerWrite _ _ _ _ => true
  | .perstAsserted => true
  | .hostLinkUp => true
  | .configurationWrite _ => true
  | .currentLimitReport quarry _ => quarryOk quarry
  | .referenceClockEdge => true
  | .accOpComplete t _ => tileOk t

end Sys2Proof
end

