-- ==== Sys2Proof/Certificates/Slice0/Obligations.lean ====
section
/-! DEFINITION. The statements for the provers. Each names what it states; the rule of the spec that it formalises, or rests on, is in
its docstring. -/

open Sys2Proof Sys2Proof.Machine

/-! ## Scalar arithmetic (R164, R165) -/

/-- R164, R116: every register-form integer instruction writes its result to gd and changes nothing else (g0 discards it).
R164: the quotients round toward zero and the remainders have the sign of a; a zero divisor gives all ones and a, and
−2^63 / −1 gives −2^63 with remainder 0; nothing traps.
R164: clz, ctz and cpop: the result counts bits of a, leading zeros, trailing zeros and ones; for a zero both counts of zeros are 64.
R164, R165: the immediate forms take imm13 sign-extended; the immediate shifts take an amount below 64, a larger one traps with
ILLEGAL_INSN (R161), and `shins` shifts in 18 bits.
R160, R161: of every instruction of a tile, words that are no instruction trap with ILLEGAL_INSN, and words that spell another
instruction make its command no event of the tile. -/
def Obligations.IntegerInstructions : Prop :=
  (∀ (s : State) (t : Nat) (rd ra rb : Reg), s.issues t false [rd, ra, rb] →
      let x := s.tile t
      let a := x.gr ra
      let b := x.gr rb
      let gives (i : Instr) (v : Word) : Prop := s.spells t i → ∃ u, exec i s = .next u ∧ s.wroteG u t rd v (x.gp ra || x.gp rb) 0 (x.pc + 4)
      gives (.add t rd ra rb) (a + b) ∧ gives (.sub t rd ra rb) (a - b) ∧ gives (.and t rd ra rb) (a &&& b) ∧
      gives (.or t rd ra rb) (a ||| b) ∧ gives (.xor t rd ra rb) (a ^^^ b) ∧
      gives (.sll t rd ra rb) (BitVec.ofNat 64 (a.toNat * 2 ^ (b.toNat % 64))) ∧
      gives (.srl t rd ra rb) (BitVec.ofNat 64 (a.toNat / 2 ^ (b.toNat % 64))) ∧
      gives (.sra t rd ra rb) (wrap64 (a.toInt / 2 ^ (b.toNat % 64))) ∧
      gives (.slt t rd ra rb) (if a.toInt < b.toInt then 1 else 0) ∧ gives (.sltu t rd ra rb) (if a.toNat < b.toNat then 1 else 0) ∧
      gives (.min t rd ra rb) (wrap64 (min a.toInt b.toInt)) ∧ gives (.max t rd ra rb) (wrap64 (max a.toInt b.toInt)) ∧
      gives (.minu t rd ra rb) (BitVec.ofNat 64 (min a.toNat b.toNat)) ∧ gives (.maxu t rd ra rb) (BitVec.ofNat 64 (max a.toNat b.toNat)) ∧
      gives (.mul t rd ra rb) (a * b) ∧ gives (.mulh t rd ra rb) (wrap64 (a.toInt * b.toInt / 2 ^ 64)) ∧
      gives (.mulhu t rd ra rb) (BitVec.ofNat 64 (a.toNat * b.toNat / 2 ^ 64))) ∧
  (∀ (s : State) (t : Nat) (rd ra rb : Reg), s.issues t false [rd, ra, rb] →
      let x := s.tile t
      let a := x.gr ra
      let b := x.gr rb
      let gives (i : Instr) (v : Word) : Prop := s.spells t i → ∃ u, exec i s = .next u ∧ s.wroteG u t rd v (x.gp ra || x.gp rb) 0 (x.pc + 4)
      gives (.div t rd ra rb) (if b.toInt = 0 then wrap64 (-1) else wrap64 (a.toInt.tdiv b.toInt)) ∧
      gives (.divu t rd ra rb) (if b.toNat = 0 then wrap64 (-1) else BitVec.ofNat 64 (a.toNat / b.toNat)) ∧
      gives (.rem t rd ra rb) (if b.toInt = 0 then a else wrap64 (a.toInt.tmod b.toInt)) ∧
      gives (.remu t rd ra rb) (if b.toNat = 0 then a else BitVec.ofNat 64 (a.toNat % b.toNat))) ∧
  (∀ (s : State) (t : Nat) (rd ra : Reg), s.issues t false [rd, ra] →
      let x := s.tile t
      let a := x.gr ra
      let gives (i : Instr) (v : Nat) : Prop :=
        s.spells t i → ∃ u, exec i s = .next u ∧ s.wroteG u t rd (BitVec.ofNat 64 v) (x.gp ra) 0 (x.pc + 4)
      (∃ n, gives (.clz t rd ra) n ∧ n ≤ 64 ∧ (∀ i, 64 - n ≤ i → i < 64 → a.getLsbD i = false) ∧ (n < 64 → a.getLsbD (63 - n) = true)) ∧
      (∃ n, gives (.ctz t rd ra) n ∧ n ≤ 64 ∧ (∀ i, i < n → a.getLsbD i = false) ∧ (n < 64 → a.getLsbD n = true)) ∧
      gives (.cpop t rd ra) ((List.range 64).countP (fun i => a.getLsbD i))) ∧
  (∀ (s : State) (t : Nat) (rd ra : Reg) (imm : BitVec 13) (u18 : BitVec 18), s.issues t false [rd, ra] →
      let x := s.tile t
      let a := x.gr ra
      let b := wrap64 imm.toInt
      let gives (i : Instr) (v : Word) : Prop := s.spells t i → ∃ u, exec i s = .next u ∧ s.wroteG u t rd v (x.gp ra) 0 (x.pc + 4)
      gives (.addi t rd ra imm) (a + b) ∧ gives (.andi t rd ra imm) (a &&& b) ∧ gives (.ori t rd ra imm) (a ||| b) ∧
      gives (.xori t rd ra imm) (a ^^^ b) ∧ gives (.slti t rd ra imm) (if a.toInt < imm.toInt then 1 else 0) ∧
      gives (.sltiu t rd ra imm) (if a.toNat < b.toNat then 1 else 0) ∧
      (imm.toNat < 64 → gives (.slli t rd ra imm) (BitVec.ofNat 64 (a.toNat * 2 ^ imm.toNat)) ∧
        gives (.srli t rd ra imm) (BitVec.ofNat 64 (a.toNat / 2 ^ imm.toNat)) ∧
        gives (.srai t rd ra imm) (wrap64 (a.toInt / 2 ^ imm.toNat))) ∧
      (64 ≤ imm.toNat → ∀ i ∈ [Instr.slli t rd ra imm, .srli t rd ra imm, .srai t rd ra imm],
        s.spells t i → ∃ u, exec i s = .next u ∧ s.trapped u t .illegalInsn none x.pc) ∧
      gives (.shins t rd ra u18) (BitVec.ofNat 64 (a.toNat * 2 ^ 18 + u18.toNat))) ∧
  (∀ (s : State) (t : Nat) (i : Instr), i.tile? = some t → isTileEvent i = false → (s.tile t).canIssue = true →
      s.fetch t (wideWord (s.codeWord t (s.tile t).pc)) = .good →
      (s.spelling t i = .other → exec i s = .next s) ∧
      (s.spelling t i = .illegal → ∃ u, exec i s = .next u ∧ s.trapped u t .illegalInsn none (s.tile t).pc))

/-! ## Transfers of control (R166, R169) -/

/-- R166, R169: a conditional branch goes to PC + 4 × sext(imm13) where its condition holds, else to the next word. A branch that is
not taken, or is taken forward, changes nothing but the program counter; a taken backward one breaks the reservation.
R166, R188: `jal` and `jalr` write PC + 4 to gd and jump, `jal` to PC + 4 × sext(offset23), `jalr` to g[ga] + sext(imm13) where
that is a multiple of 4. The base of `jalr` is read before gd is written. A forward jump changes nothing else. -/
def Obligations.ControlTransfers : Prop :=
  (∀ (s : State) (t : Nat) (ra rb : Reg) (off : BitVec 13), s.issues t false [ra, rb] →
      let x := s.tile t
      let a := x.gr ra
      let b := x.gr rb
      let target := (((x.pc : Int) + 4 * off.toInt) % 2 ^ 64).toNat
      let goes (i : Instr) (c : Prop) : Prop :=
        s.spells t i → ∃ u, exec i s = .next u ∧ (¬ c → s.wentTo u t (x.pc + 4)) ∧ (c → x.pc < target → s.wentTo u t target) ∧
          (c → target ≤ x.pc → (u.tile t).pc = target ∧ u.reservationGone t ∧ (u.tile t).g = x.g ∧ u.mem = s.mem ∧
            ∀ q, q ≠ t → u.tile q = s.tile q)
      goes (.beq t ra rb off) (a = b) ∧ goes (.bne t ra rb off) (a ≠ b) ∧ goes (.blt t ra rb off) (a.toInt < b.toInt) ∧
      goes (.bge t ra rb off) (b.toInt ≤ a.toInt) ∧ goes (.bltu t ra rb off) (a.toNat < b.toNat) ∧
      goes (.bgeu t ra rb off) (b.toNat ≤ a.toNat)) ∧
  (∀ (s : State) (t : Nat) (rd ra : Reg) (o23 : BitVec 23) (o13 : BitVec 13),
      let x := s.tile t
      let goes (i : Instr) (target : Nat) : Prop :=
        s.spells t i → ∃ u, exec i s = .next u ∧ (u.tile t).pc = target % 2 ^ 64 ∧
          (∀ q, (u.tile t).gr q = if q = 0 then 0 else if q = rd then BitVec.ofNat 64 (x.pc + 4) else x.gr q) ∧
          (x.pc < target → s.wroteG u t rd (BitVec.ofNat 64 (x.pc + 4)) false 0 target) ∧ (target ≤ x.pc → u.reservationGone t)
      (s.issues t false [rd] → goes (.jal t rd o23) (((x.pc : Int) + 4 * o23.toInt) % 2 ^ 64).toNat) ∧
      (s.issues t false [rd, ra] → (x.gr ra + wrap64 o13.toInt).toNat % 4 = 0 →
        goes (.jalr t rd ra o13) (x.gr ra + wrap64 o13.toInt).toNat) ∧
      (s.issues t false [rd, ra] → (x.gr ra + wrap64 o13.toInt).toNat % 4 ≠ 0 →
        s.spells t (.jalr t rd ra o13) → ∃ u, exec (.jalr t rd ra o13) s = .next u ∧ s.trapped u t .misaligned (some (x.gr ra + wrap64 o13.toInt).toNat) x.pc))

/-! ## Vector and predicate instructions (R174 to R178) -/

/-- R175, R115: the floating-point lane operations. Active lanes take the operation's rounded result, inactive ones are zeroed or kept
and raise no flag; nothing else changes. -/
def Obligations.VectorFloat : Prop :=
  ∀ (s : State) (t : Nat) (vd va vc : VReg) (vb : VSrc) (c : VecCtl), VecCtl.plainFp c →
    let x := s.tile t
    let gives (i : Instr) (p : Bool) (f : Nat → FpRes) : Prop := s.spells t i → ∃ u v st, exec i s = .next u ∧ x.lanesAre c vd (fun i => (f i).word) v ∧
      x.raises c (fun i => (f i).conds.bits) (fun i => (f i).openInv) st ∧ s.wroteV u t vd v (x.mergePoison c vd p) st
    let a (i : Nat) : Word32 := lane (x.vr va) i
    let b (i : Nat) : Word32 := x.src2 vb i
    let p := x.vp va || x.src2Poison vb
    (s.issues t true (VSrc.regs vb) →
      gives (.fadd t vd va vb c) p (fun i => fpAdd c.ftz (a i) (b i)) ∧ gives (.fsub t vd va vb c) p (fun i => fpSub c.ftz (a i) (b i)) ∧
      gives (.fmul t vd va vb c) p (fun i => fpMul c.ftz (a i) (b i)) ∧ gives (.fmin t vd va vb c) p (fun i => fpMin c.ftz (a i) (b i)) ∧
      gives (.fmax t vd va vb c) p (fun i => fpMax c.ftz (a i) (b i)) ∧
      gives (.ffma t vd va vb vc c) (p || x.vp vc) (fun i => fpFma c.ftz false false (a i) (b i) (lane (x.vr vc) i)) ∧
      gives (.ffms t vd va vb vc c) (p || x.vp vc) (fun i => fpFma c.ftz false true (a i) (b i) (lane (x.vr vc) i)) ∧
      gives (.fnfma t vd va vb vc c) (p || x.vp vc) (fun i => fpFma c.ftz true false (a i) (b i) (lane (x.vr vc) i))) ∧
    (s.issues t true [] →
      gives (.fsqrt t vd va c) (x.vp va) (fun i => fpSqrt c.ftz (a i)) ∧
      gives (.fabs t vd va c) (x.vp va) (fun i => fpSign c.ftz (fun _ => false) (a i)) ∧
      gives (.fneg t vd va c) (x.vp va) (fun i => fpSign c.ftz (fun n => !n) (a i)))

/-- R175: the compares write one predicate bit for each active lane; inactive bits are zeroed or kept.
R174, R175: predicate logic and `pfromg` do the same with each bit as a lane (DEDUCED, log entry 73; that `pandn` complements p[VB] is
the model's choice, the same entry); `ptog` and `pcnt` write a scalar register; nothing else changes. -/
def Obligations.PredicateInstructions : Prop :=
  (∀ (s : State) (t : Nat) (pd : PReg) (va : VReg) (vb : VSrc) (c : VecCtl), s.issues t true (VSrc.regs vb) →
      let x := s.tile t
      let a (i : Nat) : Word32 := lane (x.vr va) i
      let b (i : Nat) : Word32 := x.src2 vb i
      let p := x.vp va || x.src2Poison vb || (c.pen && (x.pp c.pg || (!c.pz && x.pp pd)))
      let gives (i : Instr) (isOpen : Nat → Bool) (f : Nat → Bool) : Prop := s.spells t i → ∃ u v st, exec i s = .next u ∧ x.bitsAre c pd f v ∧
        x.raises c (fun _ => 0) isOpen st ∧ s.wroteP u t pd v p st
      (VecCtl.plainFp c →
        gives (.fceq t pd va vb c) (fun _ => false) (fun i => (fpEq c.ftz (a i) (b i)).holds) ∧
        gives (.fclt t pd va vb c) (fun i => (fpUn c.ftz (a i) (b i)).holds) (fun i => (fpLt c.ftz (a i) (b i)).holds) ∧
        gives (.fcle t pd va vb c) (fun i => (fpUn c.ftz (a i) (b i)).holds) (fun i => (fpLe c.ftz (a i) (b i)).holds) ∧
        gives (.fcun t pd va vb c) (fun _ => false) (fun i => (fpUn c.ftz (a i) (b i)).holds)) ∧
      (VecCtl.plainInt c →
        gives (.vceq t pd va vb c) (fun _ => false) (fun i => decide (a i = b i)) ∧
        gives (.vclt t pd va vb c) (fun _ => false) (fun i => decide ((a i).toInt < (b i).toInt)) ∧
        gives (.vcltu t pd va vb c) (fun _ => false) (fun i => decide ((a i).toNat < (b i).toNat)))) ∧
  (∀ (s : State) (t : Nat) (pd pa pb : PReg) (rd ra : Reg) (c : VecCtl),
      let x := s.tile t
      let gives (i : Instr) (f : Nat → Bool) (p : Bool) : Prop := s.spells t i → ∃ u v, exec i s = .next u ∧ x.bitsAre c pd f v ∧
        s.wroteP u t pd v (p || (c.pen && (x.pp c.pg || (!c.pz && x.pp pd)))) 0
      let a (i : Nat) : Bool := (x.pr pa).getLsbD i
      let b (i : Nat) : Bool := (x.pr pb).getLsbD i
      (VecCtl.plainInt c →
        (s.issues t true [] →
          gives (.pand t pd pa pb c) (fun i => a i && b i) (x.pp pa || x.pp pb) ∧ gives (.por t pd pa pb c) (fun i => a i || b i) (x.pp pa || x.pp pb) ∧
          gives (.pxor t pd pa pb c) (fun i => a i != b i) (x.pp pa || x.pp pb) ∧
          gives (.pandn t pd pa pb c) (fun i => a i && !b i) (x.pp pa || x.pp pb) ∧ gives (.pnot t pd pa c) (fun i => !a i) (x.pp pa)) ∧
        (s.issues t true [ra] → gives (.pfromg t pd ra c) (fun i => (x.gr ra).getLsbD i) (x.gp ra))) ∧
      (s.issues t true [rd] →
        (s.spells t (.ptog t rd pa) → ∃ u, exec (.ptog t rd pa) s = .next u ∧ s.wroteG u t rd (x.pr pa) (x.pp pa) 0 (x.pc + 8)) ∧
        (s.spells t (.pcnt t rd pa) → ∃ u, exec (.pcnt t rd pa) s = .next u ∧
          s.wroteG u t rd (BitVec.ofNat 64 ((List.range 64).countP (fun i => (x.pr pa).getLsbD i))) (x.pp pa) 0 (x.pc + 8))))

/-- R175: the integer lane operations wrap around in 32 bits and raise no flag; nothing but vd changes. -/
def Obligations.VectorInteger : Prop :=
  ∀ (s : State) (t : Nat) (vd va : VReg) (vb : VSrc) (c : VecCtl), s.issues t true (VSrc.regs vb) → VecCtl.plainInt c →
    let x := s.tile t
    let gives (i : Instr) (f : Word32 → Word32 → Word32) : Prop := s.spells t i → ∃ u v, exec i s = .next u ∧
      x.lanesAre c vd (fun i => f (lane (x.vr va) i) (x.src2 vb i)) v ∧
      s.wroteV u t vd v (x.mergePoison c vd (x.vp va || x.src2Poison vb)) 0
    let int (v : Int) : Word32 := BitVec.ofInt 32 v
    let nat (v : Nat) : Word32 := BitVec.ofNat 32 v
    gives (.vadd t vd va vb c) (· + ·) ∧ gives (.vsub t vd va vb c) (· - ·) ∧ gives (.vmul t vd va vb c) (· * ·) ∧
    gives (.vmulh t vd va vb c) (fun a b => int (a.toInt * b.toInt / 2 ^ 32)) ∧
    gives (.vand t vd va vb c) (· &&& ·) ∧ gives (.vor t vd va vb c) (· ||| ·) ∧ gives (.vxor t vd va vb c) (· ^^^ ·) ∧
    gives (.vshl t vd va vb c) (fun a b => nat (a.toNat * 2 ^ (b.toNat % 32))) ∧
    gives (.vshr t vd va vb c) (fun a b => nat (a.toNat / 2 ^ (b.toNat % 32))) ∧
    gives (.vsra t vd va vb c) (fun a b => int (a.toInt / 2 ^ (b.toNat % 32))) ∧
    gives (.vmin t vd va vb c) (fun a b => int (min a.toInt b.toInt)) ∧ gives (.vmax t vd va vb c) (fun a b => int (max a.toInt b.toInt)) ∧
    gives (.vminu t vd va vb c) (fun a b => nat (min a.toNat b.toNat)) ∧ gives (.vmaxu t vd va vb c) (fun a b => nat (max a.toNat b.toNat))

/-- R175: selection, broadcast, lane numbers, extraction and permutation. `vsel` takes PG's bit whatever PEN would say (PEN must be 0). -/
def Obligations.VectorPermute : Prop :=
  ∀ (s : State) (t : Nat) (vd va vb : VReg) (vs : VSrc) (rd ra : Reg) (c : VecCtl),
    let x := s.tile t
    let gives (i : Instr) (p : Bool) (f : Nat → Word32) : Prop := s.spells t i → ∃ u v, exec i s = .next u ∧ x.lanesAre c vd f v ∧
      s.wroteV u t vd v (x.mergePoison c vd p) 0
    (s.issues t true (VSrc.regs vs) → c.rmode = 0 → c.sat = false → c.ftz = false → c.pen = false → c.pz = false →
      s.spells t (.vsel t vd va vs c) →
      ∃ u v, exec (.vsel t vd va vs c) s = .next u ∧
        (∀ i, i < 64 → lane v i = if (x.pr c.pg).getLsbD i then lane (x.vr va) i else x.src2 vs i) ∧
        s.wroteV u t vd v (x.vp va || x.src2Poison vs || x.pp c.pg) 0) ∧
    (VecCtl.plainInt c →
      (s.issues t true [ra] → gives (.vbcast t vd ra c) (x.gp ra) (fun _ => (x.gr ra).setWidth 32)) ∧
      (s.issues t true [] → gives (.vlane t vd c) false (fun i => BitVec.ofNat 32 i) ∧
        gives (.vperm t vd va vb c) (x.vp va || x.vp vb) (fun i => lane (x.vr va) ((lane (x.vr vb) i).toNat % 64)))) ∧
    (s.issues t true [rd, ra] → s.spells t (.vext t rd ra va) → ∃ u, exec (.vext t rd ra va) s = .next u ∧
      s.wroteG u t rd (BitVec.ofNat 64 (lane (x.vr va) ((x.gr ra).toNat % 64)).toNat) (x.vp va || x.gp ra) 0 (x.pc + 8))

/-- R177: a reduction's integer result is the 32-bit wraparound sum, or the signed maximum, of the active lanes; the floating-point ones
combine (2i, 2i + 1) level by level, an inactive lane contributing −0 or −Inf. That gd takes them zero-extended is the model's choice (log
entry 73), and the signed maximum of no lane is left open. -/
def Obligations.Reductions : Prop :=
  ∀ (s : State) (t : Nat) (rd : Reg) (va : VReg) (c : VecCtl), s.issues t true [rd] → c.pz = false →
    let x := s.tile t
    let p := x.vp va || (c.pen && x.pp c.pg)
    let ls := (List.range 64).filter (fun i => x.active c i)
    let fp (i : Instr) (idle : Word32) (op : Word32 → Word32 → FpRes) : Prop := s.spells t i → ∃ u st, exec i s = .next u ∧
      s.wroteG u t rd ((treeFold (fun a b => (op a b).word) idle 6
        ((List.range 64).map (fun i => if x.active c i then lane (x.vr va) i else idle))).setWidth 64) p st (x.pc + 8) ∧
      st.toNat < 16
    (VecCtl.plainInt c →
      (s.spells t (.vredAdd t rd va c) → ∃ u, exec (.vredAdd t rd va c) s = .next u ∧
        s.wroteG u t rd (BitVec.ofNat 64 ((ls.map (fun i => (lane (x.vr va) i).toNat)).sum % 2 ^ 32)) p 0 (x.pc + 8)) ∧
      (s.spells t (.vredMax t rd va c) → ∃ (u : State) (m : Word32), exec (.vredMax t rd va c) s = .next u ∧
        s.wroteG u t rd (BitVec.setWidth 64 m) p 0 (x.pc + 8) ∧
        (ls ≠ [] → (∃ i ∈ ls, m = lane (x.vr va) i) ∧ ∀ i ∈ ls, (lane (x.vr va) i).toInt ≤ m.toInt))) ∧
    (VecCtl.plainFp c → fp (.vredFadd t rd va c) 0x80000000 (fpAdd c.ftz) ∧ fp (.vredFmax t rd va c) 0xFF800000 (fpMax c.ftz))

/-- R176: `vcvt` writes 64 packed elements of the destination format, converted one by one, and zeros above them; in STOCH mode the source
of draws moves 24 steps for every lane, active or not. -/
def Obligations.Conversion : Prop :=
  ∀ (s : State) (t : Nat) (vd va : VReg) (src dst : BitVec 5) (c : VecCtl) (el el' : Elem), s.issues t true [] →
    vcvtFormat src = some el → vcvtFormat dst = some el' → (c.pen = false → c.pg = 0 ∧ c.pz = false) →
    let x := s.tile t
    let w := el'.width
    let gives (mode : Rnd) : Prop := s.spells t (.vcvt t vd va src dst c) → ∃ u v st, exec (.vcvt t vd va src dst c) s = .next u ∧
      (∀ i, i < 64 → bits v.toNat (w * i) w =
        if x.active c i then (el'.encode ⟨mode, c.sat, c.ftz, Config.tinyAfterRounding⟩ 0 (vcvtSrc el c.ftz (x.vr va) i)).1 % 2 ^ w
        else if c.pz then 0 else bits (x.vr vd).toNat (w * i) w) ∧
      v.toNat < 2 ^ (64 * w) ∧ s.wroteV u t vd v (x.mergePoison c vd (x.vp va)) st
    (c.rmode = 0 → gives .rne) ∧ (c.rmode = 1 → gives .rtz) ∧
    (c.rmode = 2 → s.spells t (.vcvt t vd va src dst c) → ∃ u, exec (.vcvt t vd va src dst c) s = .next u ∧ (u.tile t).lfsr = lfsrSteps x.lfsr (64 * 24) ∧
      (u.tile t).pc = (x.pc + 8) % 2 ^ 64 ∧ (∀ q, q ≠ vd → (u.tile t).vr q = x.vr q) ∧ x.keepsG (u.tile t) ∧ x.keepsP (u.tile t) ∧
      (u.tile t).scratch = x.scratch ∧ s.onlyTile u t)

/-- R178: a vector load whose words SECDED finds no error in takes the 32-bit word at each active lane's address; nothing but vd changes.
R178: a vector store writes each active lane's word at its address, the highest lane's value remaining where lanes collide; every
other byte of scratch, and everything else, is as before. With PZ set, which a store does not use, it traps with ILLEGAL_INSN (R161). -/
def Obligations.VectorMemory : Prop :=
  (∀ (s : State) (t : Nat) (vd va : VReg) (ga gb : Reg) (c : VecCtl), VecCtl.plainInt c →
      let x := s.tile t
      let lanes := (List.range 64).filter (fun i => x.active c i)
      let gives (i : Instr) (regs : List Reg) (p : Bool) (off : Nat → Word) : Prop :=
        s.issues t true regs → (∀ i ∈ lanes, x.laneAddr ga off i % 4 = 0 ∧ s.inScratch t (x.laneAddr ga off i) 4 = true) →
        s.conflict t (lanes.map (fun i => ⟨x.laneAddr ga off i, 4⟩)) [] = false →
        s.spells t i → ∃ u v, exec i s = .next u ∧ x.lanesAre c vd (fun i => BitVec.ofNat 32 (leNat (memRead x.scratch (x.laneAddr ga off i) 4))) v ∧
          s.wroteV u t vd v (x.mergePoison c vd (p || lanes.any (fun i => anyPoison x.poison (x.laneAddr ga off i) 4))) 0
      gives (.vld t vd ga c .clean) [ga] (x.gp ga) (fun i => BitVec.ofNat 64 (4 * i)) ∧
      gives (.vlds t vd ga gb c .clean) [ga, gb] (x.gp ga || x.gp gb) (fun i => BitVec.ofNat 64 (i * (x.gr gb).toNat)) ∧
      gives (.vgather t vd va ga c .clean) [ga] (x.gp ga || x.vp va) (fun i => gatherOff (lane (x.vr va) i))) ∧
  (∀ (s : State) (t : Nat) (vd va : VReg) (ga gb : Reg) (c : VecCtl), VecCtl.plainInt c →
      let x := s.tile t
      let lanes := (List.range 64).filter (fun i => x.active c i)
      let gives (i : Instr) (regs : List Reg) (data : VReg) (off : Nat → Word) : Prop :=
        s.issues t true regs → (c.pz = true → s.spells t i → ∃ u, exec i s = .next u ∧ s.trapped u t .illegalInsn none x.pc) ∧
          (c.pz = false → (∀ i ∈ lanes, x.laneAddr ga off i % 4 = 0 ∧ s.inScratch t (x.laneAddr ga off i) 4 = true ∧
          x.meetsStable (x.laneAddr ga off i) 4 = false) →
        s.conflict t [] (lanes.map (fun i => ⟨x.laneAddr ga off i, 4⟩)) = false →
        s.spells t i → ∃ u, exec i s = .next u ∧
          s.wroteScratch u t (x.pc + 8) (fun a => ∀ i ∈ lanes, a < x.laneAddr ga off i ∨ x.laneAddr ga off i + 4 ≤ a) ∧
          ∀ i ∈ lanes, (∀ j ∈ lanes, i < j → x.laneAddr ga off j ≠ x.laneAddr ga off i) →
            leNat (memRead (u.tile t).scratch (x.laneAddr ga off i) 4) = (lane (x.vr data) i).toNat)
      gives (.vst t va ga c) [ga] va (fun i => BitVec.ofNat 64 (4 * i)) ∧
      gives (.vsts t va ga gb c) [ga, gb] va (fun i => BitVec.ofNat 64 (i * (x.gr gb).toNat)) ∧
      gives (.vscatter t vd va ga c) [ga] vd (fun i => gatherOff (lane (x.vr va) i)))

/-! ## Scratch: loads, stores, atomics, full/empty words (R119, R167, R169, R184) -/

/-- R167, R168: a load from scratch takes the little-endian value, sign-extended unless ZX is set; a store writes its bytes. Nothing else
changes. R121: an error that SECDED corrects in a word of the load is logged as masked and changes nothing; one that it cannot correct
is logged as detected, and poisons the word and the result.
R169: the atomics with LOCAL = 1 act on scratch at once. `lr` returns the value and sets the reservation; `sc` stores only under it and
always ends it; `amo` returns the old value, zero-extended, and leaves the new one. -/
def Obligations.ScratchAccesses : Prop :=
  (∀ (s : State) (t : Nat) (rd ra rb : Reg) (m : MemMode) (off : BitVec 13) (par : CacheParity), m.loc = true →
      let x := s.tile t
      let n := 2 ^ m.size.val
      let a := (x.gr ra + wrap64 off.toInt).toNat
      s.inScratch t a n = true →
      (s.issues t false [rd, ra] → ¬ (m.zx = true ∧ m.size = 3) → s.conflict t [⟨a, n⟩] [] = false →
        let v := leNat (memRead x.scratch a n)
        let w := if m.zx then BitVec.ofNat 64 v else wrap64 (BitVec.ofNat (8 * n) v).toInt
        (s.spells t (.load t rd ra m off par .clean) → ∃ u, exec (.load t rd ra m off par .clean) s = .next u ∧
          s.wroteG u t rd w (anyPoison x.poison a n) 0 (x.pc + 4)) ∧
        ∀ b, a / 8 ≤ b / 8 → b / 8 ≤ (a + n - 1) / 8 →
          (s.spells t (.load t rd ra m off par (.corrected b)) → s.noFold .tileMemError (quarryOf t) t →
            ∃ u, exec (.load t rd ra m off par (.corrected b)) s = .next u ∧ s.logged u .tileMemError .masked t (b / 8 * 8) 0 ∧
              (u.tile t).gr rd = (if rd = 0 then 0 else w) ∧ (u.tile t).scratch = x.scratch ∧ (u.tile t).poison = x.poison ∧
              (u.tile t).pc = (x.pc + 4) % 2 ^ 64) ∧
          (s.spells t (.load t rd ra m off par (.poisoned b)) →
            ∃ u, exec (.load t rd ra m off par (.poisoned b)) s = .next u ∧ s.logged u .tileMemError .detected t (b / 8 * 8) 1 ∧
              (∀ q, setHas (u.tile t).poison q = (decide (q = b / 8) || setHas x.poison q)) ∧ (rd ≠ 0 → (u.tile t).gp rd = true) ∧
              (u.tile t).scratch = x.scratch ∧ (u.tile t).pc = (x.pc + 4) % 2 ^ 64)) ∧
      (s.issues t false [rb, ra] → m.zx = false → x.meetsStable a n = false → s.conflict t [] [⟨a, n⟩] = false →
        s.spells t (.store t rb ra m off par) → ∃ u, exec (.store t rb ra m off par) s = .next u ∧ s.wroteScratch u t (x.pc + 4) (fun b => b < a ∨ a + n ≤ b) ∧
          memRead (u.tile t).scratch a n = leBytes n (x.gr rb).toNat)) ∧
  (∀ (s : State) (t : Nat) (rd ra rb : Reg) (m : AmoMode) (par : CacheParity), m.loc = true →
      let x := s.tile t
      let n := if m.size64 then 8 else 4
      let a := (x.gr ra).toNat
      let old := leNat (memRead x.scratch a n)
      a % n = 0 → s.inScratch t a n = true →
      (s.issues t false [rd, ra] → s.conflict t [⟨a, n⟩] [] = false →
        s.spells t (.lr t rd ra m .clean par) → ∃ u, exec (.lr t rd ra m .clean par) s = .next u ∧ (u.tile t).reservation = some (true, a / 64 * 64) ∧
          (∀ q, (u.tile t).gr q = if q = 0 then 0 else if q = rd then BitVec.ofNat 64 old else x.gr q) ∧
          (u.tile t).scratch = x.scratch ∧ (u.tile t).pc = (x.pc + 4) % 2 ^ 64 ∧ u.mem = s.mem) ∧
      (s.issues t false [rd, ra, rb] → x.meetsStable a n = false → s.conflict t [⟨a, n⟩] [⟨a, n⟩] = false →
        let held := x.reservation = some (true, a / 64 * 64)
        (s.spells t (.sc t rd ra rb m par) → ∃ u, exec (.sc t rd ra rb m par) s = .next u ∧ (u.tile t).reservation = none ∧
          (∀ q, (u.tile t).gr q = if q = 0 then 0 else if q = rd then (if held then 0 else 1) else x.gr q) ∧
          (∀ b, b < a ∨ a + n ≤ b → memGet (u.tile t).scratch b = memGet x.scratch b) ∧
          memRead (u.tile t).scratch a n = (if held then leBytes n (x.gr rb).toNat else memRead x.scratch a n) ∧
          (u.tile t).pc = (x.pc + 4) % 2 ^ 64 ∧ u.mem = s.mem) ∧
        ∀ i v, (i, v) ∈ [(Instr.amoAdd t rd ra rb m .clean par, old + (x.gr rb).toNat), (.amoSwap t rd ra rb m .clean par, (x.gr rb).toNat),
            (.amoCas t rd ra rb m .clean par, if old = (x.gr rd).toNat % 2 ^ (8 * n) then (x.gr rb).toNat else old)] →
          s.spells t i → ∃ u, exec i s = .next u ∧ (∀ q, (u.tile t).gr q = if q = 0 then 0 else if q = rd then BitVec.ofNat 64 old else x.gr q) ∧
            leNat (memRead (u.tile t).scratch a n) = v % 2 ^ (8 * n) ∧
            (∀ b, b < a ∨ a + n ≤ b → memGet (u.tile t).scratch b = memGet x.scratch b) ∧
            (u.tile t).reservation = x.reservation ∧ (u.tile t).pc = (x.pc + 4) % 2 ^ 64 ∧ s.onlyTile u t))

/-- R184, R122: tile-local full/empty words. A fill writes the value and sets the word full, and ASTAT bit 5 where it was full; a take of a
full word returns and empties it, a peek leaves it full; both wait on an empty word without moving the program counter. A peek with NW
never waits: it takes the word and writes its state to a predicate. -/
def Obligations.LocalWords : Prop :=
  ∀ (s : State) (t : Nat) (rd ra rb : Reg) (m : SyncCtl) (par : CacheParity),
    let x := s.tile t
    let a := (x.gr ra).toNat
    let isFull := setHas x.full (a / 8)
    let v := BitVec.ofNat 64 (leNat (memRead x.scratch a 8))
    a % 8 = 0 → s.inScratch t a 8 = true → m.gdev = 0 →
    (m.loc = true → m.nw = true → m.cond = 0 → s.issues t true [rd, ra] → s.conflict t [⟨a, 8⟩] [] = false →
      s.spells t (.fePeek t rd ra m .clean) → ∃ u, exec (.fePeek t rd ra m .clean) s = .next u ∧ s.onlyTile u t ∧ (u.tile t).scratch = x.scratch ∧
        (u.tile t).full = x.full ∧ (∀ q, (u.tile t).gr q = if q = 0 then 0 else if q = rd then v else x.gr q) ∧
        (∀ q, (u.tile t).pr q = if q = m.pd then (if isFull then 1 else 0) else x.pr q) ∧ (u.tile t).pc = (x.pc + 8) % 2 ^ 64) ∧
    (SyncCtl.plain m true → s.issues t true [ra, rb, 0] → x.meetsStable a 8 = false → s.conflict t [⟨a, 8⟩] [⟨a, 8⟩] = false →
      s.spells t (.feFill t ra rb m par) → ∃ u, exec (.feFill t ra rb m par) s = .next u ∧ s.onlyTile u t ∧ (u.tile t).pc = (x.pc + 8) % 2 ^ 64 ∧
        leNat (memRead (u.tile t).scratch a 8) = (x.gr rb).toNat ∧ (∀ w, setHas (u.tile t).full w = (decide (w = a / 8) || setHas x.full w)) ∧
        (∀ b, b < a ∨ a + 8 ≤ b → memGet (u.tile t).scratch b = memGet x.scratch b) ∧
        (u.tile t).astat = (if isFull then x.astat ||| 0x20#7 else x.astat) ∧ x.keepsG (u.tile t)) ∧
    (SyncCtl.plain m true → s.issues t true [rd, ra] → s.conflict t [⟨a, 8⟩] [] = false →
      (isFull = true →
        (s.spells t (.feTake t rd ra m .clean) → ∃ u, exec (.feTake t rd ra m .clean) s = .next u ∧ s.onlyTile u t ∧ (u.tile t).scratch = x.scratch ∧
          (∀ q, (u.tile t).gr q = if q = 0 then 0 else if q = rd then v else x.gr q) ∧
          (∀ w, setHas (u.tile t).full w = (decide (w ≠ a / 8) && setHas x.full w)) ∧ (u.tile t).pc = (x.pc + 8) % 2 ^ 64) ∧
        (s.spells t (.fePeek t rd ra m .clean) → ∃ u, exec (.fePeek t rd ra m .clean) s = .next u ∧ s.onlyTile u t ∧ (u.tile t).scratch = x.scratch ∧ (u.tile t).full = x.full ∧
          (∀ q, (u.tile t).gr q = if q = 0 then 0 else if q = rd then v else x.gr q) ∧ (u.tile t).pc = (x.pc + 8) % 2 ^ 64)) ∧
      (isFull = false →
        (s.spells t (.feTake t rd ra m .clean) → ∃ u, exec (.feTake t rd ra m .clean) s = .next u ∧ (u.tile t).run = .waiting .feTake ∧ (u.tile t).pc = x.pc ∧ x.keepsG (u.tile t) ∧
          (u.tile t).full = x.full) ∧
        (s.spells t (.fePeek t rd ra m .clean) → ∃ u, exec (.fePeek t rd ra m .clean) s = .next u ∧ (u.tile t).run = .waiting .fePeek ∧ (u.tile t).pc = x.pc ∧ x.keepsG (u.tile t) ∧
          (u.tile t).full = x.full)))

/-! ## Effects outside the tile (R138, R139, R152, R295) -/

/-- R138, R141: in a protected unit, with room in the commit buffer, a counter operation, an arrival and a full/empty fill outside the
tile are held: each joins the unit's held effects in program order, and nothing leaves the tile; without room it traps. An arrival
writes its result register, and of this block's object that is its phase.
R170, R294, R296: `stfence` retires and marks the next effect. With no load and no inbound move outstanding `ldfence` retires. So does
`fullfence`: in a protected unit it marks the next effect, makes the next load commit the held effects first, and later loads wait for
what was written before; unprotected, with no write outstanding either, it leaves no dirty line of device memory, unless the parity of one
takes the vein down (R233). While a load or an
inbound move is outstanding `ldfence` and `fullfence` wait. -/
def Obligations.HeldEffectsAndFences : Prop :=
  (∀ (s : State) (t : Nat) (rd ra rb : Reg) (m : SyncCtl) (par : CacheParity),
      let x := s.tile t
      let n := (x.gr ra).toNat
      let w := (x.gr rb).toNat
      x.isProtected = true → SyncCtl.plain m false →
      let dev := if m.gdev = 0 then none else some ((x.gr m.gdev).toNat % 2 ^ 16)
      let object : Prop := (if dev.isSome then decide (n < 2 ^ 14) else s.objOk t n) = true
      (s.issues t true [ra, rb, m.gdev] → object →
        (s.spells t (.sigAdd t ra rb m par) → ∃ u, exec (.sigAdd t ra rb m par) s = .next u ∧
          (if x.heldBytes + 32 ≤ 2 ^ 18 then s.heldOne u t (.sig dev n false (w % 2 ^ 32)) n false ∧ x.keepsG (u.tile t)
          else s.trapped u t .commitBufferFull none x.pc)) ∧
        (s.spells t (.sigSub t ra rb m par) → ∃ u, exec (.sigSub t ra rb m par) s = .next u ∧
          (if x.heldBytes + 32 ≤ 2 ^ 18 then s.heldOne u t (.sig dev n true (w % 2 ^ 32)) n false ∧ x.keepsG (u.tile t)
          else s.trapped u t .commitBufferFull none x.pc))) ∧
      (s.issues t true [rd, ra, m.gdev] → object → s.spells t (.barArrive t rd ra m par) → ∃ u, exec (.barArrive t rd ra m par) s = .next u ∧
        (if x.heldBytes + 16 ≤ 2 ^ 18 then s.heldOne u t (.arrive dev n none) n false ∧
          ∀ q, (u.tile t).gr q = if q = 0 then 0 else if q = rd then (if dev.isNone && (s.objView n).phase then 1 else 0) else x.gr q
        else s.trapped u t .commitBufferFull none x.pc)) ∧
      (s.issues t true [ra, rb, m.gdev] → n % 8 = 0 → ∀ g, findSeg x.segs n = some g → g.w = true → g.tagged = true →
        isHostVa n = false →
        let dst := match dev with
          | some d => Dest.remote d (g.local' n)
          | none => if g.device = s.fab.self then .device (g.local' n) true else .remote g.device (g.local' n)
        s.spells t (.feFill t ra rb m par) → ∃ u, exec (.feFill t ra rb m par) s = .next u ∧
          (if x.heldBytes + 32 ≤ 2 ^ 18 then s.heldOne u t (.fill dst w (x.gp rb)) n g.isDevice ∧ x.keepsG (u.tile t)
          else s.trapped u t .commitBufferFull none x.pc))) ∧
  (∀ (s : State) (t : Nat) (par : CacheParity), s.issues t false [] →
      let x := s.tile t
      let waits : Prop := (∃ p ∈ x.pend, p.kind ≠ .ack) ∨ (∃ m ∈ x.moves, m.ctl.outbound = false) ∨ ∃ h ∈ x.released, h.asks = true
      (s.spells t (.stfence t) → ∃ u, exec (.stfence t) s = .next u ∧ s.retired u t { x with fencePending := true }) ∧
      (s.spells t (.ldfence t) → ¬ waits → ∃ u, exec (.ldfence t) s = .next u ∧ s.retired u t x) ∧
      (s.spells t (.fullfence t par) → ¬ waits → x.isProtected = true → ∃ u, exec (.fullfence t par) s = .next u ∧ s.retired u t { x with
        fencePending := true, fullFence := x.fullFence || !x.held.isEmpty
        observe := x.observe || x.writesOut || !x.held.isEmpty }) ∧
      (s.spells t (.fullfence t par) → ¬ waits → x.isProtected = false → x.pend = [] → x.released = [] → x.storing = false → x.readsGood par →
        ∃ u, exec (.fullfence t par) s = .next u ∧ (∀ l ∈ (u.tile t).dcache, l.host = false → l.dirty = false) ∧
          (u.tile t).pc = (x.pc + 4) % 2 ^ 64 ∧ x.keepsG (u.tile t) ∧ x.keepsV (u.tile t) ∧ x.keepsP (u.tile t) ∧
          (u.tile t).astat = x.astat ∧ (u.tile t).scratch = x.scratch ∧ (u.tile t).full = x.full ∧
          ((∀ l ∈ x.dcache, l.host = false → l.dirty = false) → u.mem = s.mem ∧ s.onlyTile u t)) ∧
      (s.spells t (.fullfence t par) → ¬ waits → x.isProtected = false → ¬ x.readsGood par → ∃ u, exec (.fullfence t par) s = .next u ∧ s.parityDown u t) ∧
      (waits → (s.spells t (.ldfence t) → exec (.ldfence t) s = .next s) ∧ (s.spells t (.fullfence t par) → exec (.fullfence t par) s = .next s)))

/-- R138, R139, R151, R168, R169, R184, R228: a memory or synchronisation instruction that names device memory of this block past the data cache sends its
request to the home, under its launch's context, and awaits the answer: at once in an unprotected launch, and for what only reads in a
protected unit too; a protected `sc`, `amo` or `fe.take` is the last effect of an implicit commit, and a protected store is held. A
take and a waiting peek stop the tile at their instruction. -/
def Obligations.OutsideAccesses : Prop :=
  ∀ (s : State) (t va : Nat) (rd ra rb : Reg) (m : MemMode) (k : AmoMode) (y : SyncCtl) (off : BitVec 13) (par : CacheParity) (ecc : TileEcc) (g : Segment),
    let x := s.tile t
    let a := g.local' va
    isHostVa va = false → findSeg x.segs va = some g → g.r = true → g.w = true → g.isDevice = false → g.device = s.fab.self →
    g.tagged = true ∨ g.shared = true ∨ g.policy = 3 ∨ s.carve t = 0 ∨ x.dctl.enabled = false →
    let n := 2 ^ m.size.val
    let v := (x.gr rb).toNat
    m.loc = false → k.loc = false → y.loc = false → y.gdev = 0 → y.cond = 0 →
    (x.isProtected = true → x.acquiring = false → va = (x.gr ra + wrap64 off.toInt).toNat → va % n = 0 → m.zx = false → s.issues t false [rb, ra] →
      x.heldBytes + (16 + roundUp n 16) ≤ 2 ^ 18 → s.spells t (.store t rb ra m off par) → ∃ u, exec (.store t rb ra m off par) s = .next u ∧
        (u.tile t).held = x.held ++ [⟨.write (.device a true) (leBytes n v) (x.gp rb), va, m.mark, x.fencePending, false, false, x.pc, 16 + roundUp n 16, none⟩] ∧
        (u.tile t).released = x.released ∧ (u.tile t).pend = x.pend ∧ (u.tile t).pc = (x.pc + 4) % 2 ^ 64 ∧ x.keepsG (u.tile t) ∧
        u.pkts = s.pkts ∧ u.mem = s.mem ∧ ∀ q, q ≠ t → u.tile q = s.tile q) ∧
    (x.pend = [] → x.held = [] → x.released = [] → x.moves = [] → x.miss = none → x.dcache = [] →
      let sends (i : Instr) (r : Req) (op : PendOp) (run : Run) (pc : Nat) : Prop := s.spells t i → ∃ u, exec i s = .next u ∧
        tblFind u.pkts s.nextId = some ⟨.tile t, some (x.context.getD 0), r, x.task, false, false, 0⟩ ∧ (u.tile t).pend = [op] ∧ (u.tile t).run = run ∧
        (u.tile t).pc = pc ∧ x.keepsG (u.tile t) ∧ (u.tile t).scratch = x.scratch ∧ (u.tile t).held = [] ∧ (u.tile t).released = [] ∧ u.mem = s.mem ∧
        ∀ q, q ≠ t → u.tile q = s.tile q
      let awaits (w : PendKind) (p : PReg) (n : Nat) (zx acq : Bool) : PendOp :=
        ⟨s.nextId, w, rd, p, n, zx, List.replicate n 0, false, [(s.nextId, 0, n)], [], acq, false, x.pc, va⟩
      let on (z : Nat) : Nat := (x.pc + z) % 2 ^ 64
      let commits : Prop := x.isProtected = true ∧ x.unitDone = true ∧ s.carryCause t x.lastFiles = none
      (va = (x.gr ra + wrap64 off.toInt).toNat → va % n = 0 →
        (¬ (m.zx = true ∧ m.size = 3) → s.issues t false [rd, ra] → sends (.load t rd ra m off par ecc) (.read a n false) (awaits .load 0 n m.zx m.mark) x.run (on 4)) ∧
        (x.isProtected = false → m.zx = false → s.issues t false [rb, ra] →
          sends (.store t rb ra m off par) (.write a (leBytes n v) (x.gp rb) none) (ackOp false x.pc va s.nextId) x.run (on 4))) ∧
      (va = (x.gr ra).toNat →
        let w := if k.size64 then 8 else 4
        (va % w = 0 → s.unowned a w →
          (s.issues t false [rd, ra] → sends (.lr t rd ra k ecc par) (.lr a k.size64) (awaits .reserve 0 w true k.aq) x.run (on 4)) ∧
          (s.issues t false [rd, ra, rb] → ∀ i r z, (i, r, z) ∈ [(Instr.sc t rd ra rb k par, Req.sc a k.size64 v (x.gp rb), PendKind.cond),
              (.amoAdd t rd ra rb k ecc par, .amo a k.size64 0 (x.gr rd).toNat v (x.gp rb), .atomic),
              (.amoSwap t rd ra rb k ecc par, .amo a k.size64 1 (x.gr rd).toNat v (x.gp rb), .atomic),
              (.amoCas t rd ra rb k ecc par, .amo a k.size64 2 (x.gr rd).toNat v (x.gp rb || x.gp rd), .atomic)] →
            (x.isProtected = false → sends i r (awaits z 0 w true k.aq) x.run (on 4)) ∧
            (commits → sends i r (awaits z 0 w true k.aq) .committing (x.pc + 4)))) ∧
        (va % 8 = 0 → g.tagged = true →
          (y.nw = true → s.issues t true [rd, ra] → sends (.fePeek t rd ra y ecc) (.fePeek a true) (awaits .sample y.pd 8 true false) x.run (on 8)) ∧
          (y.nw = false → y.pd = 0 →
            (s.issues t true [rd, ra] → sends (.fePeek t rd ra y ecc) (.fePeek a false) (awaits .peek 0 8 true true) (.waiting .fePeek) x.pc ∧
              (x.isProtected = false → sends (.feTake t rd ra y ecc) (.feTake a) (awaits .take 0 8 true true) (.waiting .feTake) x.pc) ∧
              (commits → sends (.feTake t rd ra y ecc) (.feTake a) (awaits .take 0 8 true true) .committing (x.pc + 8))) ∧
            (s.issues t true [ra, rb, 0] → x.isProtected = false →
              sends (.feFill t ra rb y par) (.feFill a v (x.gp rb)) (ackOp false x.pc va s.nextId) x.run (on 8)))))) ∧
    (x.pend = [] → x.released = [] → x.moves = [] → x.miss = none → x.dcache = [] → x.isProtected = false → y.nw = false → y.pd = 0 →
      let o := (x.gr ra).toNat
      let sends (i : Instr) (r : Req) (op : PendOp) : Prop := s.spells t i → ∃ u, exec i s = .next u ∧
        tblFind u.pkts s.nextId = some ⟨.tile t, some (x.context.getD 0), r, x.task, false, false, s.opNumber (.tile t) r⟩ ∧ (u.tile t).pend = [op] ∧
        (u.tile t).pc = (x.pc + 8) % 2 ^ 64 ∧ x.keepsG (u.tile t) ∧ (u.tile t).released = [] ∧ u.mem = s.mem ∧ ∀ q, q ≠ t → u.tile q = s.tile q
      s.objOk t o = true →
        (s.issues t true [ra, rb, 0] →
          sends (.sigAdd t ra rb y par) (.flintAdd o (v % 2 ^ 32)) (ackOp false x.pc o s.nextId) ∧
          sends (.sigSub t ra rb y par) (.flintSub o (v % 2 ^ 32)) (ackOp false x.pc o s.nextId)) ∧
        (s.issues t true [rd, ra, 0] →
          sends (.barArrive t rd ra y par) (.flintArrive o) ⟨s.nextId, .arrive, rd, 0, 8, true, [], false, [(s.nextId, 0, 0)], [], false, false, x.pc, o⟩))

/-- R152, R334: the effect of a wait on a counter or a barrier outside the tile is to send its request to the object's home and stop the
tile without moving its program counter; a wait on a local counter ends at once where its threshold is reached and else stops the tile.
Nothing else of the tile, no memory and no other tile changes. -/
def Obligations.Waits : Prop :=
  ∀ (s : State) (t : Nat) (rd ra rb : Reg) (m : SyncCtl) (lc : LcNo),
    let x := s.tile t
    let n := (x.gr ra).toNat
    let waits (i : Instr) (k : WaitKind) (c : Cond) (r : Reg) : Prop := s.spells t i → ∃ u, exec i s = .next u ∧
      u.tile t = { x with
        run := .waiting k, waitSeq := some (s.nextId, s.now)
        pend := x.pend ++ [⟨s.nextId, .wait, r, 0, 8, true, [], false, [], [], true, false, x.pc, n⟩] } ∧
      (tblFind u.pkts s.nextId).map (fun p => (p.src, p.context, p.req)) = some (.tile t, x.context, .flintWait n c) ∧
      u.mem = s.mem ∧ ∀ q, q ≠ t → u.tile q = s.tile q
    (s.objOk t n = true → x.held = [] → x.acquiring = false → x.writesOut = false → m.loc = false → m.nw = false → m.pd = 0 →
      m.gdev = 0 →
      (s.issues t true [rd, ra, rb] → let v := (x.gr rb).toNat % 2 ^ 32
        (m.cond = 0 → waits (.sigWait t rd ra rb m) .sigWait (.ge v) rd) ∧ (m.cond = 1 → waits (.sigWait t rd ra rb m) .sigWait (.eq v) rd) ∧
        (m.cond = 2 → waits (.sigWait t rd ra rb m) .sigWait (.ne v) rd)) ∧
      (s.issues t true [ra, rb] → m.cond = 0 → waits (.barWait t ra rb m) .barWait (.phaseNot ((x.gr rb).getLsbD 0)) 0)) ∧
    (s.issues t true [rb] →
      ((x.gr rb).toNat % 2 ^ 32 ≤ tblGet 0 x.lc lc.val → s.spells t (.lcWait t lc rb) → ∃ u, exec (.lcWait t lc rb) s = .next u ∧
        u.tile t = { x with
          waitSeq := none, waitAddr := none, pc := (x.pc + 8) % 2 ^ 64, iplru := (u.tile t).iplru, cycle := (u.tile t).cycle
          unitCycles := (u.tile t).unitCycles } ∧ s.onlyTile u t) ∧
      (tblGet 0 x.lc lc.val < (x.gr rb).toNat % 2 ^ 32 → s.spells t (.lcWait t lc rb) → ∃ u, exec (.lcWait t lc rb) s = .next u ∧
        u.tile t = { x with run := .waiting .lcWait, waitAddr := none, waitSeq := some (x.waitSeq.getD (0, s.now)) } ∧ s.onlyTile u t))

/-! ## Fences, control registers, work units, traps (R144, R156, R170 to R172, R188) -/

/-- R156 to R159, R171: what `csrr` reads at each number and what `csrw` writes; any other number traps with CSR_ACCESS, and so does a
write of a read-only register. -/
def Obligations.ControlRegisters : Prop :=
  ∀ (s : State) (t : Nat) (rd ra : Reg) (n : BitVec 12), s.issues t false [rd] → s.issues t false [ra] →
    let x := s.tile t
    let v := x.gr ra
    let w (a : Nat) : Word := BitVec.ofNat 64 a
    let reads (a : Word) : Prop := s.spells t (.csrr t rd n) → ∃ u, exec (.csrr t rd n) s = .next u ∧ s.wroteG u t rd a false 0 (x.pc + 4)
    let writes (y : Tile) : Prop := s.spells t (.csrw t ra n) → ∃ u, exec (.csrw t ra n) s = .next u ∧ s.retired u t y
    let traps (i : Instr) : Prop := s.spells t i → ∃ u, exec i s = .next u ∧ s.trapped u t .csrAccess none x.pc
    (n = 0x000 → reads (w (s.logicalOf t))) ∧ (n = 0x001 → reads (w (s.logicalOf t - x.gridFirst))) ∧ (n = 0x002 → reads (w x.gridCount)) ∧
    (n = 0x003 → reads (w x.vein)) ∧ (n = 0x004 → reads (w (x.context.getD 0))) ∧ (n = 0x005 → reads (w s.fab.self)) ∧
    (n = 0x006 → reads (if x.isProtected then 1 else 0)) ∧ (∀ i, i < 8 → n.toNat = 0x008 + i → reads (nth 0 x.args i)) ∧
    (n = 0x010 → reads x.seed) ∧ (n = 0x018 → reads 2) ∧ (n = 0x020 → reads (w x.cycle)) ∧ (n = 0x021 → reads (w s.now)) ∧
    (n = 0x022 → reads (w x.unitCycles)) ∧
    (n = 0x030 → reads (x.astat.setWidth 64) ∧ writes { x with astat := x.astat &&& ~~~(v.setWidth 7) }) ∧
    (n = 0x031 → reads x.lfsr ∧ writes { x with lfsr := if v = 0 then 1 else v }) ∧
    (∀ i, i < 8 → n.toNat = 0x040 + i → reads (tblGet 0 x.carry i) ∧ writes { x with carry := tblPut x.carry i (v &&& carryMask) }) ∧
    (∀ i, i < 8 → n.toNat = 0x050 + i → reads (w (tblGet 0 x.lc i)) ∧ writes { x with lc := tblPut x.lc i (v.toNat % 2 ^ 32) }) ∧
    let hole : Prop := (0x032 ≤ n.toNat ∧ n.toNat < 0x040) ∨ (0x048 ≤ n.toNat ∧ n.toNat < 0x050) ∨ 0x058 ≤ n.toNat
    (n.toNat < 0x030 ∨ hole → traps (.csrw t ra n)) ∧
    (n = 0x007 ∨ (0x011 ≤ n.toNat ∧ n.toNat < 0x018) ∨ (0x019 ≤ n.toNat ∧ n.toNat < 0x020) ∨ (0x023 ≤ n.toNat ∧ n.toNat < 0x030) ∨ hole →
      traps (.csrr t rd n))

/-- R144, R155, R172: with the unit's operations done and none of its effects to be translated again, a protected `commit` or `yield` whose
carry set fits copies the registers, the carry set and the named files into the inactive checkpoint half, and `halt` the registers
alone; no effect is held any more, those that have not gone out follow in program order those released before, and the valid half stays
as it is. The tile waits for its checkpoint; its registers, scratch and files, and device memory, do not change.
R151, R230: unprotected, with no released effect waiting, `commit` and `yield` end the reservation and retire, and change nothing else but
cycle counts; `halt`, with no store waiting for its line, also leaves no dirty line of device memory and ends the tile's part of its launch,
unless the parity of a dirty line takes the vein down (R233).
R150, R172, R188, R190: `trap` records TRAP_INSN with its code in the log and in the launch, stops every tile of the grid and discards
their held effects. -/
def Obligations.UnitEnds : Prop :=
  (∀ (s : State) (t : Nat) (files : BitVec 4) (par : CacheParity), s.issues t false [] →
      let x := s.tile t
      let ended (u : State) (ck : Checkpoint) (after : Nat) : Prop :=
        (u.tile t).run = .committing ∧ (u.tile t).afterCommit = after ∧ (u.tile t).held = [] ∧ (u.tile t).reservation = none ∧
        (u.tile t).validHalf = x.validHalf ∧ (u.tile t).pc = x.pc + 4 ∧ x.keepsG (u.tile t) ∧ x.keepsV (u.tile t) ∧ x.keepsP (u.tile t) ∧
        (u.tile t).scratch = x.scratch ∧ (u.tile t).accs = x.accs ∧ u.mem = s.mem ∧ (u.tile t).released <:+ x.released ++ x.held ∧
        (if x.validHalf then (u.tile t).ckpt0 = some ck ∧ (u.tile t).ckpt1 = x.ckpt1
         else (u.tile t).ckpt1 = some ck ∧ (u.tile t).ckpt0 = x.ckpt0)
      (x.isProtected = true → x.unitDone = true → (∀ h ∈ x.held, h.retranslate = false) →
        (s.spells t (.halt t par) → ∃ u, exec (.halt t par) s = .next u ∧ ended u ({ x with carry := [] }.snapshot 0 (x.pc + 4)) 1) ∧
        (s.spells t (.commit t files) → s.carryCause t files = none →
          ∃ u, exec (.commit t files) s = .next u ∧ ended u (x.snapshot files (x.pc + 4)) 0) ∧
        (s.spells t (.yield t files) → s.carryCause t files = none →
          ∃ u, exec (.yield t files) s = .next u ∧ ended u (x.snapshot files (x.pc + 4)) 2)) ∧
      (x.isProtected = false → x.released = [] →
        let retires (u : State) : Prop := u.reservationGone t ∧ u.mem = s.mem ∧ (∀ q, q ≠ t → u.tile q = s.tile q) ∧
          u.tile t = { x with
            pc := (x.pc + 4) % 2 ^ 64, iplru := (u.tile t).iplru, cycle := (u.tile t).cycle, reservation := none, pend := (u.tile t).pend
            observe := (u.tile t).observe }
        (s.spells t (.commit t files) → ∃ u, exec (.commit t files) s = .next u ∧ retires u) ∧
        (s.spells t (.yield t files) → ∃ u, exec (.yield t files) s = .next u ∧ retires u) ∧
        (s.spells t (.halt t par) → ¬ x.readsGood par → ∃ u, exec (.halt t par) s = .next u ∧ s.parityDown u t) ∧
        (s.spells t (.halt t par) → x.storing = false → x.readsGood par → ∃ u, exec (.halt t par) s = .next u ∧ ((u.tile t).run = .halted ∨ (u.tile t).run = .none) ∧ u.reservationGone t ∧
          (∀ l ∈ (u.tile t).dcache, l.host = false → l.dirty = false) ∧ (u.tile t).pc = (x.pc + 4) % 2 ^ 64 ∧ x.keepsG (u.tile t) ∧
          (u.tile t).scratch = x.scratch))) ∧
  (∀ (s : State) (t : Nat) (code : BitVec 9), s.issues t false [] →
      s.spells t (.trap t code) → ∃ u, exec (.trap t code) s = .next u ∧ s.trapped u t .trapInsn (some code.toNat) (s.tile t).pc)

/-! ## Matrix unit, tensor mover, Mica issue (R94, R98, R104, R125, R128, R179 to R183) -/

/-- R125, R180: a valid `mma` whose operands lie in scratch, are aligned and await nothing takes the last place of the matrix queue;
nothing else changes. A full queue stalls it (R192).
R125, R90 to R92, R95, R102: the oldest queued product starts on a free grid where no earlier instruction works on its file; when it
completes, each entry of an anchored file has every term added on the grid of the anchor, a term at a time in ascending K, each entry
of an FP32 file the value of every block, and a file in AUTO takes the anchor of the product first. Only its file, and where an operand
is poisoned that mark, change; a word that SECDED cannot correct poisons the file (R121).
R125, R126: `acc.wait` retires once no operation on the named files is left, and waits till then; an operation on the conversion path
or the matrix port ends with its event. -/
def Obligations.MatrixUnit : Prop :=
  (∀ (s : State) (t : Nat) (ga gb : Reg) (m : MmaCtl), s.issues t true [ga, gb, m.gsa, m.gsb, m.gmd] →
      let x := s.tile t
      let fa := m.fmtA.toNat
      let fb := m.fmtB.toNat
      let takes (i : Instr) (sparse : Bool) : Prop :=
        let o : MmaOp := ⟨m, sparse, (x.gr ga).toNat, (x.gr gb).toNat, (x.gr m.gsa).toNat, (x.gr m.gsb).toNat, (x.gr m.gmd).toNat, x.pc⟩
        pairOk fa fb sparse = true → (hasScales fa = false → m.gsa = 0) → (hasScales fb = false → m.gsb = 0) →
        (sparse = false → m.gmd = 0) → (∀ r ∈ o.reads, r.len ≠ 0 → r.base % 64 = 0 ∧ s.inScratch t r.base r.len = true) →
        s.conflict t o.reads [] = false → s.spells t i →
        (x.matQueue.length < 4 → ∃ u, exec i s = .next u ∧ s.issuedAs u t { x with matQueue := x.matQueue ++ [.mma o] } ∧
          s.onlyTile u t) ∧
        (4 ≤ x.matQueue.length → ∃ u, exec i s = .next u ∧ (u.tile t).matQueue = x.matQueue ∧ (u.tile t).pc = x.pc ∧ s.onlyTile u t)
      takes (.mma t ga gb m) false ∧ takes (.mmaSp t ga gb m) true) ∧
  (∀ (s : State) (t : Nat) (o : MmaOp),
      let x := s.tile t
      (∀ rest, x.matQueue = .mma o :: rest → x.mmaRunning = none → x.fileRuns o.m.acc = false →
        ∃ u, exec (.mmaStart t) s = .next u ∧ s.onlyTile u t ∧ (u.tile t).mmaRunning = some o ∧ x.keepsG (u.tile t) ∧
          (x.onlyProducts → u.tile t = { x with matQueue := rest, mmaRunning := some o, gated := setDel x.gated 1 })) ∧
      (x.mmaRunning = some o →
        let f := x.acc o.m.acc
        let anchor := if f.unresolved then (o.autoAnchor x).getD 0x8000#16 else f.anchor
        let start (i : Nat) : AccEntry := tblGet {} f.entries i
        (∃ u, exec (.mmaComplete t .clean) s = .next u ∧ (u.tile t).mmaRunning = none ∧ x.keepsG (u.tile t) ∧ x.keepsV (u.tile t) ∧
          (x.onlyProducts → (u.tile t).matQueue = x.matQueue ∧ (u.tile t).scratch = x.scratch ∧
            (∀ a, a ≠ o.m.acc → (u.tile t).acc a = x.acc a) ∧
            let h := (u.tile t).acc o.m.acc
            h.poisoned = (f.poisoned || o.reads.any (fun r => anyPoison x.poison r.base r.len)) ∧ h.fp32 = f.fp32 ∧
            (f.fp32 = false → anchor ≠ 0x8000#16 → h.anchor = anchor ∧ ∀ m n, m < 64 → n < 64 →
              tblGet ({} : AccEntry) h.entries (64 * m + n) =
                (o.terms x m n).foldl (fun e v => e.term anchor.toInt v) (start (64 * m + n))) ∧
            (f.fp32 = true → ∀ m n, m < 64 → n < 64 → tblGet ({} : AccEntry) h.entries (64 * m + n) =
              ((List.range (o.k / 32)).map (fun b => o.blockValue x m n b)).foldl AccEntry.addFp (start (64 * m + n))))) ∧
        (x.onlyProducts → ∀ r ∈ o.reads, ∀ b, r.len ≠ 0 → r.base / 8 ≤ b / 8 → b / 8 ≤ (r.base + r.len - 1) / 8 →
          ∃ u, exec (.mmaComplete t (.poisoned b)) s = .next u ∧ s.noted u .tileMemError .detected t (b / 8 * 8) 1 ∧
            (u.tile t).mmaRunning = none ∧ ((u.tile t).acc o.m.acc).poisoned = true ∧ setHas (u.tile t).poison (b / 8) = true))) ∧
  (∀ (s : State) (t slot : Nat) (files : BitVec 4),
      let x := s.tile t
      (s.issues t true [] → s.spells t (.accWait t files) →
        ((∀ a : AccNo, files.getLsbD a.val = true → x.fileFree a = true) →
          ∃ u, exec (.accWait t files) s = .next u ∧ s.issuedAs u t x ∧ s.onlyTile u t) ∧
        (∀ a : AccNo, files.getLsbD a.val = true → x.fileFree a = false →
          ∃ u, exec (.accWait t files) s = .next u ∧ (u.tile t).pc = x.pc ∧ (u.tile t).accs = x.accs ∧ x.keepsG (u.tile t) ∧
            s.onlyTile u t)) ∧
      ((∃ o ∈ x.accOps, o.slot = slot) → x.onlyProducts → ∃ u, exec (.accOpComplete t slot) s = .next u ∧
        (u.tile t).accOps = x.accOps.filter (fun o => o.slot != slot) ∧ (u.tile t).accs = x.accs ∧ (u.tile t).scratch = x.scratch ∧
        (u.tile t).matQueue = x.matQueue ∧ x.keepsG (u.tile t) ∧ u.mem = s.mem))

/-- R91, R92: a finite term is rounded once, half to even on its magnitude, to an integer q on the grid of the anchor. An entry becomes
N + q, clamped with OVF set where that, or q alone, is out of range; OVF stays set and T does not change.
R99: with OVF clear throughout, an entry's N and T depend only on the set of its terms: adding two finite terms in either order
gives the same entry. -/
def Obligations.TermSums : Prop :=
  (∀ (e : AccEntry) (anchor : Int) (neg : Bool) (m : Nat) (x : Int),
      let r := e.term anchor (.fin neg m x)
      ∃ q : Nat, (anchor ≤ x → q = m * 2 ^ (x - anchor).toNat) ∧
        (x < anchor → let d := 2 ^ (anchor - x).toNat
          2 * (q * d) ≤ 2 * m + d ∧ 2 * m ≤ 2 * (q * d) + d ∧ (2 * (q * d) = 2 * m + d ∨ 2 * m = 2 * (q * d) + d → q % 2 = 0)) ∧
        let v : Int := if neg then -(q : Int) else q
        r.tag = e.tag ∧ (e.ovf = true → r.ovf = true) ∧
        (2 ^ 127 ≤ q → r.n = (if neg then -(2 ^ 127) else 2 ^ 127 - 1) ∧ r.ovf = true) ∧
        (q < 2 ^ 127 →
          (-(2 ^ 127) ≤ e.n + v ∧ e.n + v < 2 ^ 127 → r.n = e.n + v ∧ r.ovf = e.ovf) ∧
          (e.n + v < -(2 ^ 127) → r.n = -(2 ^ 127) ∧ r.ovf = true) ∧ (2 ^ 127 ≤ e.n + v → r.n = 2 ^ 127 - 1 ∧ r.ovf = true))) ∧
  (∀ (e : AccEntry) (anchor : Int) (a b : Machine.Num), ((e.term anchor a).term anchor b).ovf = false → ((e.term anchor b).term anchor a).ovf = false →
      (e.term anchor a).term anchor b = (e.term anchor b).term anchor a)

/-- R125, R192: an `acc` instruction joins the matrix queue behind an unfinished operation on its file, and stalls where the queue is
full; otherwise it starts at once.
R94, R96 to R98: `acc.anchor` sets mode and anchor and clears the file; `acc.store` writes its 67,600-byte image and nothing else;
`acc.load` without the add option takes mode, anchor, N, OVF and T from an image, and with it adds an image of the file's anchor.
R104, R112, R113, R181: `acc.cvt` writes each entry of its rows, rounded once, element by element from its destination; for a target
with a shared scale a block of 32 entries, along a row or down a column, takes one scale byte. It sets ASTAT bit 4 where it converts an
entry with OVF; nothing else of the tile's registers or scratch changes, and the file is as before. -/
def Obligations.AccumulatorFiles : Prop :=
  (∀ (s : State) (t : Nat) (ga : Reg) (acc : AccNo) (fp32 add : Bool) (anchor : BitVec 16),
      let x := s.tile t
      let a := (x.gr ga).toNat
      let r : Range := ⟨a, 67600⟩
      let f := x.acc acc
      let joins (i : Instr) (work : AccWork) (reads writes : List Range) : Prop :=
        (x.fileFree acc = false → x.matQueue.length < 4 → ∃ u, exec i s = .next u ∧ s.onlyTileNumbered u t ∧
          s.issuedAs u t { x with matQueue := x.matQueue ++ [.acc ⟨s.nextId, acc, work, reads, writes, x.lfsr⟩] }) ∧
        (4 ≤ x.matQueue.length → ∃ u, exec i s = .next u ∧ (u.tile t).matQueue = x.matQueue ∧ (u.tile t).accs = x.accs ∧
          (u.tile t).pc = x.pc ∧ s.onlyTile u t)
      x.onlyProducts →
      (s.issues t true [] → (fp32 = true → anchor = 0) → s.spells t (.accAnchor t acc fp32 anchor) →
        joins (.accAnchor t acc fp32 anchor) (.anchor fp32 anchor) [] [] ∧
        (x.fileFree acc = true → x.matQueue.length < 4 →
          ∃ u, exec (.accAnchor t acc fp32 anchor) s = .next u ∧ s.onlyTileNumbered u t ∧ ((u.tile t).acc acc).fp32 = fp32 ∧
            ((u.tile t).acc acc).anchor = anchor ∧ (∀ i, tblGet ({} : AccEntry) ((u.tile t).acc acc).entries i = {}) ∧
            (∀ b, b ≠ acc → (u.tile t).acc b = x.acc b) ∧ (u.tile t).matQueue = x.matQueue ∧ x.keepsG (u.tile t) ∧
            (u.tile t).scratch = x.scratch ∧ (u.tile t).pc = (x.pc + 8) % 2 ^ 64)) ∧
      (s.issues t true [ga] → s.inScratch t a 67600 = true →
        (x.meetsStable a 67600 = false → s.conflict t [] [r] = false → s.spells t (.accStore t ga acc) →
          joins (.accStore t ga acc) .store [] [r] ∧
          (x.fileFree acc = true → x.matQueue.length < 4 →
            ∃ u, exec (.accStore t ga acc) s = .next u ∧ s.onlyTileNumbered u t ∧ (u.tile t).accs = x.accs ∧ x.keepsG (u.tile t) ∧
              (u.tile t).pc = (x.pc + 8) % 2 ^ 64 ∧
              (∀ b, b < a ∨ a + 67600 ≤ b → memGet (u.tile t).scratch b = memGet x.scratch b) ∧
              (∀ i, i < 4096 → leNat (memRead (u.tile t).scratch (a + 16 * i) 16) =
                if f.unresolved then 0 else ((tblGet ({} : AccEntry) f.entries i).n % 2 ^ 128).toNat) ∧
              leNat (memRead (u.tile t).scratch (a + 0x10800) 2) = f.anchor.toNat ∧
              memGet (u.tile t).scratch (a + 0x10802) = (if f.fp32 then 1 else 0))) ∧
        (s.conflict t [r] [] = false → s.spells t (.accLoad t ga acc add .clean) →
          let mode := (memGet x.scratch (a + 0x10802)).getLsbD 0
          let image := leNat (memRead x.scratch (a + 0x10800) 2)
          let n (i : Nat) : Nat := leNat (memRead x.scratch (a + 16 * i) 16)
          let fl (i : Nat) : Nat := (memGet x.scratch (a + 0x10000 + i / 2)).toNat / (if i % 2 = 0 then 1 else 16)
          joins (.accLoad t ga acc add .clean) (.load add) [r] [] ∧
          (x.fileFree acc = true → x.matQueue.length < 4 →
            ∃ u, exec (.accLoad t ga acc add .clean) s = .next u ∧ s.onlyTileNumbered u t ∧ (u.tile t).scratch = x.scratch ∧
              x.keepsG (u.tile t) ∧ (u.tile t).pc = (x.pc + 8) % 2 ^ 64 ∧ (∀ b, b ≠ acc → (u.tile t).acc b = x.acc b) ∧
              let h := (u.tile t).acc acc
              let e (i : Nat) : AccEntry := tblGet {} h.entries i
              let e0 (i : Nat) : AccEntry := tblGet {} f.entries i
              (add = false → h.fp32 = mode ∧ h.anchor.toNat = image ∧
                (∀ i, i < 4096 → (e i).ovf = bit (fl i) 2 ∧ (e i).tag.toNat = fl i % 4) ∧
                (∀ i, i < 4096 → mode = false → image ≠ 0x8000 → (e i).n % 2 ^ 128 = (n i : Int))) ∧
              (add = true → f.fp32 = false → f.anchor ≠ 0x8000#16 → mode = false → image = f.anchor.toNat →
                h.fp32 = false ∧ h.anchor = f.anchor ∧ ∀ i, i < 4096 →
                  let v := toSigned 128 (n i)
                  (e i).tag = mergeTag (e0 i).tag (BitVec.ofNat 2 (fl i)) ∧
                  (-(2 ^ 127) < v → -(2 ^ 127) ≤ (e0 i).n + v → (e0 i).n + v < 2 ^ 127 →
                    (e i).n = (e0 i).n + v ∧ (e i).ovf = ((e0 i).ovf || bit (fl i) 2))))))) ∧
  (∀ (s : State) (t : Nat) (ga gb : Reg) (m : CvtCtl) (f : Fmt), s.issues t true [ga, gb] →
      let x := s.tile t
      let a := (x.gr ga).toNat
      let b := (x.gr gb).toNat
      let w := 1 + f.eb + f.mb
      let rows := m.rowsM1.toNat + 1
      let first := m.rowFirst.toNat
      let len := 8 * w * rows
      let scales := if mxTarget m.fmt.toNat then (if m.colblk then 64 * (rows / 32) else 2 * rows) else 0
      let file := x.acc m.acc
      cvtTarget m.fmt.toNat = some f → (if mxTarget m.fmt.toNat then gb ≠ 0 else gb = 0 ∧ m.colblk = false) →
      (m.colblk = true → (first = 0 ∨ first = 32) ∧ (rows = 32 ∨ rows = 64)) →
      first + m.rowsM1.toNat ≤ 63 → s.inScratch t a len = true → x.meetsStable a len = false →
      (scales ≠ 0 → s.inScratch t b scales = true ∧ x.meetsStable b scales = false ∧ (a + len ≤ b ∨ b + scales ≤ a)) →
      s.conflict t [] [⟨a, len⟩, ⟨b, scales⟩] = false → x.onlyProducts → x.fileFree m.acc = true → x.matQueue.length < 4 →
      s.spells t (.accCvt t ga gb m) →
      let out (u : State) (r n : Nat) : Nat := bits (leNat (memRead (u.tile t).scratch a len)) (w * (64 * r + n)) w
      let frame (u : State) : Prop := s.onlyTileNumbered u t ∧ (u.tile t).accs = x.accs ∧ x.keepsG (u.tile t) ∧
        (u.tile t).pc = (x.pc + 8) % 2 ^ 64 ∧
        (∀ q, (q < a ∨ a + len ≤ q) → (q < b ∨ b + scales ≤ q) → memGet (u.tile t).scratch q = memGet x.scratch q) ∧
        (u.tile t).astat = (if (List.range (64 * rows)).any (fun i => file.reports (64 * first + i)) then x.astat ||| 0x10#7 else x.astat)
      let gives (mode : Rnd) : Prop := ∃ u, exec (.accCvt t ga gb m) s = .next u ∧ frame u ∧ (u.tile t).lfsr = x.lfsr ∧
        (mxTarget m.fmt.toNat = false → ∀ r n, r < rows → n < 64 →
          let i := 64 * (first + r) + n
          (file.fp32 = true → f = fmtFP32 → m.ftz = false → out u r n = (tblGet ({} : AccEntry) file.entries i).n.toNat % 2 ^ 32) ∧
          (file.fp32 = false ∨ f ≠ fmtFP32 → out u r n = (f.encode ⟨mode, m.sat, m.ftz, false⟩ 0 (file.source i)).1 % 2 ^ w)) ∧
        (mxTarget m.fmt.toNat = true → ∀ r n, r < rows → n < 64 →
          let blk := mxBlock f (mxEmax m.fmt.toNat) ⟨mode, m.sat, m.ftz, false⟩ ((List.range 32).map (fun i =>
            (file.source (if m.colblk then 64 * (first + (32 * (r / 32) + i)) + n else 64 * (first + r) + (32 * (n / 32) + i)), 0)))
          out u r n = nth 0 blk.2 (if m.colblk then r % 32 else n % 32) % 2 ^ w ∧
          memGet (u.tile t).scratch (b + if m.colblk then 64 * (r / 32) + n else 2 * r + n / 32) = BitVec.ofNat 8 blk.1)
      (m.rmode = 0 → gives .rne) ∧ (m.rmode = 1 → gives .rtz) ∧
      (m.rmode = 2 → ∃ u, exec (.accCvt t ga gb m) s = .next u ∧ frame u ∧ (u.tile t).lfsr = lfsrSteps x.lfsr (24 * (64 * rows))))

/-- R128, R129, R138, R141, R182: a valid `tmove` whose descriptor SECDED finds no error in reads it, and is outstanding from then on. Inbound,
from device memory of this block, it takes the bytes of its runs; outbound, in a protected unit whose commit buffer has room for every
run, its converted source bytes join the held effects in order; in an unprotected launch, with nothing waiting before them, its writes
have all gone out. With SIZE0 = 0 it adds 1 to its counter and is over. It writes no scratch and no scalar register.
R129, R182: a completed move, an unprotected outbound one only once its last write is on its way, leaves the outstanding ones and adds 1
to its counter; it writes no scalar or vector register and no device memory. An outbound one writes no scratch. An inbound one, all of
whose bytes came from device memory, lands its converted runs and changes no other byte; with FESET the words they reach become full. -/
def Obligations.TensorMoves : Prop :=
  (∀ (s : State) (t : Nat) (ga : Reg) (c : TmoveCtl) (par : CacheParity), s.issues t true [ga] →
      let x := s.tile t
      let a := (x.gr ga).toNat
      let d := readDesc x.scratch a
      let n := nth 0 d.size 0
      let f := c.srcFmt.toNat
      let g := c.dstFmt.toNat
      let lf := if c.outbound then f else g
      let loc := runBytes n lf
      let len := runBytes n (if c.outbound then g else f)
      let ps := s.moveParts t d.runs len c.outbound
      let r : Range := (⟨0, c, d.local', d.size, d.localStride, x.pc, 0, [], [], [], [], false⟩ : Move).localRange (fmtWidth lf)
      let lands (u : State) : Prop := (u.tile t).scratch = x.scratch ∧ x.keepsG (u.tile t) ∧ (u.tile t).pc = (x.pc + 8) % 2 ^ 64
      (c.outbound = true → c.feset = false) → c.rmode ≠ 3 → (f = g → c.rmode = 0 ∧ c.sat = false ∧ c.ftz = false) → f ≠ 15 → g ≠ 15 →
      (f ≠ g → f ≤ 6 ∧ g ≤ 6) → a % 64 = 0 → s.inScratch t a 64 = true → s.conflict t [⟨a, 64⟩] [] = false → d.reservedOk = true →
      (∀ v ∈ d.size.drop 1, v ≠ 0) → countOk n f = true → countOk n g = true →
      (∀ q ∈ d.runs, s.inScratch t q.2 loc = true ∧ (c.outbound = false → x.meetsStable q.2 loc = false)) →
      let i : Instr := .tmove t ga c .clean noDramFinding par
      s.spells t i →
      (n = 0 → ∃ u, exec i s = .next u ∧ lands u ∧ u.mem = s.mem ∧ (u.tile t).moves = x.moves ∧
        ∀ i, tblGet 0 (u.tile t).lc i = if i = c.lc.val then (tblGet 0 x.lc i + 1) % 2 ^ 32 else tblGet 0 x.lc i) ∧
      (0 < n → x.moves.length < 16 → x.acquiring = false →
        s.conflict t (if c.outbound then [r] else []) (if c.outbound then [] else [r]) = false →
        (c.outbound = false → (x.isProtected = true → x.fullFence = false ∨ x.held = []) → x.observing = false →
          ((∃ p ∈ ps, p.isDevice = true) → x.deviceOut = false) →
          (∀ p ∈ ps, ∃ la, p.dst = some (.device la true) ∧ s.rangePass x.context la p.len = true ∧ s.hostHeld la p.len false = [] ∧
            ∀ i, i < p.len → s.inFlight t (.device (la + i) true) = false ∧ x.ownByte (.device (la + i) true) = none) →
          ∃ u m, exec i s = .next u ∧ lands u ∧ u.mem = s.mem ∧ (u.tile t).moves = x.moves ++ [m] ∧ (u.tile t).lc = x.lc ∧ m.ctl = c ∧
            m.local' = d.local' ∧ m.size = d.size ∧ m.localStride = d.localStride ∧ m.hosts = [] ∧ m.gets = [] ∧ m.overlay = [] ∧
            m.buf = ((ps.map (fun p => match p.dst with
              | some (.device la _) => s.readFlagged la p.len
              | _ => [])).flatten).take (len * d.runs.length)) ∧
        (c.outbound = true → (∀ p ∈ ps, ∃ dst, p.dst = some dst ∧ ∀ i, i < p.len → s.inFlight t (dst.at i) = false) →
          let moves := x.moves ++ [(⟨s.nextId, c, d.local', d.size, d.localStride, x.pc, x.lfsr, [], [], [], [], false⟩ : Move)]
          let cvt := if f = g then none else TmoveCvt c
          (x.isProtected = true → x.heldBytes + d.runs.length * runCost len ≤ 2 ^ 18 →
            ∃ u hs, exec i s = .next u ∧ lands u ∧ u.mem = s.mem ∧ (u.tile t).moves = moves ∧ (u.tile t).lc = x.lc ∧
              (u.tile t).held = x.held ++ hs ∧ (∀ h ∈ hs, h.move = some s.nextId) ∧
              hs.flatMap (fun h => h.eff.data) = ((convertRuns cvt n x.lfsr (d.runs.map (fun q => x.readBytes q.2 loc))).2.flatten).map (·.1)) ∧
          (x.isProtected = false → (x.fencePending = true → x.storing = false ∧ x.readsGood par) → (∀ p ∈ ps, ∀ dst, p.dst = some dst → s.loadInFlight t dst p.len = false) →
            ((∃ p ∈ ps, p.isDevice = true) → x.deviceOut = false) →
            ∃ u, exec i s = .next u ∧ lands u ∧ (u.tile t).moves = moves ∧ (u.tile t).lc = x.lc ∧
              (x.released = [] → x.fencePending = false → (∀ p ∈ ps, p.isDevice = false) → (u.tile t).released = []))))) ∧
  (∀ (s : State) (t slot : Nat) (h : HostData) (m : Move),
      let x := s.tile t
      let n := nth 0 m.size 0
      let runs := (⟨0, m.local', m.size, [0, 0, 0], m.localStride, true⟩ : MoveDesc).runs
      let len := runBytes n m.ctl.srcFmt.toNat
      x.moves.find? (fun m => m.slot == slot) = some m →
      let ends (u : State) : Prop := exec (.tmoveComplete t slot h) s = .next u ∧ (u.tile t).moves = x.moves.filter (fun y => y.slot != slot) ∧
        (∀ i, tblGet 0 (u.tile t).lc i = if i = m.ctl.lc.val then (tblGet 0 x.lc i + 1) % 2 ^ 32 else tblGet 0 x.lc i) ∧
        x.keepsG (u.tile t) ∧ x.keepsV (u.tile t) ∧ u.mem = s.mem ∧ (u.tile t).pc = x.pc
      (m.ctl.outbound = true → x.isProtected = true ∨ (∀ h ∈ x.released, h.move ≠ some slot) → ∃ u, ends u ∧ (u.tile t).scratch = x.scratch) ∧
      (m.ctl.outbound = false → (∀ q ∈ m.gets, ∃ r, tblFind s.rsps q.1 = some r ∧ r.st = .ok) →
        (∀ q ∈ m.hosts, s.answersAt q.2.2.2 h = true ∧ ∃ bs p, h = .data bs p) → ∃ u, ends u ∧
          (m.hosts = [] → m.gets = [] → m.overlay = [] → m.buf.length = len * runs.length →
            let cvt := if m.ctl.srcFmt = m.ctl.dstFmt then none else TmoveCvt m.ctl
            let parts := (convertRuns cvt n m.seed (runs.zipIdx.map (fun r => (m.buf.drop (r.2 * len)).take len))).2
            let run (i : Nat) : Range := ⟨(nth (0, 0) runs i).2, (nth [] parts i).length⟩
            (∀ b, (∀ i, i < runs.length → b < (run i).base ∨ (run i).base + (run i).len ≤ b) → memGet (u.tile t).scratch b = memGet x.scratch b) ∧
            (∀ i, i < runs.length → (∀ j, j < runs.length → j ≠ i → (run j).base + (run j).len ≤ (run i).base ∨ (run i).base + (run i).len ≤ (run j).base) →
              memRead (u.tile t).scratch (run i).base (run i).len = (nth [] parts i).map (·.1)) ∧
            (m.ctl.srcFmt = m.ctl.dstFmt → ∀ i, i < runs.length → nth [] parts i = (m.buf.drop (i * len)).take len) ∧
            (∀ w, setHas (u.tile t).full w = (setHas x.full w || (m.ctl.feset && (List.range runs.length).any (fun i =>
              (wordsOf (run i).base (run i).len).contains w)))))))

/-- R183, R215, R220, R221: a Mica command that passes its checks enters the queue of every member stack, and counts among the tile's four;
one with a memory destination is held in a protected unit, and enters the queues of an unprotected tile that has nothing under way. A
queue's command enters the same queues.
R206, R209, R213, R215: where nothing of its tile comes before it, an idle stack takes the oldest command of its queue; a block sum with no
error found adds its row's next term, once rounded, to the row's accumulator and touches no memory; a residue failure is logged as masked,
and changes no accumulator.
R183, R207, R213: the end of a command with a tile-local output writes its results there and nowhere else, adds 1 to its counter and
frees its place; the end of a tile's command into memory adds 1 to its counter; a queue's command ends its task. Results that go to
device memory which no tile owns stand there, and every other byte is as before. -/
def Obligations.MicaCommands : Prop :=
  (∀ (s : State) (t k : Nat) (ga : Reg) (lc : LcNo) (y : Task) (c : MicaBlock) (par : CacheParity),
      let x := s.tile t
      let a := (x.gr ga).toNat
      let b := parseMica (memRead x.scratch a 64)
      let room (b : MicaBlock) : Prop := ∀ q ∈ b.members, (tblGet [] s.mica.queue q).length < 16
      let enters (u : State) (b : MicaBlock) : Prop := ∀ q, tblGet [] u.mica.queue q =
        if q ∈ b.members then tblGet [] s.mica.queue q ++ [s.nextId] else tblGet [] s.mica.queue q
      (s.issues t true [ga] → a % 64 = 0 → s.inScratch t a 64 = true → s.conflict t [⟨a, 64⟩] [] = false → s.micaCause (some t) x.segs b = none →
        x.micas.length < 4 → s.conflict t b.localReads b.localWrites = false →
        s.spells t (.micaGemv t ga lc .clean par) →
        (b.outLocal = true → room b → ∃ u, exec (.micaGemv t ga lc .clean par) s = .next u ∧ enters u b ∧
          tblFind u.mica.cmds s.nextId = some { mkMica b (x.context.getD 0) x.segs (some t) x.task lc.val (x.micaActs b) with
            ahead := x.released.length, limit := s.nextId + 1 } ∧
          s.issuedAs u t { x with micas := x.micas ++ [(s.nextId, lc.val, true)] } ∧ u.mem = s.mem) ∧
        (b.outLocal = false → x.isProtected = false → room b → x.pend = [] → x.released = [] → x.moves = [] → x.miss = none → x.fencePending = false →
          ∃ u, exec (.micaGemv t ga lc .clean par) s = .next u ∧ enters u b ∧ (u.tile t).micas = x.micas ++ [(s.nextId, lc.val, false)] ∧
            (u.tile t).released = [] ∧ (u.tile t).pc = (x.pc + 8) % 2 ^ 64 ∧ x.keepsG (u.tile t) ∧ (u.tile t).scratch = x.scratch ∧ u.mem = s.mem) ∧
        (b.outLocal = false → x.isProtected = true → x.heldBytes + 80 ≤ 2 ^ 18 → ∃ u, exec (.micaGemv t ga lc .clean par) s = .next u ∧
          u.mica.queue = s.mica.queue ∧ (u.tile t).micas = x.micas ++ [(s.nextId, lc.val, false)] ∧
          (u.tile t).held = x.held ++ [⟨.mica s.nextId, b.outVa, false, x.fencePending, false, false, x.pc, 80, none⟩] ∧ x.keepsG (u.tile t) ∧ u.mem = s.mem)) ∧
      (s.task? k = some y → y.phase = .dispatched → y.body = .mica c → room c → ∃ u, exec (.queueMicaGemv k) s = .next u ∧ enters u c ∧
        tblFind u.mica.cmds s.nextId = some { mkMica c y.context y.segs none (some k) 0 [] with limit := s.nextId + 1 } ∧ u.task? k = some { y with phase := .running } ∧
        u.tiles = s.tiles ∧ u.mem = s.mem)) ∧
  (∀ (s : State) (stack id row bank : Nat) (rest : List Nat) (c : MicaCmd), tblFind s.mica.cmds id = some c →
      (tblGet [] s.mica.queue stack = id :: rest → tblFind s.mica.running stack = none → s.noMicaWaits → s.sourcesHeld = false →
        (c.started = [] → ∀ t, c.issuer = some t → c.ahead = 0 ∧ ∀ p ∈ (s.tile t).pend, p.reads = true ∨ c.limit ≤ p.id) →
        (∀ r ∈ c.block.outerReads, ∀ p ∈ c.device r.1 r.2, s.hostHeld p.1 p.2 false = []) → (c.started = [] → s.micaRefused c = none) →
        ∃ u d, exec (.micaStreamStart stack noDramFinding) s = .next u ∧ tblGet [] u.mica.queue stack = rest ∧ tblFind u.mica.cmds id = some d ∧
          setHas d.started stack = true ∧ (tblFind u.mica.running stack = some id ∨ setHas d.done stack = true) ∧
          (c.started = [] → d.acts = s.micaActs c) ∧ d.block = c.block ∧ d.acc = c.acc ∧ u.mem = s.mem ∧ u.tiles = s.tiles) ∧
      (row < c.block.m → tblGet 0 c.nextTerm row < c.block.terms →
        tblFind s.mica.running (nth 8 c.block.members (c.block.memberOf row)) = some id →
        ∃ u d, exec (.micaBlockSum id row noDramFinding) s = .next u ∧ tblFind u.mica.cmds id = some d ∧
          (∀ r, tblGet ({} : AccEntry) d.acc r = if r = row then (tblGet ({} : AccEntry) c.acc row).term c.block.anchor.toInt (s.micaTerm c row (tblGet 0 c.nextTerm row)).1
            else tblGet ({} : AccEntry) c.acc r) ∧
          tblGet 0 d.nextTerm row = tblGet 0 c.nextTerm row + 1 ∧ u.mem = s.mem ∧ u.tiles = s.tiles) ∧
      ((tblFind s.mica.running stack).isSome = true → s.recent (tblGet [] s.mica.residue (stack * 1024 + bank)) = [] →
        s.noFold .micaResidue stack bank →
        ∃ u, exec (.micaResidueFail stack bank row) s = .next u ∧ s.logged u .micaResidue .masked bank row 1 ∧
          u.mica.cmds = s.mica.cmds ∧ u.mem = s.mem ∧ u.qry = s.qry)) ∧
  (∀ (s : State) (id t k : Nat) (c : MicaCmd), tblFind s.mica.cmds id = some c → (∀ q ∈ c.block.members, setHas c.done q = true) →
      s.sourcesHeld = false →
      let b := c.block
      let x := s.tile t
      let out := c.results (if b.mode = 2 then x.readBytes b.outVa b.outLen else [])
      let clear : Prop := ∀ p ∈ c.device b.outVa b.outLen, s.hostHeld p.1 p.2 true = [] ∧ s.inTxn p.1 p.2 = false ∧ s.lockedFor none p.1 p.2 = false
      let writes (u : State) : Prop := ∀ a, b.mode ≠ 2 → 0 < out.length → isHostVa b.outVa = false → s.rangePass (some c.context) a out.length = true →
        s.unowned a out.length → (∀ i, i < out.length → ∃ g, s.reach (.mica id) c.context c.segs (b.outVa + i) true = .to (.device (a + i) true) g) →
        s.stored u a (out.map (·.1))
      (c.tile = some t → b.outLocal = true → ∃ u, exec (.micaCommandComplete id noDramFinding) s = .next u ∧ tblFind u.mica.cmds id = none ∧
        memRead (u.tile t).scratch b.outVa out.length = out.map (·.1) ∧
        (∀ a, a < b.outVa ∨ b.outVa + out.length ≤ a → memGet (u.tile t).scratch a = memGet x.scratch a) ∧
        (∀ i, tblGet 0 (u.tile t).lc i = if i = c.lc then (tblGet 0 x.lc i + 1) % 2 ^ 32 else tblGet 0 x.lc i) ∧
        (u.tile t).micas = x.micas.filter (fun m => m.1 != id) ∧ x.keepsG (u.tile t) ∧ u.mem = s.mem) ∧
      (c.tile = some t → b.outLocal = false → clear →
        ∃ u, exec (.micaCommandComplete id noDramFinding) s = .next u ∧ tblFind u.mica.cmds id = none ∧ x.keepsG (u.tile t) ∧
          (u.tile t).scratch = x.scratch ∧ writes u ∧
          ∀ i, tblGet 0 (u.tile t).lc i = if i = c.lc then (tblGet 0 x.lc i + 1) % 2 ^ 32 else tblGet 0 x.lc i) ∧
      (c.tile = none → c.task = some k → (s.task? k).isSome = true → clear →
        ∃ u y, exec (.micaCommandComplete id noDramFinding) s = .next u ∧ tblFind u.mica.cmds id = none ∧ u.task? k = some y ∧
          (y.phase = .ended ∨ y.phase = .due) ∧ writes u))

/-! ## Launches and the tile's own events (R132 to R152, R186) -/

/-- R132, R135, R136: a launch names its grid, and starts once every tile of the grid is free: each tile starts at the entry address with
registers, predicates, counters, accumulators and status cleared, and its scratch zeroed where the context is another.
R134: the stable region takes the bytes of its source, every word full, before the first instruction; no other byte changes.
R142, R144, R152: an acknowledged checkpoint becomes the valid half and the next unit starts, or the tile has halted; a unit past
50,000 cycles traps with UNIT_TOO_LONG; an idle unit's clock is gated. -/
def Obligations.Launches : Prop :=
  (∀ (s : State) (k : Nat) (y : Task) (b : LaunchBody), s.task? k = some y → y.body = .launch b → y.phase = .dispatched →
      (∃ u z, exec (.launch k) s = .next u ∧ u.task? k = some z ∧ z = { y with tiles := z.tiles } ∧ u.tiles = s.tiles ∧ u.mem = s.mem ∧
        ∀ v, s.vein? y.vein = some v → z.tiles = (List.range b.gridCount).map (fun i => v.tileFirst + b.gridFirst + i)) ∧
      (y.tiles ≠ [] → s.launchHeld y.vein = false → s.heldBack k y = false →
        (∀ l ∈ y.tiles, ∃ t, s.served l = some t ∧ (s.tile t).task = none ∧ (s.tile t).role = .mapped) →
        ∃ u z, exec (.launchDispatch k) s = .next u ∧ u.task? k = some z ∧ z.phase = .running ∧
          ∀ l ∈ y.tiles, ∀ t, s.served l = some t → let x := u.tile t
            x.task = some k ∧ x.pc = b.entry ∧ (∀ r, x.gr r = 0) ∧ (∀ r, x.vr r = 0) ∧ (∀ r, x.pr r = 0) ∧ (∀ i, tblGet 0 x.lc i = 0) ∧
            x.accs = [] ∧ x.astat = 0 ∧ x.context = some y.context ∧ x.isProtected = s.launchProt y b ∧ x.held = [] ∧
            x.run = (if b.stableLen = 0 then .running else .filling) ∧
            ((s.tile t).context ≠ some y.context → x.scratch = [] ∧ x.full = [] ∧ x.poison = [] ∧ x.dcache = []) ∧
            ((s.tile t).context = some y.context → x.scratch = (s.tile t).scratch))) ∧
  (∀ (s : State) (t : Nat) (r : Range),
      let x := s.tile t
      x.run = .filling → x.stable = some r →
      (∀ p ∈ s.stableParts t, p.2.2.2 = true ∧ s.hostHeld p.2.1 p.2.2.1 false = []) →
      ∃ u, exec (.stableRegionFilled t noDramFinding) s = .next u ∧ (u.tile t).run = .running ∧
        (∀ p ∈ s.stableParts t, ∀ i, i < p.2.2.1 → memGet (u.tile t).scratch (r.base + p.1 + i) = s.latestByte (p.2.1 + i)) ∧
        (∀ b, b < r.base ∨ r.base + r.len ≤ b → memGet (u.tile t).scratch b = memGet x.scratch b) ∧
        (∀ w, w ∈ wordsOf r.base r.len → setHas (u.tile t).full w = true) ∧ x.keepsG (u.tile t) ∧ (u.tile t).pc = x.pc ∧ u.mem = s.mem) ∧
  (∀ (s : State) (t : Nat) (g : GateUnit),
      let x := s.tile t
      (x.run = .committing → (∀ p ∈ x.pend, p.kind = .ack) → (∀ h ∈ x.released, h.asks = false) →
        ∃ u, exec (.checkpointDone t ⟨0, .clean⟩) s = .next u ∧
          (x.afterCommit = 1 → ((u.tile t).run = .halted ∨ (u.tile t).run = .none) ∧ (u.tile t).validHalf = (!x.validHalf) ∧
            x.keepsG (u.tile t) ∧ (u.tile t).scratch = x.scratch ∧ u.mem = s.mem) ∧
          (x.afterCommit ≠ 1 → x.retireAsked = false → x.rotateAsked = false → s.onlyTile u t ∧
            u.tile t = { x with
              validHalf := !x.validHalf, ckptLost := false, unitCycles := 0, run := .running, afterCommit := 0, gated := setDel x.gated 0 })) ∧
      (x.canIssue = true → x.isProtected = true → 50000 ≤ x.unitCycles →
        ∃ u, exec (.unitCycleLimit t) s = .next u ∧ s.trapped u t .unitTooLong none x.pc) ∧
      (x.role = .mapped → x.task.isSome = true → x.idleUnit g = true →
        ∃ u, exec (.tileClockGate t g) s = .next u ∧ setHas (u.tile t).gated (gateNo g) = true ∧ s.onlyTile u t ∧
          u.tile t = { x with gated := (u.tile t).gated }))

/-- R147: on a datapath fault of a protected tile that runs a unit a spare takes its logical id, its launch and its valid checkpoint, and
the failed tile is retired with its held effects discarded; the replay starts the spare from the checkpoint.
R186, R188, R347: a bounded wait that has outlasted its vein's watchdog leaves its home and traps with WATCHDOG and the address or object
that it waits on, one on a tile-local word too; a wait on an unbounded object or on a local counter never does. A task's wait ends the
task with WATCHDOG. -/
def Obligations.TileReplay : Prop :=
  (∀ (s : State) (t w : Nat) (c : Checkpoint),
      let x := s.tile t
      (x.role = .mapped → x.isProtected = true → x.task.isSome = true → x.ckptLost = false → x.run = .running →
        s.spareFor (quarryOf t) = some w →
        ∃ u, exec (.tileDatapathFault t) s = .next u ∧ (u.tile t).role = .retired ∧ (u.tile t).held = [] ∧ (u.tile w).role = .mapped ∧
          (u.tile w).run = .replaying ∧ (u.tile w).task = x.task ∧ (u.tile w).logical = x.logical ∧
          (u.tile w).validCkpt = x.validCkpt ∧ u.served x.logical = some w) ∧
      (x.run = .replaying → x.validCkpt = some c → s.stillDrains t = false → x.stable = none → x.afterCommit = 0 →
        ∃ u, exec (.tileReplayStart t ⟨0, .clean⟩ noDramFinding) s = .next u ∧ s.onlyTile u t ∧ (u.tile t).run = .running ∧ (u.tile t).pc = c.pc ∧ (u.tile t).g = c.g ∧
          (u.tile t).v = c.v ∧ (u.tile t).p = c.p ∧ (u.tile t).lc = c.lc ∧ (u.tile t).lfsr = c.lfsr ∧ (u.tile t).scratch = c.mem ∧
          (u.tile t).accs = c.accs ∧ (u.tile t).held = [])) ∧
  (∀ (s : State) (t k : Nat) (w : Waiter) (v : Vein) (y : Task), w ∈ s.flint.waiters →
      let x := s.tile t
      let timed (vein : Nat) : Prop := s.vein? vein = some v ∧ w.since + v.watchdog ≤ s.now
      let bounded : Prop := ∀ n, w.obj = some n → (s.objView n).unbounded = false
      ((∀ e ∈ s.flint.waiters, e.who = .tile t → e = w) → w.who = .tile t →
        (timed x.vein → bounded → ∀ p, x.pend.find? (fun p => p.id == w.seq) = some p →
          ∃ u, exec (.waitWatchdog (.tile t)) s = .next u ∧ s.trapped u t .watchdog (some p.va) p.pc ∧
            (∀ e ∈ u.flint.waiters, e.who ≠ .tile t)) ∧
        (∀ n, w.obj = some n → (s.objView n).unbounded = true → exec (.waitWatchdog (.tile t)) s = .next s)) ∧
      ((∀ e ∈ s.flint.waiters, e.who = .task k → e = w) → w.who = .task k → s.task? k = some y → timed y.vein → bounded →
        ∃ u z, exec (.waitWatchdog (.task k)) s = .next u ∧ u.task? k = some z ∧ (z.phase = .ended ∨ z.phase = .due) ∧
          (z.faults.map (·.1)).getLast? = some .watchdog ∧ (∀ e ∈ u.flint.waiters, e.who ≠ .task k))) ∧
  (∀ (s : State) (t since : Nat) (k : WaitKind) (v : Vein),
      let x := s.tile t
      (∀ e ∈ s.flint.waiters, e.who ≠ .tile t) → x.run = .waiting k → x.waitSeq = some (0, since) → s.vein? x.vein = some v →
      (k = .feTake ∨ k = .fePeek → since + v.watchdog ≤ s.now →
        ∃ u, exec (.waitWatchdog (.tile t)) s = .next u ∧ s.trapped u t .watchdog x.waitAddr x.pc) ∧
      (k = .lcWait → exec (.waitWatchdog (.tile t)) s = .next s))

/-! ## Caches (R223 to R247) -/

/-- R233, R235 to R238: disabling an enabled ordinary cache leaves it disabled and not invalidated, its dirty data gone home; an
invalidate-all empties it; the parity of a tile's dirty line takes the vein down instead; enabling takes effect only once it is invalidated, and is recorded otherwise. A privileged cache may be enabled at any time.
R231, R232, R239, R245: the answers of a miss install its line, with the latest bytes of device memory or the host's; an instruction
line fills from its home with the bytes that are there, and a line whose parity is wrong goes first, logged as masked; an offered clean
line enters the quarry cache where fewer than 24 entries of the insertion queue are occupied and the tile's vein has a way.
R247, R302, R307, R490, R495: a worn way of the quarry cache or of a directory slice is replaced by its slice's spare way, with its entry
and the notice of the last spare, and a way of the quarry cache with no spare left is disabled; the contents of memory stay. -/
def Obligations.CacheControl : Prop :=
  (∀ (s : State) (c : CacheRef) (par : CacheParity),
      let good : Prop := ∀ t, c = .tileData t → (s.tile t).readsGood par
      (∀ k, s.cacheCtl c = some k →
        (k.enabled = true → good → ∃ u, exec (.cacheDisable c par) s = .next u ∧ u.cacheCtl c = some ⟨false, false⟩ ∧
          (∀ t, c = .tileData t → ∀ l ∈ (u.tile t).dcache, l.host = false → l.dirty = false) ∧
          (∀ q, c = .quarryCache q → ∀ e ∈ u.qc.lines, u.stackOf (e.1 * 128) = q → e.2.dirty = false)) ∧
        (∀ t, c = .tileData t → ¬ (s.tile t).readsGood par → (s.tile t).isProtected = false → (∃ u, exec (.cacheInvalidateAll c par) s = .next u ∧ s.parityDown u t) ∧
          (k.enabled = true → ∃ u, exec (.cacheDisable c par) s = .next u ∧ s.parityDown u t)) ∧
        (good → ∃ u, exec (.cacheInvalidateAll c par) s = .next u ∧ u.cacheCtl c = some ⟨k.enabled, true⟩ ∧
          (∀ t, c = .tileData t → (u.tile t).dcache = []) ∧ (∀ t, c = .tileInstr t → (u.tile t).icache = []) ∧
          (∀ q, c = .quarryCache q → ∀ e ∈ u.qc.lines, u.stackOf (e.1 * 128) ≠ q) ∧
          (∀ q e, c = .copyEngine q e → ∀ x ∈ u.tasks, x.2.engine = some (q, e) → x.2.srcLines = [])) ∧
        (k.enabled = false → k.invalidated = true → ∃ u, exec (.cacheEnable c) s = .next u ∧ u.cacheCtl c = some ⟨true, true⟩ ∧ u.mem = s.mem) ∧
        (k.enabled = false → k.invalidated = false → s.noFold .notInvalidated (CacheRef_row c).2.1 (CacheRef_row c).1 →
          ∃ u, exec (.cacheEnable c) s = .next u ∧ u.cacheCtl c = some k ∧
            s.logged u .notInvalidated .notice (CacheRef_row c).1 (CacheRef_row c).2.2 0)) ∧
      (∀ n, privNo c = some n → s.cacheCtl c = none →
        (setHas s.blk.privOff n = false →
          ∃ u, exec (.cacheDisable c par) s = .next u ∧ setHas u.blk.privOff n = true ∧ setHas u.blk.privStale n = true ∧ u.mem = s.mem) ∧
        (∃ u, exec (.cacheEnable c) s = .next u ∧ setHas u.blk.privOff n = false ∧ u.mem = s.mem) ∧
        (∃ u, exec (.cacheInvalidateAll c par) s = .next u ∧ setHas u.blk.privStale n = false ∧ u.mem = s.mem ∧
          ∀ k, c = .sequencer k → tblGet [] u.blk.entryCache k = []))) ∧
  (∀ (s : State) (t id n va l sector : Nat) (g : Segment) (e : Nat × Packet) (bs : List Byte) (h : HostData),
      let x := s.tile t
      let size := s.lineSize t
      let a := l / 2 * size
      (x.miss = some ⟨id, 1, va, [l], none, none⟩ → l % 2 = 0 → (∃ r, tblFind s.rsps id = some r ∧ r.st = .ok) →
        s.sectSt (a / 128) = .m t ∨ (s.sectSt (a / 128) = .s ∧ setHas (s.dirEntry a).presence t = true) →
        ∃ u, exec (.cacheFillData t h .good) s = .next u ∧ (u.tile t).miss = none ∧ x.keepsG (u.tile t) ∧ (u.tile t).pc = x.pc ∧
          ∃ y ∈ (u.tile t).dcache, y.host = false ∧ y.line = l / 2 ∧ y.dirty = false ∧
            ∀ i, i < size → memGet y.bytes i = s.latestByte (a + i)) ∧
      (x.miss = some ⟨id, n, va, [l], none, none⟩ → l % 2 = 1 → 0 < n → (∀ i, i < n → ∃ r, tblFind s.host.up (id + i) = some r ∧ r.sent = true) →
        (∀ e ∈ s.host.up, e.2.sent = true ∧ e.2.va = none) → bs.length = size →
        ∃ u, exec (.cacheFillData t (.data bs false) .good) s = .next u ∧ (u.tile t).miss = none ∧ x.keepsG (u.tile t) ∧
          tblFind u.host.up id = none ∧ setHas (tblGet [] u.host.filter (a / 512)) t = true ∧
          ∃ y ∈ (u.tile t).dcache, y.host = true ∧ y.line = l / 2 ∧ y.poison = [] ∧ ∀ i, i < size → memGet y.bytes i = nth 0 bs i) ∧
      (x.role = .mapped → x.task.isSome = true → x.ictl.enabled = true → (∀ y ∈ x.icache, y.line ≠ va / 128) →
        s.fetchWord t (va / 4 * 4) = .good → findSeg x.segs va = some g → g.device = s.fab.self → s.sourcesHeld = false →
        ∃ u, exec (.icacheFill t va false noDramFinding) s = .next u ∧ x.keepsG (u.tile t) ∧ (u.tile t).pc = x.pc ∧ u.mem = s.mem ∧
          ∃ y ∈ (u.tile t).icache, y.line = va / 128 ∧
            ∀ i, i < 128 → memGet y.bytes i = s.latestByte (g.local' (va / 128 * 128) + i)) ∧
      (x.ictl.enabled = true → (∃ y ∈ x.icache, y.line = va / 128) → s.noFold .cacheParity (quarryOf t) t →
        ∃ u, exec (.icacheFill t va true noDramFinding) s = .next u ∧ s.noted u .cacheParity .masked t (va / 128 * 128) 3 ∧ x.keepsG (u.tile t) ∧
          (u.tile t).pc = x.pc ∧ u.mem = s.mem) ∧
      (s.pkts.find? (fun e => decide (e.2.src = .tile t) && decide (e.2.req = .offer sector)) = some e →
        let queue := tblGet [] s.qc.queue (s.qcSlice sector)
        ∃ u, exec (.cleanOffer t sector) s = .next u ∧ tblFind u.pkts e.1 = none ∧ u.mem = s.mem ∧ u.tiles = s.tiles ∧
          (queue.length < 24 → s.qcWaysFor (s.qcPlace sector) x.vein ≠ [] → (tblGet ({} : CacheCtl) s.qc.ctl (s.stackOf (sector * 128))).enabled = true →
            (tblFind u.qc.lines sector).isSome = true) ∧
          (24 ≤ (tblGet [] u.qc.queue (s.qcSlice sector)).length → (∀ q ∈ queue, q.1 ≠ sector) → tblFind s.qc.lines sector = none →
            tblFind u.qc.lines sector = none))) ∧
  (∀ (s : State) (q slice way : Nat) (dir : Bool), let n := q * 64 + slice
      let key := n * 32 + way
      (setHas s.qc.worn key = true → setHas s.qc.spared n = true → ∃ u, exec (.waySpareSwap q slice way false) s = .next u ∧ u.mem = s.mem ∧
        setHas u.qc.worn key = false ∧ setHas u.qc.lost key = true ∧ setHas u.flt.capacity 16 = true) ∧
      (s.noFold .waySpare q slice → (if dir then setHas s.homes.dirWorn key = true ∧ setHas s.homes.dirSpared n = false
        else setHas s.qc.worn key = true ∧ setHas s.qc.spared n = false) →
      ∃ u, exec (.waySpareSwap q slice way dir) s = .next u ∧ u.mem = s.mem ∧ s.noted u .waySpare .notice slice way (b2n dir) ∧
        Sent.spareNotice (if dir then 7 else 6) q ∈ u.sent ∧
        (if dir then setHas u.homes.dirWorn key = false ∧ setHas u.homes.dirSpared n = true
          else setHas u.qc.worn key = false ∧ setHas u.qc.spared n = true)))

/-! ## DRAM and owner tags (R214, R251 to R261, R490) -/

/-- R251, R254 to R257: the patrol logs and counts a corrected error for its row; an uncorrectable codeword has P set on its affected words
in DRAM, unless a dirty line of the quarry cache stands over them, and is logged; a repaired row takes a spare, a switched bank a spare
bank (at once where it died outright), each with its entry; a bank that died with no spare bank left stays, and its loss is recorded as a
loss of capacity. Words that could not be recovered have P set; no byte of memory changes. -/
def Obligations.DramErrors : Prop :=
  ∀ (s : State) (addr stack bank row : Nat) (died : Bool) (words lost : List Nat),
    let a := addr / 32 * 32
    let q := s.stackOf a
    let x := s.quarry stack
    (s.blk.booted = true → a < 2 ^ 40 → s.present q = true →
      (s.noFold .dramCe q (s.bankOf a) → ∃ u n, exec (.patrolScrub addr .corrected words) s = .next u ∧ u.mem = s.mem ∧
        s.noted u .dramCe .masked (s.bankOf a) a n ∧ n = (s.recent (tblGet [] (s.quarry q).rowErrors (rowKey (s.bankOf a) (s.rowOf a)))).length + 1) ∧
      ((∃ w ∈ words, w / 32 = a / 32 ∧ setHas s.mem.poison (w / 8) = false) →
        ∃ u, exec (.patrolScrub addr .uncorrectable words) s = .next u ∧ s.noted u .dramUe .detected (s.bankOf a) a 1 ∧
          u.mem.bytes = s.mem.bytes ∧ ∀ w, setHas u.mem.poison w = (setHas s.mem.poison w ||
            ((tblFind s.qc.lines (a / 128)).all (fun l => !l.dirty) && words.any (fun v => v / 32 == a / 32 && v / 8 == w))))) ∧
    (setHas x.rowCopies (rowKey bank row) = true → 0 < x.rowsLeft bank → s.noFold .rowRepair stack bank →
      ∃ u, exec (.rowRepair stack bank row) s = .next u ∧ (u.quarry stack).rowsLeft bank = x.rowsLeft bank - 1 ∧
        setHas (u.quarry stack).rowCopies (rowKey bank row) = false ∧ s.noted u .rowRepair .notice bank row (x.rowsLeft bank - 1) ∧ u.mem = s.mem) ∧
    (died = true ∨ setHas x.bankCopies bank = true → s.blk.booted = true → s.present stack = true → bank < 1024 →
      0 < x.banksLeft (bank / 64) → died = true ∨ tblFind s.mica.running stack = none → s.noFold .bankReplace stack bank →
      ∃ u, exec (.bankSwitch stack bank died lost) s = .next u ∧ (u.quarry stack).banksLeft (bank / 64) = x.banksLeft (bank / 64) - 1 ∧
        setHas (u.quarry stack).bankCopies bank = false ∧ s.noted u .bankReplace .notice bank (3 - (x.banksLeft (bank / 64) - 1)) (x.banksLeft (bank / 64) - 1) ∧
        u.mem.bytes = s.mem.bytes ∧ ∀ w, setHas u.mem.poison w = (setHas s.mem.poison w ||
          lost.any (fun v => s.stackOf v == stack && s.bankOf v == bank && v / 8 == w))) ∧
    (s.blk.booted = true → s.present stack = true → bank < 1024 → x.banksLeft (bank / 64) = 0 → setHas x.bankNone bank = false →
      ∃ u, exec (.bankSwitch stack bank true lost) s = .next u ∧ (u.quarry stack).banksLeft (bank / 64) = 0 ∧
        setHas (u.quarry stack).bankNone bank = true ∧ setHas u.flt.capacity 13 = true ∧
        u.mem.bytes = s.mem.bytes ∧ ∀ w, setHas u.mem.poison w = (setHas s.mem.poison w ||
          lost.any (fun v => s.stackOf v == stack && s.bankOf v == bank && v / 8 == w))) ∧
    (s.blk.booted = true → s.present stack = true → bank < 1024 →
      ∃ u, exec (.dramRefresh stack bank) s = .next u ∧ u = { s with qry := u.qry } ∧ (u.quarry stack).refreshes = x.refreshes + 1)

/-- R260, R261: a tag change takes effect once no request is past its check; a granule that leaves 0x0000 is zero-filled, with P clear and F
empty; bytes of other granules, and of a granule that had another tag, are as before.
R259, R260: a request that an owner tag refuses has no effect on memory and is answered with an error. -/
def Obligations.OwnerTags : Prop :=
  (∀ (s : State) (g : Nat) (tag : BitVec 16), tblFind s.mem.changes g = some tag → s.granBusy g = false →
      (∀ e ∈ s.homes.dir, e.1 / 4096 ≠ g) →
      ∃ u, exec (.granuleTagChange g) s = .next u ∧ u.tagOf g = tag ∧ tblFind u.mem.changes g = none ∧ (∀ h, h ≠ g → u.tagOf h = s.tagOf h) ∧
        (∀ a, memGet u.mem.bytes a = if s.tagOf g = 0 ∧ tag ≠ 0 ∧ a / 2 ^ 21 = g then 0 else memGet s.mem.bytes a) ∧
        (s.tagOf g = 0 → tag ≠ 0 → ∀ w, 8 * w / 2 ^ 21 = g → setHas u.mem.poison w = false ∧ setHas u.mem.full w = false)) ∧
  (∀ (s : State) (id : Nat) (p : Packet) (f : HomeFinding) (a n : Nat) (i : Instr), tblFind s.pkts id = some p → p.req.range = some (a, n) →
      p.begun = false → s.ordHeld id p = false → s.turnOf id p a n = .goes → s.rangePass p.context a n = false →
      (i, p.req.kindNo) ∈ (match p.req with
        | .read _ _ true => [(Instr.homeRead id f, 0)]
        | .read _ _ false => [(.homeNonallocRead id f, 0)]
        | .readOwn _ _ => [(.homeReadOwnership id f, 0)]
        | .write _ _ _ _ => [(.homeWrite id f, 1)]
        | .lr _ _ => [(.homeLr id f, 0)]
        | .sc _ _ _ _ => [(.homeSc id f, 2)]
        | .amo _ _ _ _ _ _ => [(.homeAmo id f, 2)]
        | _ => []) →
      ∃ u r, exec i s = .next u ∧ u.answered id p r ∧ r.st = .refused ∧ u.mem = s.mem ∧ u.tiles = s.tiles ∧
        u.homes = { s.homes with queue := u.homes.queue } ∧ (s.noFold .granuleRefused (s.stackOf a) p.src.code →
          s.logged u .granuleRefused .notice p.src.code (s.fab.self * 2 ^ 48 + a) p.req.kindNo))

/-! ## Homes and responses (R292 to R324) -/

/-- R259, R308, R310: a read that needs no snoop is answered with the latest value of its bytes; a non-allocating one changes no directory
state, an allocating one makes its agent a holder, and a read for ownership the owner.
R169, R300, R302, R308: a write, an atomic and a successful `sc` are applied at the home on no more than their own bytes; an atomic
answers the old value; an `lr` records the reservation and changes no byte; an `sc` without its reservation stores nothing. -/
def Obligations.HomeAccesses : Prop :=
  (∀ (s : State) (id : Nat) (p : Packet) (f : HomeFinding) (a n x g : Nat), s.servable id p a n → HomeFinding.clean f →
      (p.req = .read a n false → ∃ u r, exec (.homeNonallocRead id f) s = .next u ∧ u.answered id p r ∧ r.st = .ok ∧ r.data = s.readLatest a n ∧
        r.poisoned = s.readPoison a n ∧ u.homes = { s.homes with queue := u.homes.queue } ∧ u.mem = s.mem ∧ u.tiles = s.tiles) ∧
      (sectorsOf a n = [x] → s.unowned a n → p.src.agent = some g → s.dirFits (x / 4) = true → (s.dirEntry (x * 128)).sectors.length = 4 →
        (p.req = .read a n true → ∃ u r, exec (.homeRead id f) s = .next u ∧ u.answered id p r ∧ r.st = .ok ∧ r.data = s.readLatest a n ∧
          u.sectSt x = .s ∧ setHas (u.dirEntry (x * 128)).presence g = true ∧ u.mem = s.mem ∧ u.tiles = s.tiles) ∧
        (p.req = .readOwn a n → ∃ u r, exec (.homeReadOwnership id f) s = .next u ∧ u.answered id p r ∧ r.st = .ok ∧
          (s.sectorLines g x = [] → s.wayBack x = none → r.data = s.readLatest a n) ∧ u.sectSt x = .m g ∧ u.mem = s.mem))) ∧
  (∀ (s : State) (id t : Nat) (p : Packet) (f : HomeFinding) (a n : Nat) (bs : List Byte) (pois w : Bool) (op cmp v : Nat),
      s.servable id p a n → s.unowned a n → HomeFinding.clean f →
      (p.req = .write a bs pois none → ∃ u r, exec (.homeWrite id f) s = .next u ∧ u.answered id p r ∧ r.st = .ok ∧
        s.stored u a bs ∧ ((∀ i, p.src ≠ .fabric i) → ∀ y, setHas u.mem.poison y = setHas (poisonAfter s.mem.poison a bs.length pois) y)) ∧
      (p.req = .amo a w op cmp v pois → let old := leNat (s.readLatest a n)
        let new := if op = 0 then old + v else if op = 1 then v else if old = cmp % 2 ^ (8 * n) then v else old
        ∃ u r, exec (.homeAmo id f) s = .next u ∧ u.answered id p r ∧ r.st = .ok ∧ r.data = s.readLatest a n ∧ s.stored u a (leBytes n new)) ∧
      (p.src = .tile t →
        (p.req = .sc a w v pois → ∃ u r, exec (.homeSc id f) s = .next u ∧ u.answered id p r ∧ r.st = .ok ∧ r.flag = s.scHolds p.src a ∧
          s.stored u a (if s.scHolds p.src a then leBytes n v else []) ∧ (∀ q ∈ u.homes.resv, q.tile ≠ t)) ∧
        (p.req = .lr a w → (∃ q ∈ (s.tile t).pend, q.kind = .reserve ∧ ∃ z ∈ q.waits, z.1 = id) →
          ∃ u r, exec (.homeLr id f) s = .next u ∧ u.answered id p r ∧ r.st = .ok ∧ r.data = s.readLatest a n ∧ s.stored u a [] ∧
            (u.tile t).reservation = some (false, a / 64 * 64) ∧ ∃ q ∈ u.homes.resv, q.tile = t ∧ q.granule = a / 64)))

/-- R230, R308, R312: a snooped tile answers: on SNP_INV its copy is gone and its dirty data home, on SNP_SHR its data is home and it keeps a
clean copy, on SNP_CUR nothing changes. The home counts an answer once, and applies the request with the last one.
R317, R318: an agent that has not answered within 10 µs takes its vein down: the vein is in DOMAIN_DOWN, recorded as detected. -/
def Obligations.Snoops : Prop :=
  (∀ (s : State) (agent n : Nat) (x : Txn) (k : Snoop) (i : CacheParity → Instr) (a : SnoopAnswer),
      tblFind s.homes.txns n = some x → setHas x.waiting agent = true → s.sourcesHeld = false →
      (x.snoop = k → agent < 416 → tblFind x.answers agent = none →
        (i = (fun p => match k with
          | .inv => Instr.snpInv agent n p
          | .shr => .snpShr agent n p
          | .cur => .snpCur agent n p)) →
        ∃ u y, exec (i .good) s = .next u ∧ tblFind u.homes.txns n = some y ∧ y = { x with answers := y.answers } ∧
          (tblFind y.answers agent).isSome = true ∧ u.pkts.length = s.pkts.length ∧ (u.tile agent).g = (s.tile agent).g ∧
          (k = .inv → ∀ l ∈ (u.tile agent).dcache, l.host = false → l.line * s.lineSize agent / 128 ≠ x.sector) ∧
          (k = .shr → ∀ l ∈ (u.tile agent).dcache, l.host = false → l.line * s.lineSize agent / 128 = x.sector → l.dirty = false) ∧
          (k = .cur → u.mem = s.mem ∧ u.tiles = s.tiles)) ∧
      (tblFind x.answers agent = some a → s.wayBack x.sector = none →
        (setDel x.waiting agent ≠ [] → ∃ u y, exec (.snoopResponse n agent a) s = .next u ∧ tblFind u.homes.txns n = some y ∧
          y = { x with waiting := setDel x.waiting agent } ∧ u.mem = s.mem ∧ u.tiles = s.tiles) ∧
        (setDel x.waiting agent = [] → x.crossing = [] → n < s.nextId → ∃ u, exec (.snoopResponse n agent a) s = .next u ∧ tblFind u.homes.txns n = none ∧
          (x.pkt = 0 → u.mem = s.mem ∧ u.tiles = s.tiles)))) ∧
  (∀ (s : State) (agent n : Nat) (x : Txn), tblFind s.homes.txns n = some x → setHas x.waiting agent = true → tblFind x.answers agent = none →
      s.homes.biWait.contains n = false → x.since + 1000 ≤ s.now → agent < 416 →
      ∃ u, exec (.snoopTimeout n agent) s = .next u ∧ setHas u.blk.veinDown (s.tile agent).vein = true ∧
        s.flt.newest < u.flt.newest ∧
        ∀ k y, s.task? k = some y → y.queue.isSome = true → y.vein = (s.tile agent).vein → setHas s.blk.veinDown (s.tile agent).vein = false →
          y.phase = .ready → ∃ z, u.task? k = some z ∧ (z.phase = .ended ∨ z.phase = .due) ∧ (z.faults.map (·.1)).contains .domainDown = true)

/-- R232, R245, R308, R309, R312, R303: a write-back is applied on arrival, where its slice's insertion queue has a place, and answered; a
stash takes a clean copy where its conditions hold and is else dropped with a notice, which ends the tile's presence; a progress lock ends after 10 µs.
R168, R299, R323: the response of a tile's load writes its register, sign- or zero-extended, with its poison; the acknowledgement of a
write is taken from the tile and from its task. Nothing else of the tile changes. -/
def Obligations.WriteBacksAndResponses : Prop :=
  (∀ (s : State) (id t x g : Nat) (p : Packet) (bs : Mem) (po : NSet) (e : Nat × Packet) (f : HomeFinding),
      (tblFind s.pkts id = some p → p.req = .writeBack x bs po → p.src = .tile t → p.begun = false → s.ordHeld id p = false →
        s.wayBack x = some (id, bs, po) → (∀ y ∈ s.homes.txns, y.2.sector ≠ x) → s.lockedFor (some t) (128 * x) 128 = false →
        s.qcQueued (s.qcSlice x) < 32 → HomeFinding.clean f →
        ∃ u r, exec (.homeWriteBack id f) s = .next u ∧ u.answered id p r ∧ r.st = .ok ∧
          (∀ i, i < 128 → memGet u.mem.bytes (128 * x + i) = memGet bs i) ∧
          ∀ a, a < 128 * x ∨ 128 * x + 128 ≤ a → memGet u.mem.bytes a = memGet s.mem.bytes a) ∧
      (s.pkts.find? (fun e => e.2.req.isStash x t) = some e → s.sourcesHeld = false → (∀ y ∈ s.pkts, y.1 < e.1 → ∀ z w, y.2.req ≠ .stash z t w) →
        (e.2.req = .stash x t false ∨ (s.tile t).role ≠ .mapped ∨ (s.tile t).dctl.enabled = false ∨ (s.tile t).task = none →
          ∃ u, exec (.stashDelivery t x) s = .next u ∧ (u.tile t).dcache = (s.tile t).dcache ∧ u.mem = s.mem ∧
            tblFind u.pkts s.nextId = some ⟨.tile t, none, .drop x, none, false, false, 0⟩) ∧
        (e.2.req = .stash x t true → (s.tile t).role = .mapped → (s.tile t).dctl.enabled = true → s.carve t ≠ 0 → s.lineSize t = 128 →
          (∃ k c, (s.tile t).task = some k ∧ (s.tile t).context = some c ∧ s.tagOf (granOf (128 * x)) = BitVec.ofNat 16 (0x8000 + c)) →
          (s.granVein (granOf (128 * x))).map (·.1) = some (s.tile t).vein → s.micaGran (granOf (128 * x)) = false →
          (∀ l ∈ s.sectorLines t x, l.dirty = false) → s.cleanVictim t x = true → s.sectSt x = .s →
          setHas (s.dirEntry (128 * x)).presence t = true →
          ∃ u l, exec (.stashDelivery t x) s = .next u ∧ u.mem = s.mem ∧ l ∈ (u.tile t).dcache ∧ l.host = false ∧ l.line = x ∧ l.dirty = false ∧
            ∀ i, i < 128 → memGet l.bytes i = s.latestByte (128 * x + i))) ∧
      (s.pkts.find? (fun e => decide (e.2.src = .tile t) && decide (e.2.req = .drop x)) = some e → s.ordHeld e.1 e.2 = false →
        (∀ i, i < 4 → s.sectorLines t (x / 4 * 4 + i) = [] ∧ s.sectSt (x / 4 * 4 + i) ≠ .m t) →
        ∃ u, exec (.stashDropNotice t x) s = .next u ∧ tblFind u.pkts e.1 = none ∧ setHas (u.dirEntry (128 * x)).presence t = false ∧
          u.mem = s.mem ∧ u.tiles = s.tiles) ∧
      (∃ u, exec (.reservationLockTimeout g) s = .next u ∧ u = { s with homes := u.homes } ∧
        (∀ l ∈ s.homes.locks, l.1 = g → l.2.2 + 1000 ≤ s.now → l ∉ u.homes.locks) ∧
        ∀ l ∈ s.homes.locks, l.1 ≠ g ∨ s.now < l.2.2 + 1000 → l ∈ u.homes.locks)) ∧
  (∀ (s : State) (t id : Nat) (r : Rsp) (p : PendOp),
      let x := s.tile t
      tblFind s.rsps id = some r → r.dst = .tile t → r.st = .ok → s.rspHeld r = false → x.keeps id = false → x.released = [] → x.run = .running →
      x.pend.find? (fun p => p.waits.any (fun w => w.1 == id)) = some p →
      (p.kind = .load → p.waits = [(id, 0, p.size)] → p.overlay = [] → r.marks = [] → 0 < p.size → r.data.length = p.size → p.poisoned = false →
        ∃ u, exec (.memoryResponse id) s = .next u ∧ tblFind u.rsps id = none ∧
          (∀ q, (u.tile t).gr q = if q = 0 then 0 else if q = p.rd then extend p.size p.zx (leNat r.data) else x.gr q) ∧
          (p.rd ≠ 0 → (u.tile t).gp p.rd = r.poisoned) ∧
          (u.tile t).pc = x.pc ∧ (u.tile t).scratch = x.scratch ∧ u.mem = s.mem) ∧
      (p.kind = .ack → p.id = id → p.waits = [(id, 0, 0)] → (∀ k y, x.task = some k → s.task? k = some y → r.task = some k → y.phase = .running →
          ∃ u z, exec (.memoryResponse id) s = .next u ∧ u.task? k = some z ∧ setHas z.unseen id = false ∧ tblFind u.rsps id = none ∧
            (∀ q ∈ (u.tile t).pend, q.id ≠ id ∨ q.kind ≠ .ack) ∧ x.keepsG (u.tile t) ∧ (u.tile t).scratch = x.scratch ∧ u.mem = s.mem)))

/-- R313, R314, R271: the host's snoops, acknowledgements, CXL.mem requests and answers: an invalidating snoop empties the tiles' copies before
it is answered; a write's GO updates its writer's copy; a request through the HDM decoder goes to the home of its LOCAL address, is
held while the block wakes from D3hot (R417), and is answered with an error in SLEEP and in D3hot (R416, R478); the answer to a
back-invalidate ends its transaction. -/
def Obligations.HostCoherence : Prop :=
  ∀ (s : State) (hpa len n a t : Nat) (inv own po keeps : Bool) (r : UpReq) (x : Txn) (bs : List Byte) (wb : Option (List Byte)),
    (s.host.linkUp = true → ∃ u, exec (.hostSnoop hpa inv) s = .next u ∧ u.sent.getLast? = some (.hostSnoopAnswer (hpa / 64 * 64)) ∧ u.mem = s.mem ∧
      (inv = true → ∀ q ∈ tblGet [] s.host.filter (hpa / 128 / 4), ∀ l ∈ (u.tile q).dcache, l.host = true →
        l.line * s.lineSize q / 128 ≠ hpa / 128)) ∧
    (tblFind s.host.up n = some r → r.kind = .itoMWr ∨ r.kind = .wrCur → r.sent = true → r.src = .tile t → (s.tile t).released = [] →
      ∃ u, exec (.hostGo n) s = .next u ∧ tblFind u.host.up n = none ∧ (u.tile t).g = (s.tile t).g ∧ (u.tile t).scratch = (s.tile t).scratch ∧
        (∀ p ∈ (u.tile t).pend, p.id ≠ n ∨ p.kind ≠ .ack) ∧ u.mem = s.mem) ∧
    (s.hdmLocal hpa = some a → s.host.linkUp = true → s.host.memEn = true → len ≠ 0 → a + len ≤ 2 ^ 40 →
      (s.host.d3wake = true → ∃ u, exec (.hostCxlmemRequest hpa len none po own) s = .next u ∧
        u = { s with host := { s.host with waiting := s.host.waiting ++ [.hostCxlmemRequest hpa len none po own] } }) ∧
      (s.host.d3wake = false → s.host.waiting = [] → s.blk.state = .sleep ∨ s.host.d3hot = true →
        ∃ u, exec (.hostCxlmemRequest hpa len none po own) s = .next u ∧ u = s.emit .cxlMemError) ∧
      (s.host.d3wake = false → s.host.waiting = [] → s.blk.state ≠ .sleep → s.host.d3hot = false →
        (∃ u, exec (.hostCxlmemRequest hpa len none po own) s = .next u ∧ u.mem = s.mem ∧
          tblFind u.pkts s.nextId = some ⟨.hostMem, none, if own then .readOwn a len else .read a len true, none, false, false, 0⟩) ∧
        ∃ u, exec (.hostCxlmemRequest hpa len (some bs) po own) s = .next u ∧ u.mem = s.mem ∧
          tblFind u.pkts s.nextId = some ⟨.hostMem, none, .write a (bs.take len) po none, none, false, false, 0⟩ ∧
          (own = true → tblFind u.pkts (s.nextId + 1) = some ⟨.hostMem, none, .readOwn a len, none, false, false, 0⟩))) ∧
    (tblFind s.homes.txns n = some x → x.waiting = [416] → x.crossing = [] → x.pkt = 0 → s.homes.biWait.contains n = false →
      (∀ e ∈ s.pkts, ∀ y, e.2.req.range = some y → s.isHostBack e.2 y.1 y.2 = true → x.sector ∉ sectorsOf y.1 y.2) →
      ∃ u, exec (.biResponse n wb keeps) s = .next u ∧ tblFind u.homes.txns n = none ∧
        (∀ d, wb = some d → s.hostOwns x.sector = true → d.length = 128 → s.stored u (128 * x.sector) d) ∧
        (x.snoop = .cur → setHas u.homes.fresh x.sector = true ∧ (wb = none → u.mem = s.mem ∧ u.tiles = s.tiles)))

/-! ## Flint (R326 to R359) -/

/-- R330, R331, R332, R334: an add and a subtract at an object's home answer the new value, saturate with OVF and UNF, set ABOVE, and wake every
waiter whose condition the value meets; a refused operation changes nothing and is answered so.
R335, R348, R349: an arrival counts; the last one of a root flips PHASE, starts the count again and wakes the phase's waiters, and that of a
node goes on to its parent; a release flips a node's PHASE; an object with children first reads
their list, and then sends a release to each; one whose list cannot be read is ABANDONED. -/
def Obligations.FlintObjects : Prop :=
  (∀ (s : State) (id n a v : Nat) (p : Packet) (i : Instr) (past under : Bool),
      let o := s.obj n
      ((p.req = .flintAdd n a ∧ i = .flintHomeAdd id ∧ past = decide (2 ^ 32 ≤ o.value + a) ∧ under = false ∧
          v = if past then 2 ^ 32 - 1 else o.value + a) ∨
        (p.req = .flintSub n a ∧ i = .flintHomeSub id ∧ past = false ∧ under = decide (o.value < a) ∧ v = o.value - a)) →
      (s.flintServable id p n → ∃ u r, exec i s = .next u ∧ u.answered id p r ∧ r.st = .ok ∧ r.value = v ∧
        s.objChanged u n { o with value := v, ovf := o.ovf || past, unf := o.unf || under, above := o.aboveAt v } ∧
        (∀ w ∈ s.flint.waiters, w.obj = some n → ({ o with value := v } : Obj).holds w.cond = true →
          u.wakeSent w.who w.seq (({ o with value := v } : Obj).answer w.cond) false) ∧
        (past = false → under = false → u.flt = s.flt ∧ u.tasks = s.tasks)) ∧
      (tblFind s.pkts id = some p → s.ordHeld id p = false → setHas s.flint.childReads n = false → s.flintRefused p n = true → p.src ≠ .hostPort →
        ∃ u r, exec i s = .next u ∧ u.answered id p r ∧ r.st = .refusedObject ∧ u.flint = s.flint ∧ u.mem = s.mem ∧ u.tiles = s.tiles)) ∧
  (∀ (s : State) (id n : Nat) (p : Packet) (l : List (Nat × Nat)),
      let o := s.obj n
      let v := (o.value + 1) % 2 ^ 32
      let sends (u : State) (r : Req) : Prop := ∃ k m, tblFind u.pkts k = some ⟨.flintHome n, some o.owner, r, none, false, false, m⟩
      let reads (u : State) (x : Obj) : Prop := setHas u.flint.childReads n = true ∧ u.obj n = { x with when' := s.now } ∧
        u.mem = s.mem ∧ u.tiles = s.tiles
      let flips (u : State) (x : Obj) : Prop := s.objChanged u n { x with phase := !o.phase } ∧
        ∀ w ∈ s.flint.waiters, w.obj = some n → w.cond = .phaseNot o.phase → u.wakeSent w.who w.seq (b2n !o.phase) false
      (s.flintServable id p n →
        (p.req = .flintArrive n → (o.hasParent && o.pendingUp) = false →
          (o.value + 1 < o.limit → ∃ u r, exec (.flintHomeArrival id) s = .next u ∧ u.answered id p r ∧ r.st = .ok ∧ r.value = b2n o.phase ∧
            s.objChanged u n { o with value := v }) ∧
          (o.limit ≤ o.value + 1 → o.hasParent = false → o.childCount = 0 → ∃ u r, exec (.flintHomeArrival id) s = .next u ∧ u.answered id p r ∧
            r.st = .ok ∧ r.value = b2n o.phase ∧ flips u { o with value := v - o.limit }) ∧
          (o.limit ≤ o.value + 1 → o.hasParent = false → o.childCount ≠ 0 → ∃ u r, exec (.flintHomeArrival id) s = .next u ∧
            u.answered id p r ∧ r.st = .ok ∧ r.value = b2n o.phase ∧ reads u { o with value := v }) ∧
          (o.limit ≤ o.value + 1 → o.hasParent = true → o.parentDevice = s.fab.self → ∃ u r, exec (.flintHomeArrival id) s = .next u ∧
            u.answered id p r ∧ r.st = .ok ∧ s.objChanged u n { o with value := v - o.limit, pendingUp := true } ∧
            sends u (.flintArrive o.parentObject))) ∧
        (p.req = .flintRelease n → o.pendingUp = true →
          (o.childCount = 0 → o.hasParent = true → o.value < o.limit → ∃ u r, exec (.flintHomeRelease id) s = .next u ∧ u.answered id p r ∧ r.st = .ok ∧
            flips u { o with pendingUp := false }) ∧
          (o.childCount ≠ 0 → ∃ u r, exec (.flintHomeRelease id) s = .next u ∧ u.answered id p r ∧ r.st = .ok ∧ reads u o)) ∧
        (p.req = .flintRelease n → o.pendingUp = false → s.noFold .flintFault (n / 2048) n → ∃ u r, exec (.flintHomeRelease id) s = .next u ∧ u.answered id p r ∧
          s.objChanged u n { o with unf := true } ∧ s.noted u .flintFault .notice n 1 p.src.code)) ∧
      (setHas s.flint.childReads n = true → o.state = 1 →
        s.hostClear (.flintHome n) o.owner ((s.ctx? o.owner).map (·.segs) |>.getD []) o.childList (8 * o.childCount) false = true →
        (s.childList o = some l → o.hasParent = true → o.value < o.limit → (∀ c ∈ l, c.1 = s.fab.self) →
          ∃ u, exec (.childListRead n noDramFinding) s = .next u ∧ setHas u.flint.childReads n = false ∧ flips u { o with pendingUp := false } ∧
            ∀ c ∈ l, sends u (.flintRelease c.2)) ∧
        (s.childList o = some l → o.hasParent = false → (∀ c ∈ l, c.1 = s.fab.self) →
          ∃ u, exec (.childListRead n noDramFinding) s = .next u ∧ setHas u.flint.childReads n = false ∧
            flips u { o with value := o.value - o.limit } ∧ ∀ c ∈ l, sends u (.flintRelease c.2)) ∧
        (s.childList o = none → ∃ u, exec (.childListRead n noDramFinding) s = .next u ∧ setHas u.flint.childReads n = false ∧ (u.obj n).abandoned = true ∧
          u.mem = s.mem)))

/-- R334, R347, R358: a wait is answered at once where its condition holds or its object is ABANDONED, and else registered behind the earlier
ones; a wake ends the wait of the tile or the task that still holds it and writes its value, and memory, scratch and the other tiles stay.
R352, R353, R359: an evicted context's objects return from its image to their homes; on a slice's fault its mirror's copies become the objects, and
without a mirror its objects are ABANDONED. -/
def Obligations.FlintWaits : Prop :=
  (∀ (s : State) (id n t k : Nat) (p : Packet) (c : Cond) (w : Wake) (q : PendOp) (x : Task) (m : WaitKind),
      (tblFind s.pkts id = some p → p.req = .flintWait n c → p.src = .tile t → (s.tile t).pend.any (fun p => p.id == id) = true →
        setHas s.flint.childReads n = false → s.flintRefused p n = false → (s.obj n).state = 1 →
        ∃ u, exec (.flintWaitRegister id) s = .next u ∧ tblFind u.pkts id = none ∧ u.flint.objs = s.flint.objs ∧ u.mem = s.mem ∧ u.tiles = s.tiles ∧
          ((s.obj n).abandoned = true → u.wakeSent (.tile t) id (s.obj n).value true) ∧
          ((s.obj n).abandoned = false → (s.obj n).holds c = true → u.wakeSent (.tile t) id ((s.obj n).answer c) false) ∧
          ((s.obj n).abandoned = false → (s.obj n).holds c = false →
            u.flint.waiters = s.flint.waiters ++ [⟨.tile t, id, some n, none, false, c, s.now⟩] ∧ u.flint.wakes = s.flint.wakes)) ∧
      (tblFind s.flint.wakes id = some w → w.abandoned = false → w.poisoned = false →
        (w.who = .tile t → (s.tile t).pend.find? (fun p => p.id == w.seq) = some q → q.kind = .wait → (s.tile t).run = .waiting m →
          (s.tile t).role = .mapped →
          ∃ u, exec (.flintWake id) s = .next u ∧ tblFind u.flint.wakes id = none ∧ (u.tile t).run = .running ∧
            (u.tile t).pc = ((s.tile t).pc + 8) % 2 ^ 64 ∧ (∀ y ∈ (u.tile t).pend, y.id ≠ q.id) ∧
            (∀ g, (u.tile t).gr g = if g = 0 then 0 else if g = q.rd then BitVec.ofNat 64 w.value else (s.tile t).gr g) ∧
            (u.tile t).scratch = (s.tile t).scratch ∧ u.mem = s.mem ∧ ∀ y, y ≠ t → u.tile y = s.tile y) ∧
        (w.who = .task k → s.task? k = some x → x.waitSeq.map (·.1) = some w.seq → x.phase = .waiting →
          ∃ u, exec (.flintWake id) s = .next u ∧ tblFind u.flint.wakes id = none ∧ u.task? k = some { x with waitSeq := none, phase := .ready } ∧
            u.tiles = s.tiles ∧ u.mem = s.mem))) ∧
  (∀ (s : State) (c n q : Nat) (e : Evicted) (x : Context) (v : Vein),
      (s.ctx? c = some x → x.evicted = some e → s.vein? x.vein = some v →
        ∃ u, exec (.contextRestore c noDramFinding) s = .next u ∧ u.ctx? c = some { x with evicted := none } ∧ u.mem = s.mem ∧ u.tiles = s.tiles ∧
          ((s.obj n).state = 2 → (s.obj n).owner = c → v.flintFirst ≤ n → n < v.flintFirst + v.flintCount →
            u.obj n = { s.objView n with state := 1 })) ∧
      (q < 8 → setHas s.flint.moved q = false →
        (setHas s.flint.unmirrored q = false → tblSorted s.flint.mirror = true → s.noFold .flintTakeover q q →
          ∃ u, exec (.flintSliceFault q) s = .next u ∧ s.logged u .flintTakeover .masked q 2048 0 ∧ setHas u.flint.moved q = true ∧
            setHas u.flint.unmirrored q = true ∧ (∀ m, m / 2048 = q → u.obj m = tblGet {} s.flint.mirror m) ∧
            (∀ m, m / 2048 ≠ q → u.obj m = s.obj m) ∧ u.mem = s.mem ∧ u.tiles = s.tiles) ∧
        (setHas s.flint.unmirrored q = true → (∀ e ∈ s.flint.objs, e.2.state ≠ 2) →
          ∃ u, exec (.flintSliceFault q) s = .next u ∧ u.flt.newest = s.flt.newest + 1 ∧ u.mem = s.mem ∧
            (n / 2048 = q → (s.obj n).state = 1 → (u.obj n).abandoned = true))))

/-- R337, R338: a fill writes the word and its poison, sets F, and feeds the peeks and then the oldest take that wait, which empties the word; over
a full word it is an overrun. A take of a full word answers it and empties it; a peek leaves it; on an empty word both wait.
R339 to R343, R409: a write to the host's windows travels to its home in order; a clear takes OVF and UNF from an ACTIVE object; a read of the take
window takes a full word at once, and answers zeros for an empty one. -/
def Obligations.FullEmptyAndWindows : Prop :=
  (∀ (s : State) (id a v t : Nat) (p : Packet) (f : HomeFinding) (pois noWait : Bool), s.servable id p a 8 → s.unowned a 8 → a % 8 = 0 →
      HomeFinding.clean f →
      let waits (i : Instr) (take : Bool) : Prop := s.feFull a = false → p.src = .tile t → s.holdsWait (.tile t) id = true →
        ∃ u, exec i s = .next u ∧ tblFind u.pkts id = none ∧ u.mem = s.mem ∧ u.tiles = s.tiles ∧
          u.flint.waiters = s.flint.waiters ++ [⟨.tile t, id, none, some a, take, .ge 0, s.now⟩]
      (p.req = .feFill a v pois → p.src ≠ .hostPort → ∃ u r, exec (.feHomeFill id f) s = .next u ∧ u.answered id p r ∧ r.st = .ok ∧
        s.stored u a (leBytes 8 v) ∧ setHas u.mem.poison (a / 8) = pois ∧
        ((∀ w ∈ s.flint.waiters, w.word ≠ some a ∨ w.take = false) → u.feFull a = true) ∧
        (∀ w ∈ s.flint.waiters, w.word = some a → w.take = true → u.feFull a = false) ∧ (∀ w ∈ u.flint.waiters, w.word = some a → w.take = true) ∧
        (s.feFull a = true → u.flint.overruns = satAdd 16 s.flint.overruns 1) ∧ (s.feFull a = false → u.flint.overruns = s.flint.overruns)) ∧
      (p.req = .feTake a → (s.feFull a = true → ∃ u r, exec (.feHomeTake id f) s = .next u ∧ u.answered id p r ∧ r.st = .ok ∧ r.flag = true ∧
          r.data = leBytes 8 (leNat (s.readLatest a 8)) ∧ u.feFull a = false ∧ u.mem.bytes = s.mem.bytes ∧ u.tiles = s.tiles) ∧
        waits (.feHomeTake id f) true) ∧
      (p.req = .fePeek a noWait → ((noWait || s.feFull a) = true → ∃ u r, exec (.feHomePeek id f) s = .next u ∧ u.answered id p r ∧ r.st = .ok ∧
          r.flag = s.feFull a ∧ r.data = leBytes 8 (leNat (s.readLatest a 8)) ∧ u.mem = s.mem ∧ u.tiles = s.tiles) ∧
        (noWait = false → waits (.feHomePeek id f) false))) ∧
  (∀ (s : State) (obj slot : Nat) (v : Word32) (z : Word) (m : HostMark), s.hostTakes → m.ep = false → m.pasid = false →
      let o := s.obj obj
      let a := s.flint.takeBase * 2 ^ 19 + 8 * slot
      (∃ u, exec (.flintWinAdd obj v m) s = .next u ∧ s.portSent u (.flintAdd obj v.toNat)) ∧
      (∃ u, exec (.flintWinSub obj v m) s = .next u ∧ s.portSent u (.flintSub obj v.toNat)) ∧
      (∃ u, exec (.flintWinArrive obj m) s = .next u ∧ s.portSent u (.flintArrive obj)) ∧
      (∃ u, exec (.feWinFill slot z m) s = .next u ∧ s.portSent u (.feFill (s.flint.vsBase * 2 ^ 19 + 8 * slot) z.toNat false)) ∧
      (s.hostQuiet = true →
        (o.state = 1 → o.abandoned = false → ∃ u, exec (.flintWinClear obj v m) s = .next u ∧ u.mem = s.mem ∧ u.tiles = s.tiles ∧
          u.obj obj = { o with ovf := o.ovf && !v.getLsbD 6, unf := o.unf && !v.getLsbD 7, when' := s.now } ∧
          ∀ n, n ≠ obj → u.obj n = s.obj n) ∧
        (s.hostHeld a 8 false = [] → ∃ u, exec (.feWinTake slot false noDramFinding) s = .next u ∧ u.feFull a = false ∧ u.mem.bytes = s.mem.bytes ∧
          u.mem.poison = s.mem.poison ∧ u.tiles = s.tiles ∧
          u.sent.getLast? = some (if s.feFull a then .bytes (leBytes 8 (s.word a).1 ++ leBytes 8 (1 + 2 * b2n (s.word a).2)) (s.word a).2
            else .bytes (leBytes 16 0) false))))

/-! ## Queues (R363 to R398) -/

/-- R365, R392, R396, R397, R478: an accepted doorbell sets the tail and notes its tick and its place in the order of arrival; in SLEEP it is recorded; one that names no queue or no entry
is counted. The admin queue's registers take the owner's writes: the base, the size, which enables the queue empty, and the tail. -/
def Obligations.Doorbells : Prop :=
  ∀ (s : State) (n : Nat) (v : Word) (m : HostMark) (w : Who) (q : WorkQueue),
    let t := v.toNat % 2 ^ 16
    let a := s.adm
    (s.portTake = .taken → s.hostQuiet = true → m.ep = false → m.pasid = false →
      (s.queue? n = some q → s.blk.state ≠ .halted → t < 2 ^ q.log2 →
        (s.blk.state ≠ .sleep → s.flt.selfTest = false → t ≠ q.tail → q.ownStall = false →
          ∃ u, exec (.workDoorbell (4096 * n) 8 v m) s = .next u ∧ u = (s.awake.setQueue n { q with
            tail := t, bells := (if q.head = q.tail then [] else q.bells) ++ [⟨(t + 2 ^ q.log2 - q.tail) % 2 ^ q.log2, s.now, s.nextId⟩] }).bump) ∧
        (s.blk.state ≠ .sleep → s.flt.selfTest = false → t = q.tail →
          ∃ u, exec (.workDoorbell (4096 * n) 8 v m) s = .next u ∧ u = s.awake) ∧
        (s.blk.state = .sleep →
          ∃ u, exec (.workDoorbell (4096 * n) 8 v m) s = .next u ∧ u = s.awake.setQueue n { q with recorded := some t })) ∧
      (s.queue? n = none ∨ s.blk.state = .halted ∨ (s.queue? n = some q ∧ 2 ^ q.log2 ≤ t) →
        ∃ u, exec (.workDoorbell (4096 * n) 8 v m) s = .next u ∧ u = { s.awake with blk := { s.blk with dbIgnored := satAdd 32 s.blk.dbIgnored 1 } })) ∧
    (s.ownerMay w →
      (a.open' = true → (v.getLsbD 0 = true ∨ v.toNat / 4096 < 2 ^ 28) → ∃ u, exec (.admqBase w v) s = .next u ∧
        u = { s.heard w with adm := { a with space := v.getLsbD 0, addr := v.toNat / 4096, baseWritten := true } }) ∧
      (a.open' = true → a.baseWritten = true → 4 ≤ bits v.toNat 0 5 → bits v.toNat 0 5 ≤ 16 → ∃ u, exec (.admqSize w v) s = .next u ∧
        u.adm.enabled = true ∧ u.adm.log2 = bits v.toNat 0 5 ∧ u.adm.head = 0 ∧ u.adm.tail = 0 ∧ u.adm.ringFailed = false ∧
        u.adm.space = a.space ∧ u.adm.addr = a.addr ∧ u = { s.heard w with adm := u.adm }) ∧
      (a.enabled = true → t < 2 ^ a.log2 → s.blk.state ≠ .sleep → s.flt.selfTest = false → t ≠ a.tail → a.ownStall = false →
        ∃ u, exec (.admqDoorbell w v) s = .next u ∧ u = State.bump { s.heard w with adm := { a with
          tail := t, bells := (if a.head = a.tail then [] else a.bells) ++ [⟨(t + 2 ^ a.log2 - a.tail) % 2 ^ a.log2, s.now, s.nextId⟩] } }) ∧
      (a.open' = false → ∃ u, exec (.admqBase w v) s = .next u ∧ u = { s.heard w with adm := { a with cfgIgnored := true } }))

/-- R366, R367, R368, R372, R388, R389: the queue to be served next has its head entry fetched; an entry with OWN = 0 stalls the head; a
well-formed one leaves the ring and is ready with its fields; a malformed one ends with MALFORMED and the lowest offending offset.
R267, R373, R380, R391, R393: an entry whose conditions hold is handed to its engines with the segment set of that moment; a missed deadline
marks its task late, is counted, and with ABORT_ON_LATE stops it. -/
def Obligations.EntriesDispatched : Prop :=
  (∀ (s : State) (n k : Nat) (q : WorkQueue) (x : Task) (c : Context) (v : Vein) (host : HostData) (a b : List Byte),
      s.queue? n = some q →
      let e := a ++ b
      let first := s.readRing k x 0 64 host
      let begun (u : State) : Prop := u.queue? n = some { q with order := q.order ++ [s.nextId] } ∧
        u.task? s.nextId = some (mkTask (some n) q.head q.context q.vein (bellOf q.bells s.now)) ∧ u.tiles = s.tiles ∧ u.mem = s.mem
      (s.nextQueue = some n → ∃ u, exec (.entryFetch (some n)) s = .next u ∧ begun u) ∧
      (q.ownStall = true → s.fetchable n { q with ownStall := false } = true → ∃ u, exec (.ownStallRetry (some n)) s = .next u ∧ begun u) ∧
      (s.tasks.find? (fun e => decide (e.2.queue = some n) && decide (e.2.phase = .fetching)) = some (k, x) → s.task? k = some x →
        q.abort = none → s.adm.running = none → first.2 = .bytes a →
        (∀ d z g, s.reachRing k x 0 false = .to (.remote d z) g → 1 < (s.rsps.filter (fun e => decide (e.2.dst = .sequencer k))).length) →
        (bit (field a 0 1) 0 = false → ∃ u, exec (.entryFetched (some n) host noDramFinding) s = .next u ∧ u.task? k = none ∧ u.mem = s.mem ∧
          u.queue? n = some { q with order := q.order.filter (fun i => i != k), ownStall := true }) ∧
        (bit (field a 0 1) 0 = true → (first.1.readRing k x 64 192 host).2 = .bytes b → s.ctx? x.context = some c → s.vein? x.vein = some v →
          setHas s.blk.veinDown x.vein = false → (∀ p ∈ s.configList c.segs e, first.1.hostHeld p.1 p.2 false = []) →
          (s.malformedAt (some v) c.segs e = none → flagWait (field e 2 2) = false → s.budgetOf q (field e 2 2) (field e 8 5) = none →
            ∃ u y, exec (.entryFetched (some n) host noDramFinding) s = .next u ∧ u.task? k = some y ∧ y.phase = .ready ∧ y.opcode = field e 1 1 ∧
              y.tag = field e 4 4 ∧ y.flags = field e 2 2 % 64 ∧ y.body = workBody e ∧ u.queue? n = some q.advance ∧ u.mem = s.mem ∧
              u.tiles = s.tiles) ∧
          (∀ off, s.malformedAt (some v) c.segs e = some off →
            ∃ u y, exec (.entryFetched (some n) host noDramFinding) s = .next u ∧ u.task? k = some y ∧ (y.phase = .ended ∨ y.phase = .due) ∧
              y.faults = x.faults ++ [(Status.malformed, mkDetail 0x40 (some off) 0 0)] ∧ y.sigObj = none ∧
              u.queue? n = some q.advance ∧ u.mem = s.mem)))) ∧
  (∀ (s : State) (k n b : Nat) (x : Task) (q : WorkQueue) (c : Context), s.task? k = some x →
      (x.phase = .ready → x.queue = some n → s.queue? n = some q → s.host.retry = false → s.blk.state ≠ .halted → s.blk.state ≠ .sleep →
        s.mayDispatch k x q = true → s.ctx? x.context = some c → c.evicted = none →
        ∃ u, exec (.entryDispatch k) s = .next u ∧ u = s.setTask k { x with
          phase := .dispatched, segs := c.segs, result := if x.opcode = 0x20 then s.now else x.result, tiles := s.covered k x q }) ∧
      (x.budget = some b → x.late = false → x.start + b ≤ s.now → x.phase = .ready ∨ x.phase = .dispatched ∨ x.phase = .running →
        ∃ u y, exec (.deadlineMiss k) s = .next u ∧ u.task? k = some y ∧ y.late = true ∧ u.blk.lateCount = satAdd 64 s.blk.lateCount 1 ∧
          (flagAbort x.flags = false → y = { x with late := true } ∧ u.mem = s.mem ∧ u.tiles = s.tiles) ∧
          (flagAbort x.flags = true → x.phase = .ready → (y.phase = .ended ∨ y.phase = .due) ∧ (y.faults.map (·.1)).contains Status.aborted = true)))

/-- R38, R344, R369, R370, R371, R389, R390, R394: a due task's 64 bytes of completion are written in its ring place; then its vector's message
is sent, its queue drops it, and its after-completion signal goes to the object's home; a malformed entry's queue halts there, and a block that
is halting halts with its last work task.
R238, R379, R380: a flush leaves no dirty line in the caches that it names, and with INVALIDATE no line, unless the parity of a tile's dirty line takes
the vein down (R233); a fence ends once every entry that it
covers has completed, and changes nothing before. -/
def Obligations.CompletionsAndFlushes : Prop :=
  (∀ (s : State) (k n a : Nat) (chk : Bool) (g : Option Segment) (x : Task) (q : WorkQueue), s.task? k = some x → x.queue = some n →
      s.adm.running = none → x.unseen = [] →
      (x.phase = .due → x.budget = none → (∀ e ∈ s.tiles, e.2.retireAsked = false ∧ e.2.rotateAsked = false) →
        s.reachRing k x 0 true = .to (.device a chk) g → s.rangePass (some x.context) a 64 = true → s.hostHeld a 64 true = [] →
        s.lockedFor none a 64 = false → s.unowned a 64 → ∃ u ls, exec (.taskCompletion k) s = .next u ∧
          u.task? k = some { x with phase := .written, srcLines := ls } ∧ s.stored u a (x.word0 ++ x.completionBody)) ∧
      (x.phase = .written → s.queue? n = some q → (x.sigObj.isSome = true → s.releasable x.vein = true) →
        let z := if q.intr && !flagNoIntr x.flags then s.sendVector q.vector else s
        ∃ u, exec (.completionInterrupt k) s = .next u ∧ u.task? k = none ∧ u.mem = s.mem ∧ u.tiles = s.tiles ∧
          u.queue? n = some { q with halted := q.halted || x.malformed, order := q.order.filter (fun i => i != k) } ∧
          (s.blk.halting = false → u.sent = z.sent ∧ u.host = z.host ∧ u.blk = s.blk) ∧
          (s.blk.halting = true → (∀ e ∈ s.tasks, e.1 ≠ k → e.2.queue = none) → u.blk.state = .halted) ∧
          (∀ o, x.sigObj = some o → x.status ≠ Status.malformed →
            ∃ m, tblFind u.pkts s.nextId = some ⟨.veinSeq x.vein, some x.context, .flintAdd o 1, none, false, false, m⟩) ∧
          (x.sigObj = none → u.pkts = s.pkts))) ∧
  (∀ (s : State) (k z range len : Nat) (x : Task) (tiles quarry inv vein : Bool) (par : CacheParity), s.onEngines k x →
      (x.body = .flush tiles quarry inv range len → (tiles && inv && s.launchRuns x.vein) = false →
        (tiles = true → z ∈ s.veinTiles x.vein → (s.tile z).readsGood par) → ∃ u, exec (.flush k z par) s = .next u ∧ s.taskDone u k x ∧
        (tiles = true → ∀ t ∈ s.veinTiles x.vein, (∀ l ∈ (u.tile t).dcache, l.host = false → l.dirty = false) ∧ (inv = true → (u.tile t).dcache = [])) ∧
        (quarry = true → ∀ p ∈ s.flushRanges x range len, ∀ e ∈ u.qc.lines, p.1 / 128 ≤ e.1 → e.1 ≤ (p.1 + p.2 - 1) / 128 → inv = false ∧ e.2.dirty = false) ∧
        (tiles = false → u.mem = s.mem ∧ u.tiles = s.tiles)) ∧
      (x.body = .flush true quarry inv range len → (inv && s.launchRuns x.vein) = false → z ∈ s.veinTiles x.vein → ¬ (s.tile z).readsGood par →
        (s.tile z).isProtected = false → ∃ u, exec (.flush k z par) s = .next u ∧ s.parityDown u z) ∧
      (x.body = .fence vein →
        ((∀ i ∈ x.tiles, s.over i = true) → ∃ u, exec (.fence k) s = .next u ∧ s.taskDone u k x ∧ u = { s with tasks := u.tasks }) ∧
        ((∃ i ∈ x.tiles, s.over i = false) → ∃ u, exec (.fence k) s = .next u ∧ u = s)))

/-! ## Work commands (R374 to R381) -/

/-- R35, R374, R376, R381: a NOP and a TIMESTAMP end; a copy and a fill start on an engine in service of their quarry, or wait for one, and with
their last chunk the destination holds the data; an inline copy writes its payload. No other byte of memory changes.
R328, R329, R344, R346, R378: the Flint commands send their operation to the object's home and end; CONFIGURE sets an object that is FREE, ABANDONED or its own
context's without waiters, is BUSY where that one has waiters, and is denied another context's; FREE empties the object and wakes its waiters with ABANDONED; WAIT registers. -/
def Obligations.WorkCommands : Prop :=
  (∀ (s : State) (k src dst n a b : Nat) (x : Task) (host : HostData) (f : DramFinding) (pat bs : List Byte) (stash : Option Nat),
      let starts (i : Instr) (src : Option Nat) : Prop :=
        let q := s.copyQuarry k x src dst
        ((s.quarry q).engines ≠ [] → ∃ u e ps, exec i s = .next u ∧ e ∈ (s.quarry q).engines ∧ u.mem = s.mem ∧ u.tiles = s.tiles ∧
          u.task? k = some { x with phase := .running, engine := some (q, e), source := ps }) ∧
        ((s.quarry q).engines = [] → ∃ u, exec i s = .next u ∧ u = s)
      (s.onEngines k x →
        (x.opcode = 0 → ∃ u, exec (.nop k) s = .next u ∧ s.taskDone u k x ∧ u = { s with tasks := u.tasks }) ∧
        (x.opcode = 0x20 → ∃ u, exec (.timestamp k) s = .next u ∧ s.taskDone u k x ∧ u = { s with tasks := u.tasks }) ∧
        (x.body = .copy src dst n stash → starts (.copy k) (some src)) ∧
        (x.body = .fill dst n pat → starts (.fill k) none) ∧
        (x.body = .copyInline dst bs none → s.sourcesHeld = false → s.ready (.sequencer k) x.context dst bs.length true = true →
          s.hostClear (.sequencer k) x.context x.segs dst bs.length true = true → s.inDevice (.sequencer k) x dst a bs.length true →
          s.unowned a bs.length → ∃ u y, exec (.copyInline k) s = .next u ∧ u.task? k = some y ∧ y.phase = .due ∧ y.bytes = x.bytes + bs.length ∧
            y.faults = x.faults ∧ s.stored u a bs)) ∧
      (s.task? k = some x → x.phase = .running → x.unseen = [] → s.sourcesHeld = false → s.inDevice (.copy k) x dst a n true → s.unowned a n →
        let landed (u : State) (d : List Byte) : Prop := ∃ y, u.task? k = some y ∧ y.phase = .due ∧ y.bytes = x.bytes + n ∧ s.stored u a d
        (x.body = .fill dst n pat → s.copyReady k x none dst n none = (s, true) → ∃ u, exec (.copyComplete k host f) s = .next u ∧
          landed u ((List.range n).map (fun i => nth 0 pat (i % 8)))) ∧
        (x.body = .copy src dst n none → s.copyReady k x (some (src, n)) dst n none = (s, true) → s.inDevice (.copy k) x src b n false →
          (∀ e ∈ s.fab.ops, e.2.src ≠ .copy k) → f.dram = .clean → f.qcache = .clean → x.srcLines = [] → ∃ u, exec (.copyComplete k host f) s = .next u ∧ landed u (s.readLatest b n)))) ∧
  (∀ (s : State) (k o v : Nat) (x : Task) (dev : Option Nat) (b : ConfigBody) (c : Cond) (g : Segment), s.onEngines k x →
      let away (u : State) (r : Req) : Prop := ∃ m, tblFind u.pkts s.nextId = some ⟨.sequencer k, some x.context, r, some k, false, false, m⟩
      let sends (i : Instr) (r : Req) : Prop := s.releasable x.vein = true → ∃ u y, exec i s = .next u ∧ u.task? k = some y ∧ y.phase = .ended ∧
        u.mem = s.mem ∧ u.flint = { s.flint with opCounts := u.flint.opCounts } ∧ (dev = none → y.unseen = [s.nextId] ∧ away u r)
      let waits (i : Instr) (r : Req) : Prop := ∃ u, exec i s = .next u ∧ u.mem = s.mem ∧
        u.flint = { s.flint with opCounts := u.flint.opCounts } ∧
        u.task? k = some { x with phase := .running, waitSeq := some (s.nextId, s.now) } ∧ away u r
      (x.body = .signalAdd dev o v → sends (.signalAdd k) (.flintAdd o v)) ∧
      (x.body = .signalSub dev o v → sends (.signalSub k) (.flintSub o v)) ∧
      (x.body = .barrierArrive dev o → sends (.barrierArrive k) (.flintArrive o)) ∧
      (x.body = .waitObject o c → waits (.wait k) (.flintWait o c)) ∧
      (x.body = .waitWord v → findSeg x.segs v = some g → g.device = s.fab.self → g.r = true → waits (.wait k) (.fePeek (g.local' v) false)) ∧
      (x.body = .signalConfigure o b → s.flintBehind k o = false →
        ((s.obj o).state = 0 ∨ ((s.obj o).state = 1 ∧ ((s.obj o).abandoned = true ∨
            ((s.obj o).owner = x.context ∧ ∀ w ∈ s.flint.waiters, w.obj ≠ some o))) → ∃ u, exec (.signalConfigure k) s = .next u ∧ u.obj o = configured b x.context s.now ∧ s.taskDone u k x ∧
          (∀ n, n ≠ o → u.obj n = s.obj n) ∧ u.mem = s.mem) ∧
        ((s.obj o).state = 1 → (s.obj o).abandoned = false → (s.obj o).owner = x.context → (∃ w ∈ s.flint.waiters, w.obj = some o) →
          ∃ u, exec (.signalConfigure k) s = .next u ∧ u.taskFailed k x .busy noDetail ∧ u.flint = s.flint) ∧
        ((s.obj o).state = 1 → (s.obj o).abandoned = false → (s.obj o).owner ≠ x.context →
          ∃ u, exec (.signalConfigure k) s = .next u ∧ u.taskFailed k x .accessDenied (mkDetail 0x0A (some o) 0 0) ∧ u.flint = s.flint)) ∧
      (x.body = .signalFree o → s.flintBehind k o = false → (s.obj o).state = 1 → (s.obj o).owner = x.context → ∃ u, exec (.signalFree k) s = .next u ∧ u.obj o = { when' := s.now } ∧
        s.taskDone u k x ∧ (∀ n, n ≠ o → u.obj n = s.obj n) ∧ (∀ w ∈ u.flint.waiters, w.obj ≠ some o) ∧ u.mem = s.mem ∧
        ∀ w ∈ s.flint.waiters, w.obj = some o → u.wakeSent w.who w.seq (s.obj o).value true))

/-! ## Admin commands (R352, R356, R364, R382 to R385) -/

/-- R364, R383, R384: CREATE_QUEUE makes an empty queue within its vein's quota; DESTROY, RESET and ABORT first abort what is in flight and then
remove the queue, set its head and tail, or leave it; on an idle queue they act at once.
R258, R261, R264, R267, R352, R383, R385: contexts are made within their vein's quota; a destroyed one's objects become ABANDONED and its granules'
tags are asked back; EVICT_CONTEXT writes its vein's objects to the image
(one outside the vein's range stays at its home: the model's reading, log entry 75); a segment takes its slot once its granules carry its tag.
R356: DUMP_SYNC_STATE writes the 16,384 records of 64 bytes, in order, and nothing else. -/
def Obligations.AdminCommands : Prop :=
  (∀ (s : State) (k n c log2 prio vector ring budget i : Nat) (intr : Bool) (x : Task) (y : Context) (v : Vein) (q : WorkQueue), s.structured = true →
      (s.onAdminTask k x (.createQueue n c log2 prio vector intr ring budget) → s.ctx? c = some y → s.vein? y.vein = some v →
        (ringOk y.segs ring (256 * 2 ^ log2) = true → s.queue? n = none → (s.queues.filter (fun e => e.2.vein == y.vein)).length < v.queueQuota →
          ∃ u, exec .createQueue s = .next u ∧ s.taskDone u k x ∧ (∀ m, m ≠ n → u.queue? m = s.queue? m) ∧ u.mem = s.mem ∧
            u.queue? n = some ⟨c, y.vein, prio, log2, ring, vector, intr, budget, 0, 0, false, false, [], [], none, none⟩) ∧
        (ringOk y.segs ring (256 * 2 ^ log2) = true → (s.queue? n).isSome = true →
          ∃ u, exec .createQueue s = .next u ∧ u.taskFailed k x .busy noDetail ∧ u.queues = s.queues)) ∧
      (s.queue? n = some q → q.order = [] → q.head = q.tail → (∀ e ∈ s.tasks, e.2.queue ≠ some n) →
        (s.onAdminTask k x (.abortQueue n) → ∃ u, exec .abortQueue s = .next u ∧ s.taskDone u k x ∧
          u.queue? n = some { q with abort := none, ownStall := false }) ∧
        (s.onAdminTask k x (.resetQueue n i) → ∃ u, exec .resetQueue s = .next u ∧ s.taskDone u k x ∧ u.queue? n = some { q with
          head := i, tail := i, bells := [], halted := false, ownStall := false, recorded := none, abort := none }) ∧
        (s.onAdminTask k x (.destroyQueue n) → ∃ u, exec .destroyQueue s = .next u ∧ s.taskDone u k x ∧ u.queue? n = none ∧
          ∀ m, m ≠ n → u.queue? m = s.queue? m)) ∧
      (s.onAdminTask k x (.abortQueue n) → s.queue? n = some q → q.order ≠ [] → tblSorted s.tasks = true → ∃ u, exec .abortQueue s = .next u ∧
        u.task? k = some { x with phase := .running } ∧ u.queue? n = some { q with abort := some q.tail, ownStall := false })) ∧
  (∀ (s : State) (k c vein pasid image slot : Nat) (x : Task) (y : Context) (v : Vein) (d g : Segment), s.structured = true → c < 4096 →
      (s.onAdminTask k x (.createContext c vein pasid) → s.vein? vein = some v → s.ctx? c = none →
        (s.ctxs.filter (fun e => e.2.vein == vein)).length < v.contextQuota →
        ∃ u, exec .createContext s = .next u ∧ s.taskDone u k x ∧ u.ctx? c = some ⟨vein, pasid, [], none⟩ ∧
          (∀ b, b ≠ c → u.ctx? b = s.ctx? b) ∧ u.mem = s.mem) ∧
      (s.ctx? c = some y → y.evicted = none →
        (s.onAdminTask k x (.destroyContext c) → (∀ e ∈ s.queues, e.2.context ≠ c) → ∃ u, exec .destroyContext s = .next u ∧ u.ctx? c = none ∧
          (∀ n, (s.obj n).state = 1 → (s.obj n).owner = c → (u.obj n).abandoned = true) ∧
          (∀ n, s.tagOf n = BitVec.ofNat 16 (0x8000 + c) → (∀ e ∈ s.ctxs, e.1 ≠ c → ∀ f ∈ e.2.segs, s.segHasGran f.2 n = false) →
            tblFind u.mem.changes n = some 0) ∧ u.mem.bytes = s.mem.bytes ∧ u.mem.tags = s.mem.tags) ∧
        (s.onAdminTask k x (.evictContext c image) → s.vein? y.vein = some v → image % 64 = 0 →
          inSlots y.segs (fun g => g.device == s.fab.self && g.w && !g.tagged && !g.mica) image (64 * v.flintCount) = true →
          (∀ i, i < 64 * v.flintCount → findSeg y.segs (image + i) = some g) → s.ctxBusy c = false →
          (∀ w ∈ s.flint.waiters, s.waiterOf c w = false) → s.hostClear .quartz c y.segs image (64 * v.flintCount) true = true →
          (∀ z, s.wayBack z = none) → 0 < v.flintCount → tblSorted s.flint.objs = true →
          ∃ u, exec .evictContext s = .next u ∧ s.taskDone u k x ∧ u.ctx? c = some { y with evicted := some ⟨image, v.flintFirst⟩ } ∧
            ∀ n, (s.obj n).state = 1 → (s.obj n).owner = c →
              (v.flintFirst ≤ n → n < v.flintFirst + v.flintCount → u.obj n = { s.obj n with state := 2 } ∧
                memRead u.mem.bytes (g.local' (image + 64 * (n - v.flintFirst))) 64 = s.record n (s.obj n)) ∧
              (n < v.flintFirst ∨ v.flintFirst + v.flintCount ≤ n → u.obj n = s.obj n)) ∧
        (s.onAdminTask k x (.setSegment c slot d) → (d.gran = 0 ∨ ∀ e ∈ y.segs, e.1 = slot ∨ e.2.overlaps d = false) →
          (∀ n ∈ s.segGranules d, s.granDenied c y.vein d n = false) → (s.fab.assigned = true ∨ d.device = 0) → tblFind y.segs slot = none →
          ((∀ n ∈ s.segGranules d, s.tagOf n = segTag c d) → s.mem.changes = [] → ∃ u, exec .setSegment s = .next u ∧ s.taskDone u k x ∧ u.mem = s.mem ∧
            u.ctx? c = some { y with segs := if d.gran = 0 then tblDel y.segs slot else tblPut y.segs slot d }) ∧
          (∀ n ∈ s.segGranules d, s.tagOf n ≠ segTag c d → ∃ u, exec .setSegment s = .next u ∧ tblFind u.mem.changes n = some (segTag c d) ∧
            u.task? k = some { x with phase := .running } ∧ u.ctxs = s.ctxs ∧ u.mem.bytes = s.mem.bytes)))) ∧
  (∀ (s : State) (k a : Nat) (x : Task), s.onAdminTask k x (.dumpSyncState 0 a) → s.hostHeld a (2 ^ 20) true = [] → s.unowned a (2 ^ 20) →
      ∃ u, exec .dumpSyncState s = .next u ∧ s.taskDone u k x ∧ s.stored u a s.dump ∧ s.dump.length = 2 ^ 20 ∧ u.flint = s.flint)

/-! ## Strata loads (R64 to R76) -/

/-- R64, R65, R67, R70, R72, R75, R76: a load starts only when idle; a rejected image changes no structure and gives its code; an accepted one
waits in the staging buffer while the host holds lines of a granule that changes, and is then switched in as clamped, with its report; the end of the load zeroes the granules that changed hands and leaves UNSTRUCTURED. -/
def Obligations.StrataLoads : Prop :=
  ∀ (s r : State) (k space kind vein a len c : Nat) (x : Task) (l : Load) (host : HostData) (img : List Byte) (rs : List ImgRec),
    (s.onAdminTask k x (.loadStrata space kind vein a len) →
      (s.loadIdle kind vein = true → ∃ u m, exec .loadStrata s = .next u ∧ u.task? k = some { x with phase := .running } ∧ u.strata.load = some m ∧
        m.task = k ∧ m.switched = false ∧ m.isPartial = (kind == 1) ∧ u.strata.str = s.strata.str ∧ u.mem = s.mem ∧ u.tiles = s.tiles) ∧
      (s.loadIdle kind vein = false → ∃ u, exec .loadStrata s = .next u ∧ u.taskFailed k x .busy noDetail ∧ u.strata.lastResult = 11 ∧
        u.strata.str = s.strata.str ∧ u.mem = s.mem ∧ u.tiles = s.tiles)) ∧
    (s.strata.load = some l → s.task? l.task = some x →
      (x.admin = some (.loadStrata space kind vein a len) → l.switched = false → x.faults = [] →
        (l.staged = none ∧ s.stage l.task space a len host = .image r img) ∨ (l.staged = some img ∧ r = s) →
        (checkImage s.fuses.1 s.fuses.2 kind vein img = .bad c → ∃ u, exec (.strataStaged host noDramFinding) s = .next u ∧
          u.strata = { s.strata with lastResult := c, load := none } ∧ u.taskFailed l.task x (rejectStatus c) noDetail ∧ u.mem = s.mem ∧ u.tiles = s.tiles) ∧
        (checkImage s.fuses.1 s.fuses.2 kind vein img = .ok rs →
          let b := if l.isPartial then r.clampPartial vein rs else r.clampFull rs
          let held := s.heldIn (granChanges l.isPartial l.vein s.strata.str b.str (fun q => bit s.upBits q) (s.upWith b.str))
          (held ≠ [] → ∃ u, exec (.strataStaged host noDramFinding) s = .next u ∧
            u.strata = { s.strata with load := some { l with staged := some img } } ∧ u.tasks = s.tasks ∧ u.mem = s.mem ∧ u.tiles = s.tiles) ∧
          (held = [] → ∃ u m, exec (.strataStaged host noDramFinding) s = .next u ∧ u.strata.inForce = true ∧ u.strata.clamps = b.notes ∧
            u.strata.str = { b.str with digest := BitVec.ofNat 384 (sha384 ((noCrc img).take (img.length - 0x100))) } ∧
            u.strata.lastResult = (if b.notes = [] then 1 else 2) ∧ u.strata.loads = satAdd 16 s.strata.loads 1 ∧ u.strata.load = some m ∧
            m.switched = true ∧ m.old = s.strata.str ∧ u.tasks = s.tasks ∧ u.blk.state = s.blk.state ∧
            (l.isPartial = false → s.pwr.alertFloor = false →
              ∀ q, q < 8 → (u.qpower q).fset = tblGet 25 b.finit q ∧ (u.qpower q).boost = 0)))) ∧
      (l.switched = true → x.unseen = [] → ∃ u, exec .strataLoadDone s = .next u ∧ u.strata.load = none ∧
        s.taskDone u l.task { x with result := s.strata.lastResult + 2 ^ 32 * s.strata.clamps.length } ∧
        u.blk.state = (if s.blk.state = .unstructured then .structured else s.blk.state) ∧
        (l.isPartial = false → u.flint.objs = [] ∧ u.strata.str = s.strata.str ∧ ∀ z, memGet u.mem.bytes z =
          if granChanges false l.vein l.old s.strata.str (fun q => bit l.oldUp q) s.present (granOf z) then 0 else memGet s.mem.bytes z)))

/-! ## Host-space translation (R272 to R286) -/

/-- R273, R275, R276, R278: a translation that grants its access is cached and its request ends; one without permission becomes a page request; a failed
one traps its tile; a page response of Success asks for the translation, which is then cached and frees the slot, Response Failure stops page requests, and a timed-out slot stays held.
R279, R280, R282: an invalidation empties the PASID's cached translations at once and keeps the placements; it completes, oldest first, once no access
under it is under way, and after 200 µs with those accesses ended. -/
def Obligations.Translations : Prop :=
  (∀ (s : State) (id slot base size t : Nat) (q : XReq) (p : PageSlot) (r w : Bool),
      let cached (u : State) (e : AtcEntry) : Prop := ∃ n, { e with stamp := n } ∈ u.xlat.atc
      (tblFind s.xlat.reqs id = some q → q.slot = none → id < s.nextId →
        (permits q.write r w = true → let e := atcEntry q.pasid q.page base size r w
          ∃ u, exec (.translationCompletion id (.success base size r w false)) s = .next u ∧ tblFind u.xlat.reqs id = none ∧ cached u e ∧
          (s.isPrefetch q.stream = false → s.host.up = [] → (⟨q.stream, q.pasid, q.page, some (e.pa + (q.page * 4096 - e.va)), w⟩ : XGrant) ∈ u.xlat.grants) ∧
          u.mem = s.mem ∧ (s.host.up = [] → u.tiles = s.tiles)) ∧
        (permits q.write r w = false → q.faultIn = true → s.xlat.priStopped = false → s.host.priEn = true → s.host.bme = true → s.host.linkUp = true →
          (∀ e ∈ s.xlat.slots, e.2.serves q = false) →
          s.xlat.slots.length < s.slotLimit → ∃ u i, exec (.translationCompletion id (.success base size r w false)) s = .next u ∧
            tblFind u.xlat.slots i = some ⟨q.pasid, q.page, q.write, [q.stream], 1, s.now, false, false⟩ ∧
            Sent.pageRequest i q.pasid q.page q.write ∈ u.sent ∧ u.mem = s.mem ∧ (s.host.up = [] → u.tiles = s.tiles)) ∧
        (q.stream = .tile t → (s.tile t).run = .running → (s.tile t).task.isSome = true → s.host.up = [] →
          ∃ u, exec (.translationCompletion id .unsupported) s = .next u ∧
            s.trapped u t .xlat (some (2 ^ 63 + q.page * 4096)) (s.tile t).pc)) ∧
      (tblFind s.xlat.reqs id = some q → q.slot = some slot → tblFind s.xlat.slots slot = some p → s.xlat.slotWait = [] →
        permits p.write r w = true → ∃ u, exec (.translationCompletion id (.success base size r w false)) s = .next u ∧
          tblFind u.xlat.slots slot = none ∧ cached u (atcEntry p.pasid p.page base size r w) ∧ u.mem = s.mem ∧
          (s.host.up = [] → u.tiles = s.tiles)) ∧
      (tblFind s.xlat.slots slot = some p → p.dead = false → p.unsent = false → s.slotAsked slot = false →
        (s.xlat.slotWait = [] → s.upstreamOpen = true → s.host.atsEn = true → ∃ u, exec (.prgResponse slot .success) s = .next u ∧
          tblFind u.xlat.reqs s.nextId = some ⟨.quartz, p.pasid, p.page, p.write, true, some slot⟩ ∧
          Sent.translation s.nextId p.pasid p.page p.write ∈ u.sent ∧ u.xlat.slots = s.xlat.slots ∧ u.mem = s.mem ∧
          (s.host.up = [] → u.tiles = s.tiles)) ∧
        (∃ u, exec (.prgResponse slot .failure) s = .next u ∧ u.xlat.priStopped = true ∧ u.xlat.pageFails = satAdd 64 s.xlat.pageFails 1) ∧
        (p.since + s.xlat.priTimeout ≤ s.now → ∃ u y, exec (.priTimeout slot) s = .next u ∧ tblFind u.xlat.slots slot = some y ∧ y.dead = true ∧
          y.waiters = [] ∧ u.xlat.pageFails = satAdd 64 s.xlat.pageFails 1))) ∧
  (∀ (s : State) (pasid : Option Nat) (i : Option Nat × Nat × Tbl Nat) (rest : List (Option Nat × Nat × Tbl Nat)),
      (s.host.linkUp = true → s.xlat.invals.length < 32 → ∃ u uses, exec (.atsInvalidation pasid) s = .next u ∧
        (∀ e ∈ u.xlat.atc, covers pasid e.pasid = false) ∧ (∀ e ∈ s.xlat.atc, covers pasid e.pasid = false → e ∈ u.xlat.atc) ∧
        u.xlat.placed = s.xlat.placed ∧ u.xlat.invals = s.xlat.invals ++ [(pasid, s.now, uses)] ∧ u.mem = s.mem) ∧
      (s.xlat.invals = i :: rest →
        ((∀ e ∈ i.2.2, s.useOpen e.1 = false) → s.releasedUse i.1 = false → ∃ u, exec .invalidationCompletion s = .next u ∧ u.xlat.invals = rest ∧
          u.sent = s.sent ++ [.invalidationDone i.1] ∧ u.xlat.invalidations = satAdd 64 s.xlat.invalidations 1 ∧
          u.xlat.drainMax = Nat.max s.xlat.drainMax (s.now - i.2.1) ∧ u.mem = s.mem ∧ u.tiles = s.tiles) ∧
        ((∃ e ∈ i.2.2, s.useOpen e.1 = true) → i.2.1 + 20000 ≤ s.now → (∀ e ∈ i.2.2, e.1 < s.nextId) →
          ∃ u, exec .invalidationDrainTimeout s = .next u ∧ u.xlat.invals.length = rest.length ∧ u.sent.getLast? = some (.invalidationDone i.1) ∧
            ∀ e ∈ i.2.2, tblFind u.host.up e.1 = none)))

/-- R283 to R286: a prefetch asks for the pages that miss and ends when none does; advice touches caches alone, and WILL_NOT_NEED leaves no line and no
translation of its range; PREFER_DEVICE copies its range and installs its placement, which PREFER_HOST takes back. -/
def Obligations.Advice : Prop :=
  ∀ (s : State) (k a n d b : Nat) (x : Task) (w fi : Bool) (bs : List Byte) (p : Placement), s.onEngines k x →
    let left := ((pagesOf (hostAddr a) (4096 * n)).filter (fun p => (s.atcHit (s.pasidOf x.context) p w).isNone)).map (· / 4096)
    (x.body = .prefetchXlat a n w fi →
      (left = [] → ∃ u, exec (.prefetchXlat k) s = .next u ∧ s.taskDone u k { x with tiles := [] } ∧ u = { s with tasks := u.tasks }) ∧
      (left ≠ [] → ∃ u, exec (.prefetchXlat k) s = .next u ∧ u.task? k = some { x with phase := .running, tiles := left } ∧ u.mem = s.mem ∧
        u.tiles = s.tiles)) ∧
    (x.body = .adviseWillNeed a n → isHostVa a = false → (∀ q ∈ s.advisedParts x a n, s.rangePass (some x.context) q.1 q.2 = true) →
      ∃ u, exec (.adviseWillNeed k) s = .next u ∧ s.taskDone u k x ∧ u.mem = s.mem ∧ u.tiles = s.tiles ∧ u.homes = s.homes) ∧
    (x.body = .adviseWillNotNeed a n → ∃ u, exec (.adviseWillNotNeed k) s = .next u ∧ s.taskDone u k x ∧ u.mem = s.mem ∧
      (isHostVa a = true → ∀ e ∈ u.xlat.atc, e.pasid = s.pasidOf x.context → hostAddr a + n ≤ e.va ∨ e.va + e.size ≤ hostAddr a) ∧
      (isHostVa a = false → ∀ q ∈ s.advisedParts x a n, ∀ e ∈ u.qc.lines, e.1 < q.1 / 128 ∨ (q.1 + q.2 - 1) / 128 < e.1)) ∧
    (x.body = .preferDevice a n d → isHostVa a = true → bs.length = n → s.placeBusy x.context a n = false →
      segCover x.segs (fun g => g.r && g.w && g.device == s.fab.self) d n = true → s.ready (.sequencer k) x.context a n false = true →
      s.hostClear (.sequencer k) x.context x.segs d n true = true →
      (∀ i, i < n → ∃ pa io g, s.reach (.sequencer k) x.context x.segs (a + i) false = .to (.host pa io) g) →
      s.answersOf (.sequencer k) x.context x.segs a n (.data bs false) = true → s.inDevice (.sequencer k) x d b n true → s.unowned b n →
      ∃ u y, exec (.preferDevice k (.data bs false)) s = .next u ∧ u.task? k = some y ∧ y.phase = .due ∧ y.bytes = x.bytes ∧ s.stored u b bs ∧
        u.xlat.placed = s.xlat.placed ++ [⟨x.context, a, n, d, false⟩]) ∧
    (x.body = .preferHost a n →
      let here (q : Placement) : Bool := q.context == x.context && q.host == a && q.len == n
      (s.xlat.placed.find? here = none → ∃ u, exec (.preferHost k noDramFinding) s = .next u ∧ s.taskDone u k x ∧ u = { s with tasks := u.tasks }) ∧
      (s.xlat.placed.find? here = some p → ∀ y : Task, { y with phase := .dispatched } = { x with tiles := y.tiles } → y.phase = .running →
        y.tiles ≠ [] → ∃ u, exec (.preferHost k noDramFinding) { s with tasks := tblPut s.tasks k y } = .next u ∧ s.taskDone u k y ∧ u.mem = s.mem ∧
        u.xlat.placed = s.xlat.placed.filter (fun q => !here q)))

/-! ## The host's interface (R269, R399 to R429) -/

/-- R269, R406, R407, R409, R422, R478: an access through BAR4 becomes a request of the host port at its LOCAL address, in order; a poisoned write marks its
words; one outside the BAR, or in SLEEP, is an Unsupported Request; one with a PASID prefix is discarded and reported (its place in the
error status, log entry 7); the BAR takes a size while it is disabled.
R292, R411, R421, R422, R425: the completion behind a write upstream ends it for its task, with a fault where it was refused or timed out; a load's
brings its bytes to its register; one that matches no request is reported as unexpected, and one of a request that FLR abandoned (R419) is
discarded. -/
def Obligations.HostTraffic : Prop :=
  (∀ (s : State) (off n : Nat) (bs : List Byte) (m : HostMark) (steer : BitVec 16) (w swap : Bool) (cas : Option Word) (v : Word),
      (s.portTake = .taken →
        (s.bar4Takes off n = true → n ≠ 0 → ∃ u, exec (.bar4Read off n false) s = .next u ∧ s.portSent u (.read (s.bar4Local off) n false)) ∧
        (s.bar4Takes off 0 = true → s.hostQuiet = true → ∃ u, exec (.bar4Read off 0 false) s = .next u ∧ u = s.awake.emit (.bytes [] false)) ∧
        (s.bar4Takes off n = false → ∃ u, exec (.bar4Read off n false) s = .next u ∧ u = s.awake.unsupported) ∧
        (s.bar4Takes off bs.length = false → m.pasid = false → ∃ u, exec (.bar4Write off bs m steer) s = .next u ∧ u = s.awake.aerAdvisory 20) ∧
        (m.pasid = true → ∃ u, exec (.bar4Write off bs m steer) s = .next u ∧ u = s.awake.aer 25) ∧
        (∃ u, exec (.bar4Read off n true) s = .next u ∧ u = s.awake.aer 25) ∧
        (s.bar4Takes off bs.length = true → bs ≠ [] → m.pasid = false → ∃ u, exec (.bar4Write off bs m steer) s = .next u ∧
          s.portSent u (.write (s.bar4Local off) bs m.ep (s.steerTile steer)) ∧ (m.ep = true → setHas u.host.aerUncorrectable 12 = true)) ∧
        (off % (if w then 8 else 4) = 0 → s.bar4Takes off (if w then 8 else 4) = true → ∃ u, exec (.bar4Atomic off w swap cas v false) s = .next u ∧
          s.portSent u (.amo (s.bar4Local off) w (if cas.isSome then 2 else if swap then 1 else 0) (cas.getD 0).toNat v.toNat false))) ∧
      (s.configOpen → s.host.mse = false → 36 ≤ n → n ≤ 40 → ∃ u, exec (.bar4Resize n) s = .next u ∧ u.host.bar4Log2 = n ∧
        u.xlat.bar4Window = windowBits n s.xlat.bar4Window ∧ u.mem = s.mem ∧ u.tiles = s.tiles)) ∧
  (∀ (s : State) (id k c t : Nat) (r : UpReq) (x : Task) (p : PendOp) (bs : List Byte) (po : Bool) (d : HostData),
      (tblFind s.host.up id = none → ∃ u, exec (.cxlioReadCompletion id d) s = .next u ∧
        u = if setHas s.host.abandoned id then { s with host := { s.host with abandoned := setDel s.host.abandoned id } } else s.aer 16) ∧
      (tblFind s.host.up id = some r → r.sent = true →
        (r.kind = .ioWrite → r.src = .copy c → r.task = some k → s.task? k = some x → x.phase = .running → (∀ b, x.body ≠ .launch b) →
          let ends (i : Instr) (fs : List (Status × Detail)) : Prop := ∃ u, exec i s = .next u ∧ tblFind u.host.up id = none ∧ u.mem = s.mem ∧ u.tiles = s.tiles ∧
            u.task? k = some { x with faults := x.faults ++ fs, unseen := setDel x.unseen id }
          ends (.cxlioReadCompletion id (.data bs false)) [] ∧
          ends (.cxlioReadCompletion id .refused) [(Status.refusedP2p, mkDetail 0x4C (some r.addr) 0 0)] ∧
          (s.host.timeoutOff = false → ends (.completionTimeout id) [(Status.poisonedOutput, noDetail)])) ∧
        (r.kind = .ioRead → r.src = .tile t → (s.tile t).keeps id = false → (s.tile t).released = [] → (s.tile t).run = .running →
          (s.tile t).pend.find? (fun p => p.waits.any (fun w => w.1 == id)) = some p → p.kind = .load → p.waits = [(id, 0, p.size)] → p.overlay = [] →
          0 < p.size → p.size = r.len → bs.length = r.len → p.poisoned = false → ∃ u, exec (.cxlioReadCompletion id (.data bs po)) s = .next u ∧
            tblFind u.host.up id = none ∧ (u.tile t).pc = (s.tile t).pc ∧ u.mem = s.mem ∧
            (∀ q, (u.tile t).gr q = if q = 0 then 0 else if q = p.rd then extend p.size p.zx (leNat bs) else (s.tile t).gr q) ∧
            (p.rd ≠ 0 → (u.tile t).gp p.rd = po))))

/-- R400, R403, R404, R408, R412 to R415, R421: configuration fields take their values; the HDM decoder commits one range of 1 TiB or reports
an error, and holds a locked range (what a lock does, log entry 48; clearing error status, log entry 7); Cache Writeback and Invalidate empties the tiles' copies of host memory; unmasking a vector sends its pending message; an idle block enters L1.
R405: the DOE mailbox answers its protocols, the memory's size, latency and bandwidth, and the SPDM requests, from the block's identity, and changes
nothing else. -/
def Obligations.HostConfiguration : Prop :=
  (∀ (s : State) (base size ways v : Nat) (f : CfgField),
      (s.configOpen → ∃ u, exec (.configurationWrite f) s = .next u ∧
        (s.xlat.slotWait = [] → s.host.up = [] → u.mem = s.mem ∧ u.tiles = s.tiles) ∧
        match f with
        | .memorySpaceEnable b => u.host.mse = b
        | .busMasterEnable b => u.host.bme = b
        | .priEnable b => u.host.priEn = b
        | .atsEnable b => u.host.atsEn = b
        | .cacheEnable b => u.host.cacheEn = b
        | .memEnable b => u.host.memEn = b
        | .msixEnable b => u.host.msixEn = b
        | .functionMask b => u.host.functionMask = b
        | .msiEnable b n => u.host.msiEn = b ∧ u.host.msiLog2 = Nat.min n 5
        | .msiMask b => u.host.msiMask = b
        | .pmeEnable b => u.host.pmeEn = b
        | .aspmL1Enable b => u.host.aspmL1 = b
        | .maxPayload c => u.host.maxPayload = c
        | .maxReadRequest c => u.host.maxReadRequest = c
        | .completionTimeout c b => u.host.timeoutValue = c ∧ u.host.timeoutOff = b
        | .priAllocation n => u.host.priAlloc = n
        | .barBase i b => s.host.bars.length = 3 → nth 0 u.host.bars i.val = b % 2 ^ 64 / 2 ^ s.barLog2 i.val * 2 ^ s.barLog2 i.val
        | .msiAddress a d => u.host.msiAddr = a ∧ u.host.msiData = d
        | .aerSeverity b => ∀ i, i < 32 → setHas u.host.aerSevere i = b.getLsbD i
        | .aerClear c z => (∀ i, setHas u.host.aerCorrectable i = (setHas s.host.aerCorrectable i && !c.getLsbD i)) ∧
          ∀ i, setHas u.host.aerUncorrectable i = (setHas s.host.aerUncorrectable i && !z.getLsbD i)) ∧
      (s.portTake = .taken → s.hostQuiet = true → ∀ lock, ∃ u, exec (.hdmDecoderCommit base size ways lock) s = .next u ∧
        u = if s.host.hdmLock then s.awake else { s.awake with host := { s.awake.host with
          hdm := if size = 2 ^ 40 ∧ ways = 0 then some base else none, hdmError := !(size == 2 ^ 40 && ways == 0)
          hdmLock := lock && size == 2 ^ 40 && ways == 0 } }) ∧
      (s.configOpen → ∃ u, exec .cacheWritebackInvalidate s = .next u ∧ u.host.cacheInvalid = true ∧ u.mem = s.mem ∧
        ∀ t, ∀ l ∈ (u.tile t).dcache, l.host = false) ∧
      (s.portTake = .taken → s.hostQuiet = true → v < 2048 → ∃ u, exec (.msixUnmask v) s = .next u ∧
        tblGet {} u.host.msix v = { (tblGet {} s.host.msix v : MsixEntry) with masked := false } ∧
        (setHas s.host.pba v = true → s.host.bme = true → s.host.msixEn = true → s.host.functionMask = false →
          Sent.msix v (tblGet {} s.host.msix v).addr (tblGet {} s.host.msix v).data ∈ u.sent ∧ setHas u.host.pba v = false)) ∧
      (s.host.aspmL1 = true → s.host.linkUp = true → s.idle = true → s.host.inL1 = false → ∃ u, exec .aspmL1Entry s = .next u ∧
        u = { s with host := { s.host with inL1 := true } }.emit .aspmL1)) ∧
  (∀ (s : State) (slot off len index : Nat) (nonce : BitVec 256), s.configOpen →
      let answers (i : Instr) (a : DoeAnswer) : Prop := ∃ u, exec i s = .next u ∧ u = s.awake.emit (.doe a)
      answers (.doeDiscovery index) (.protocol (doeProtocol index)) ∧ answers (.cdatRead 0) (.affinity (2 ^ 40) 600 121) ∧
      (index ≠ 0 → answers (.cdatRead index) .noEntry) ∧ answers .getVersion (.version 1 2) ∧
      answers .getCapabilities (.capabilities Config.spdmCapabilities) ∧ answers .negotiateAlgorithms (.algorithms true true) ∧
      answers .getDigests (.digests Config.spdmDigests) ∧
      answers (.getCertificate slot off len) (.certificate (((Config.certificateChain slot).drop off).take len)) ∧
      answers (.challenge nonce) (.challenge (Config.challengeAnswer nonce)) ∧
      answers (.getMeasurements index) (.measurements Config.romVersion.toNat s.strata.str.microcode s.strata.str.digest))

/-! ## Registers (R12 to R18, R511, R529 to R536) -/

/-- R12, R18, R517, R530: a read of a read-clear counter answers its value and clears it; the sideband reads a register's value; its memory accesses become
requests, writes from the owner alone.
R12, R15, R16, R19, R404, R422, R517, R527: an owner's write of a register without a command of its own takes effect, from the host or the sideband; another
writer's is counted; a wrong width or place is recorded. A write of a CXL component register, whose effect the spec leaves to CXL 3.1, stops. -/
def Obligations.Registers : Prop :=
  (∀ (s : State) (off a v : Nat) (w : Who) (bs : List Byte), s.blk.quartz.isSome = true →
      (s.hostTakes → s.hostQuiet = true → let z := s.awake
        let reads (i : Instr) (v : Nat) (t : State) : Prop := ∃ u, exec i s = .next u ∧ u = t.emit (.readData v)
        reads (.ownDeniedCount false) s.own.denied { z with own := { z.own with denied := 0 } } ∧
        reads (.queueDbIgnored false) s.blk.dbIgnored { z with blk := { z.blk with dbIgnored := 0 } } ∧
        reads (.flintFaults false) (s.flint.ovfs + s.flint.unfs * 2 ^ 16 + s.flint.overruns * 2 ^ 32 + s.flint.abandons * 2 ^ 48)
          { z with flint := { z.flint with ovfs := 0, unfs := 0, overruns := 0, abandons := 0 } } ∧
        reads (.flintWinIgnored false) s.flint.winIgnored { z with flint := { z.flint with winIgnored := 0 } } ∧
        reads (.xlatDrainMax false) s.xlat.drainMax { z with xlat := { z.xlat with drainMax := 0 } } ∧
        reads (.fabEvents false) (s.fab.peerLosses + s.fab.authFailures * 2 ^ 16 + s.fab.refused * 2 ^ 32 + s.fab.notReady * 2 ^ 48)
          { z with fab := { z.fab with peerLosses := 0, authFailures := 0, refused := 0, notReady := 0 } }) ∧
      (off % 8 = 0 → off < 0x300000 → s.reg64 off = some v → ∃ u, exec (.regRead off 8) s = .next u ∧ u.sent = s.sent ++ [.sidebandData (s.shown off v)] ∧
        u.mem = s.mem ∧ u.tiles = s.tiles) ∧
      (s.blk.state ≠ .sleep → bs ≠ [] → bs.length ≤ 256 → a + bs.length ≤ 2 ^ 40 →
        (∃ u, exec (.memRead a bs.length) s = .next u ∧ u = s.sendPkt .quartz none (.read a bs.length false) none) ∧
        (w ≠ .host → s.isOwner w = true → ∃ u, exec (.memWrite w a bs) s = .next u ∧ u = s.sendPkt .quartz none (.write a bs false none) none) ∧
        (w ≠ .host → s.isOwner w = false → ∃ u, exec (.memWrite w a bs) s = .next u ∧ u = s.denied))) ∧
  (∀ (s : State) (w : Who) (i : Nat → Nat → Word → Instr) (v : Word) (off : Nat), s.blk.quartz.isSome = true → s.unstructured = false →
      ((i = (fun off n v => Instr.registerWrite off n v ⟨false, false⟩) ∧ w = .host ∧ s.portTake = .taken ∧ s.hostQuiet = true) ∨
        (i = (fun off n v => Instr.regWrite w off n v) ∧ w ≠ .host)) →
      let z := s.heard w
      (s.ownerMay w →
        (∃ u, exec (i 0x10018 8 v) s = .next u ∧ u = { z with own := { z.own with leaseMs := clampTo 100 60000 (v.toNat % 2 ^ 16) } }) ∧
        (∃ u, exec (i 0x340000 8 v) s = .next u ∧ u = { z with flint := { z.flint with vsBase := bits v.toNat 19 21 } }) ∧
        (∃ u, exec (i 0x340008 8 v) s = .next u ∧ u = { z with flint := { z.flint with takeBase := bits v.toNat 19 21 } }) ∧
        (∃ u, exec (i 0x600010 8 v) s = .next u ∧ u = { z with xlat := { z.xlat with priTimeout := Nat.max (2 ^ 20) (v.toNat % 2 ^ 40) } }) ∧
        (∃ u, exec (i 0x100018 8 v) s = .next u ∧
          u = { z with flt := { z.flt with vector := bits v.toNat 0 11, enable := bit v.toNat 11, level := bits v.toNat 12 2 } })) ∧
      (s.isOwner w = false → ∃ u, exec (i 0x10018 8 v) s = .next u ∧ u = z.denied) ∧
      (∃ u, exec (i 0x600020 4 v) s = .next u ∧ u = { z with xlat := { z.xlat with tagIndex := v.toNat % 2 ^ 19 } }) ∧
      (∃ u, exec (i 0x10018 4 v) s = .next u ∧ u.own = s.own) ∧
      (∃ u, exec (i 0x10018 2 v) s = .next u ∧ u.own = s.own ∧ (s.noFold .registerIgnored noQuarry 0x18 → s.logged u .registerIgnored .notice 0x18 0x10018 2)) ∧
      (0x800000 ≤ off → off < 0x810000 → off % 4 = 0 → exec (i off 4 v) s = .refused .cxlComponentRegister))

/-! ## Ownership (R516 to R527) -/

/-- R515, R518 to R521, R523: a claim of an unowned block with a higher epoch wins, starts a full lease and takes the admin queue out of service; a renewal restarts the
lease, a lapse ends it and leaves the block ORPHANED; a handover names a successor and lapses after 100 ms. -/
def Obligations.Ownership : Prop :=
  ∀ (s : State) (e eid : BitVec 32) (id : BitVec 8) (w : Who) (v : Word),
    let lease := s.now + s.own.leaseMs * msTicks
    let won (u : State) (k : OwnKind) (i : BitVec 8) : Prop := u.own.st = .held ∧ u.own.kind = k ∧ u.own.eid = i ∧ u.own.epoch = e ∧ u.own.leaseEnd = lease ∧
      (u.adm.enabled = false ∨ u.adm.disableAfter = true) ∧ (s.blk.state = .orphaned → u.blk.state = s.serviceState) ∧ u.mem = s.mem ∧ u.tiles = s.tiles
    (s.blk.quartz.isSome = true → s.own.st = .vacant ∨ s.own.st = .lapsed →
      (s.portTake = .taken → s.hostQuiet = true →
        (s.own.epoch.toNat < e.toNat → ∃ u, exec (.ownClaim e) s = .next u ∧ won u .host 0) ∧
        (e.toNat ≤ s.own.epoch.toNat → ∃ u, exec (.ownClaim e) s = .next u ∧ u = s.awake.denied)) ∧
      (s.own.epoch.toNat < e.toNat → (∃ u, exec (.claim (.sideband id e)) s = .next u ∧ won u .sideband id ∧ u.sent.getLast? = some (.claimResult true)) ∧
        ∃ u, exec (.claim (.remote id e)) s = .next u ∧ won u .remote id ∧ u.sent.getLast? = some (.claimResult true)) ∧
      (e.toNat ≤ s.own.epoch.toNat → ∃ u, exec (.claim (.sideband id e)) s = .next u ∧ u = s.denied.emit (.claimResult false))) ∧
    (s.ownerMay w →
      (s.now < s.own.leaseEnd → ∃ u, exec (.ownRenew w s.own.epoch) s = .next u ∧
        u = { s.heard w with own := { s.own with renewed := s.own.epoch, leaseEnd := lease } }) ∧
      (s.own.leaseEnd ≤ s.now ∨ eid ≠ s.own.epoch → ∃ u, exec (.ownRenew w eid) s = .next u ∧ u = (s.heard w).denied) ∧
      (bits v.toNat 0 2 = 1 → ∃ u, exec (.ownHandover w v) s = .next u ∧ u.own.st = .handover ∧ u.own.succKind = .host ∧ u.own.succEid = 0 ∧
        u.own.hoEnd = s.now + 100 * msTicks ∧ u.own.epoch = s.own.epoch ∧ u = { s.heard w with own := u.own }) ∧
      (bits v.toNat 0 2 = 0 → ∃ u, exec (.ownHandover w v) s = .next u ∧ u.own.st = .held ∧ u.own.succKind = .none ∧ u = { s.heard w with own := u.own })) ∧
    (s.own.st = .held ∨ s.own.st = .handover → s.own.suspended = false → s.own.leaseEnd ≤ s.now → ∃ u, exec .leaseLapse s = .next u ∧ u.own.st = .lapsed ∧
      u.own.epoch = s.own.epoch ∧ u.own.succKind = .none ∧
      u.blk.state = (if s.blk.state = .unstructured ∨ s.blk.state = .structured then .orphaned else s.blk.state)) ∧
    (s.own.st = .handover → s.own.hoEnd ≤ s.now → ∃ u, exec .handoverLapse s = .next u ∧
      u = { s with own := { s.own with st := .held, succKind := .none, succEid := 0 } })

/-! ## Resets and D-states (R416 to R420, R428, R429, R509 to R515) -/

/-- R41, R416 to R419, R428, R429, R509, R515, R519: PERST# loses everything but the fuses; the boot finds the quarries that trained; FLR and hot reset end all work, and keep the
structure, the ownership and the log; D3hot asks for sleep and suspends a host's lease. -/
def Obligations.Resets : Prop :=
  ∀ (s : State) (b : BootFinding) (pair : Nat),
    let kept (u : State) : Prop := u.ctxs = [] ∧ u.queues = [] ∧ u.tasks = [] ∧ u.own.epoch = s.own.epoch ∧ u.own.st = s.own.st ∧ u.own.kind = s.own.kind ∧
      u.strata.str = s.strata.str ∧ u.strata.inForce = s.strata.inForce ∧ u.flt.log = s.flt.log ∧ u.host.bme = false ∧ u.host.mse = false ∧
      u.host.retry = false ∧ u.blk.state = (if s.own.st = .lapsed then .orphaned else s.serviceState)
    (∃ u, exec .perstAsserted s = .next u ∧ u.blk = { State.reset.blk with
        keys := s.blk.keys, revoked := s.blk.revoked, keys4 := s.blk.keys4, revoked4 := s.blk.revoked4 } ∧ u.own = State.reset.own ∧
      u.mem = State.reset.mem ∧ u.tiles = State.reset.tiles ∧ u.strata = State.reset.strata ∧ u.flt = State.reset.flt ∧ u.host = State.reset.host ∧
      u.pending = s.pending) ∧
    (s.blk.perst = true → bootPair b = some pair → (b.trained.getLsbD 0 || b.trained.getLsbD 4) = true → ∃ u, exec (.fundamentalReset b) s = .next u ∧
      u.blk.booted = true ∧ u.blk.quartz = some pair ∧ u.blk.ref = 0 ∧ u.host.linkUp = true ∧ u.blk.state = s.blk.state ∧ u.mem = s.mem ∧
      ∀ t, t < 416 → b.trained.getLsbD (quarryOf t) = true →
        (u.tile t).role = .spare ∧ (u.tile t).healthy = !b.failedTiles.contains t ∧ (u.quarry (quarryOf t)).present = true) ∧
    (s.blk.booted = true → s.still → s.host.linkUp = true → (∃ u, exec .flr s = .next u ∧ kept u ∧ u.host.linkUp = true ∧ u.host.hdm = s.host.hdm) ∧
      ∃ u, exec .hotReset s = .next u ∧ kept u ∧ u.host.linkUp = false ∧ u.host.hdm = none) ∧
    (s.blk.booted = true → s.host.retry = false → ∃ u, exec .hostLinkUp s = .next u ∧ u = { s with host := { s.host with linkUp := true } }) ∧
    (s.configOpen →
      (s.host.d3hot = false → ∃ u, exec .d3hotWrite s = .next u ∧ u.host.d3hot = true ∧ u.own.epoch = s.own.epoch ∧
        (s.own.st = .held → s.own.kind = .host → u.own.suspended = true ∧ u.own.frozen = s.own.leaseEnd - s.now) ∧
        (s.blk.state ≠ .halted → s.blk.state ≠ .sleep → u.blk.sleepAsked = true)) ∧
      (s.host.d3hot = true → ∃ u, exec .d0Write s = .next u ∧ u.host.d3hot = false ∧ u.mem = s.mem ∧
        (s.own.suspended = true → u.own.suspended = false ∧ u.own.leaseEnd = s.now + s.own.leaseMs * msTicks) ∧
        (s.blk.state = .sleep → s.blk.quartz.isSome = true → u.blk.wakeAsked = true ∧ u.host.d3wake = true)))

/-! ## The fabric port (R430 to R450) -/

/-- R434, R437, R440, R442, R446, R449: an inbound packet is answered BLOCK_NOT_READY or ORPHANED by the block's own state, each against a RESPONSE
credit where its queue pair is an entry's, dropped from a peer that is not NORMAL, answered REFUSED in the same way and logged where the device table does not stand behind it, and else held; it goes to its home under the entry's context once R440's order
lets it commit, with PACKET_COMMIT where it had to wait. -/
def Obligations.InboundPackets : Prop :=
  ∀ (s : State) (h : PacketHead) (e : DevEntry) (p : InPkt) (addr len obj k : Nat) (bs : List Byte) (po : List Bool) (stash : Option Nat)
    (cas : Option Word) (v : Word) (amt : Word32) (i : Instr) (r : Req) (get : Bool) (marks : List Bool),
    (i, r, get, marks) ∈ [
      (Instr.inboundPut h addr bs po stash, Req.write addr bs (po.any (fun b => b)) stash, false, po),
      (Instr.inboundGet h addr len, Req.read addr len false, true, []),
      (Instr.inboundAtomic h addr cas v, (match cas with
        | none => Req.amo addr true 0 0 v.toNat false
        | some c => Req.amo addr true 2 c.toNat v.toNat false), false, []),
      (Instr.inboundSignal h obj false amt, Req.flintAdd obj amt.toNat, false, []), (Instr.inboundSignal h obj true amt, Req.flintSub obj amt.toNat, false, []),
      (Instr.inboundArrival h obj, Req.flintArrive obj, false, []), (Instr.inboundRelease h obj, Req.flintRelease obj, false, []),
      (Instr.inboundFill h addr v, Req.feFill addr v.toNat false, false, [])] →
    let answered (c : FabCode) (u : State) : Prop := Sent.response h.handle h.seq c [] [] ∈ u.sent ∧ u.mem = s.mem ∧ u.flint = s.flint ∧ u.pkts = s.pkts
    let stands : Prop := e.valid = true ∧ e.inbound = true ∧ e.qpBase ≤ h.handle ∧ h.handle < e.qpBase + e.qpCount ∧ h.keyMark = e.keySlot ∧
      (s.ctx? e.context).isSome = true
    let credit : Prop := ∀ y, s.devEntry? h.device = some y → y.qpBase ≤ h.handle → h.handle < y.qpBase + y.qpCount →
      (∀ z ∈ s.fab.inbound, z.2.reply = none) ∧ 0 < (tblGet (0, 0) s.fab.credits ((y.channel + (h.handle - y.qpBase)) % 16)).2
    let port (u : State) : Prop := u.mem = s.mem ∧ u.flint = { s.flint with opCounts := u.flint.opCounts } ∧ u.tiles = s.tiles ∧ u.sent = s.sent ∧ u.fab = { s.fab with inbound := u.fab.inbound }
    (s.blk.state = .orphaned → credit → ∃ u, exec i s = .next u ∧ answered .orphaned u) ∧
    (s.blk.state ≠ .orphaned → s.blk.booted = false ∨ s.host.retry = true ∨ s.fab.assigned = false ∨ s.structured = false ∨ s.blk.state = .sleep →
      credit → ∃ u, exec i s = .next u ∧ answered .notReady u) ∧
    (s.turnedAway = none → s.peerSt h.device ≠ .normal → exec i s = .next s) ∧
    (s.turnedAway = none → s.peerSt h.device = .normal → s.fab.tabValid = true → s.fab.inbound.length < 4032 →
      (s.devEntry? h.device = none → ∃ u, exec i s = .next u ∧ port u ∧ u.pkts = s.pkts ∧
        tblFind u.fab.inbound s.nextId = some ⟨h, 0, r, get, marks, 16, false, false, none⟩) ∧
      (s.devEntry? h.device = some e → ¬ stands → credit → ∃ u, exec i s = .next u ∧ answered .refused u ∧
        (s.noFold .granuleRefused noQuarry 516 → s.logged u .granuleRefused .notice 516 (s.fab.self * 2 ^ 48 + r.span.1) r.kindNo)) ∧
      (s.devEntry? h.device = some e → stands →
        let q : InPkt := ⟨h, e.context, s.withHint e.context r, get, marks, (e.channel + (h.handle - e.qpBase)) % 16, true, false, none⟩
        (s.inTurn s.nextId h r → ∃ u, exec i s = .next u ∧ port u ∧ tblFind u.fab.inbound s.nextId = some { q with sent := true } ∧
          u.pkts = tblPut s.pkts (s.nextId + 1) ⟨.fabric s.nextId, some e.context, q.req, none, false, false,
            s.opNumber (.fabric s.nextId) q.req⟩) ∧
        (¬ s.inTurn s.nextId h r → ∃ u, exec i s = .next u ∧ port u ∧ tblFind u.fab.inbound s.nextId = some q ∧ u.pkts = s.pkts))) ∧
    (tblFind s.fab.inbound k = some p → p.checked = true → p.sent = false → s.blk.state ≠ .orphaned → s.inTurn k p.head p.req → ∃ u, exec (.packetCommit p.channel k) s = .next u ∧
      port u ∧ tblFind u.fab.inbound k = some { p with sent := true } ∧ u.pkts = tblPut s.pkts s.nextId ⟨.fabric k, some p.context, p.req, none, false, false,
        s.opNumber (.fabric k) p.req⟩)

/-- R430 to R432, R447, R448, R454: an invalidated entry leaves the cache, and its peer's new entry is read again; the table's base changes only with no operation
outstanding; a filled entry is the table's, a malformed one is not VALID and is logged, and a valid new one makes a lost peer NORMAL. -/
def Obligations.DeviceTable : Prop :=
  ∀ (s : State) (w : Who) (d k n : Nat) (v : Word) (x : Task),
    (s.ownerMay w →
      (d < 2 ^ 16 → ∃ u, exec (.devtabInvalidateOne w d) s = .next u ∧ (∀ p, u.devEntry? p = if p = d then none else s.devEntry? p) ∧
        (s.fab.tabValid = true → s.peerSt d ≠ .normal → setHas u.fab.rereads d = true) ∧
        u = { s.heard w with fab := { s.fab with invalDevice := d, invalAll := false, cache := u.fab.cache, rereads := u.fab.rereads } }) ∧
      (∃ u, exec (.devtabInvalidateAll w) s = .next u ∧ u.fab.cache = [] ∧
        u = { s.heard w with fab := { s.fab with invalAll := true, cache := [], rereads := u.fab.rereads } }) ∧
      (s.fab.ops = [] → ∃ u, exec (.fabDevtabBase w v) s = .next u ∧
        u = { s.heard w with fab := { s.fab with tabValid := v.getLsbD 0, tabBase := bits v.toNat 20 20 } }) ∧
      (s.fab.ops ≠ [] → ∃ u, exec (.fabDevtabBase w v) s = .next u ∧ u.fab = s.fab ∧ (s.noFold .peer noQuarry 0 → s.logged u .peer .notice 0 3 0))) ∧
    (let a := s.fab.tabBase * 2 ^ 20 + 16 * d
      let b := s.readLatest a 16
      let y (o n : Nat) : Nat := leNat ((b.drop o).take n)
      let ok : Prop := y 3 1 = 0 ∧ y 4 1 ∈ [1, 2, 4, 8, 16] ∧ y 5 1 < 16 ∧ y 7 1 < 4 ∧ y 8 2 < 4096 ∧ y 10 6 = 0 ∧ s.readPoison a 16 = false
      s.blk.booted = true → s.fab.tabValid = true → d < 2 ^ 16 → s.wantsEntry d = true → s.hostHeld a 16 false = [] → s.fab.inbound = [] → s.fab.ops = [] →
        s.fab.cache.length < 4096 → ∃ u c, exec (.devtabFill d noDramFinding) s = .next u ∧ u.devEntry? d = some c ∧ u.mem = s.mem ∧
          (s.host.up = [] → u.tiles = s.tiles) ∧
          c.qpBase = y 0 3 ∧ c.qpCount = y 4 1 ∧ c.channel = y 5 1 ∧ c.keySlot = y 6 1 ∧ c.inbound = bit (y 7 1) 1 ∧ c.context = y 8 2 % 4096 ∧
          (c.valid = true ↔ ok ∧ bit (y 7 1) 0 = true) ∧ (setHas s.fab.rereads d = true → c.valid = true → u.peerSt d = .normal) ∧
          (c.valid = false → u.peerSt d = s.peerSt d) ∧ (¬ ok → s.noFold .peer noQuarry d → s.logged u .peer .notice d 2 0)) ∧
    (s.onAdminTask k x (.assignDeviceNumber n) → s.fab.ops = [] →
      (s.ctxs = [] → ∃ u, exec .assignDeviceNumber s = .next u ∧ u.fab = { s.fab with self := n % 2 ^ 16, assigned := true } ∧ s.taskDone u k x) ∧
      (s.ctxs ≠ [] → ∃ u, exec .assignDeviceNumber s = .next u ∧ u.fab = s.fab ∧ u.taskFailed k x .busy noDetail))

/-- R433, R437, R439, R441 to R443, R447, R448: a response ends its operation with the status of its code, NOT_NOW ends nothing; a packet leaves against a REQUEST
credit of its channel, numbered within its queue pair; a queue pair's timeout or failed authentication loses the peer, ends its operations and abandons the
nodes above it. -/
def Obligations.PeersAndCredits : Prop :=
  ∀ (s : State) (o : FabOp) (e : DevEntry) (k d n ch nr np : Nat) (c : FabCode) (bs : List Byte) (po : List Bool),
    (tblFind s.fab.ops k = some o → o.sent = true →
      (exec (.fabricResponse k .notNow bs po) s = .next s) ∧
      (c ≠ .notNow → ∃ u r, exec (.fabricResponse k c bs po) s = .next u ∧
        u = { (if c = .done then s else s.uncount o) with fab := { s.fab with ops := tblDel s.fab.ops k }, rsps := tblPut s.rsps k r } ∧ r.dst = o.src ∧ r.task = o.task ∧
        r.st = (if c = .done then .ok else if c = .refused then .refused else if c = .abandoned then .abandoned else .peerLost) ∧
        (c ≠ .done → r.remote = true ∧ r.value = o.device ∧ r.traps = o.valued) ∧
        (c = .done → (o.kind = 1 → r.data = bs ∧ r.marks = po ∧ r.poisoned = po.any (fun b => b)) ∧ (o.kind = 2 ∨ o.kind = 3 → r.data = bs) ∧
          (o.kind = 3 → (r.flag = true ↔ leNat bs = o.value2 % 2 ^ 64)) ∧ (o.kind = 6 → r.value = leNat bs)))) ∧
    (s.blk.booted = true → ch < 16 → s.fab.inbound = [] →
      let cr := tblGet (0, 0) s.fab.credits ch
      (s.fab.ops = [] → ∃ u, exec (.creditGrant ch nr np) s = .next u ∧ u = ({ s with fab := { s.fab with
        credits := tblPut s.fab.credits ch (cr.1 + nr, cr.2 + np), channelsUp := setIns s.fab.channelsUp ch } }).flushUp) ∧
      (s.fab.ops = [(k, o)] → o.sent = false → s.blk.heldFrom = none → s.fab.assigned = true → s.devEntry? o.device = some e → e.valid = true → e.qpCount = 1 → e.channel = ch →
        0 < cr.1 + nr → ∃ u z, exec (.creditGrant ch nr np) s = .next u ∧ Sent.packet k e.keySlot o.payload ∈ u.sent ∧ tblFind u.fab.ops k = some z ∧
          z = { o with handle := e.qpBase, channel := ch, seq := tblGet 0 s.fab.seqs e.qpBase, sent := true, keySlot := e.keySlot } ∧
          tblGet 0 u.fab.seqs e.qpBase = (z.seq + 1) % 2 ^ 32 ∧ tblGet (0, 0) u.fab.credits ch = (cr.1 + nr - 1, cr.2 + np) ∧ u.mem = s.mem)) ∧
    (s.blk.booted = true → s.peerSt d = .normal →
      let lost (i : Instr) (p : Peer) (st : RspSt) (why : Nat) : Prop := ∃ u, exec i s = .next u ∧ u.peerSt d = p ∧ (∀ x, x ≠ d → u.peerSt x = s.peerSt x) ∧
        u.fab.peerLosses = (if why = 0 then satAdd 16 s.fab.peerLosses 1 else s.fab.peerLosses) ∧
        u.fab.authFailures = (if why = 1 then satAdd 16 s.fab.authFailures 1 else s.fab.authFailures) ∧
        (∀ y ∈ u.fab.inbound, y.2.head.device = d → y.2.sent = true) ∧ (∀ y ∈ u.fab.ops, y.2.device ≠ d) ∧
        ((s.obj n).state = 1 → (s.obj n).barrier = true → (s.obj n).hasParent = true → (s.obj n).parentDevice = d → (u.obj n).abandoned = true) ∧
        (s.flint.objs = [] → s.noFold .peer noQuarry d → s.logged u .peer .notice d why 0) ∧
        (tblSorted s.fab.ops = true → tblFind s.fab.ops k = some o → o.device = d → s.flint.objs = [] →
          ∃ r, tblFind u.rsps k = some r ∧ r.dst = o.src ∧ r.task = o.task ∧ r.st = st ∧ r.remote = true ∧ r.value = d)
      lost (.qpTimeout d) .lost .peerLost 0 ∧ lost (.qpAuthFailed d) .authFailed .authFailed 1)

/-! ## Power, clocks, thermal control, sleep (R455 to R481) -/

/-- R16, R455, R458, R464, R465, R483: an owner's FSET is clamped to 0.4 GHz and the quarry's ceiling, ignored before the first image and in fixed mode; another's write
is counted as denied, whatever the mode; caps are clamped to 800 to 3,000 W; under an alert, and for caps in sleep, the changes are recorded.
R464: the regulators' alert drops the tile clock of every quarry to 0.4 GHz, Mica issue and the links to one eighth; in sleep the pin's level is all that changes; the
floor holds until 100 µs after the last deassertion, and outside sleep what was recorded is applied then. -/
def Obligations.PowerCaps : Prop :=
  (∀ (s : State) (w : Who) (v : Word) (c : Word32) (k n : Nat) (x : Task),
      let cap (n : Nat) : Nat := if n < 800 then 800 else if 3000 < n then 3000 else n
      let later : Prop := s.pwr.alertFloor = true ∨ s.blk.state = .sleep
      (s.ownerMay w →
        (s.structured = false ∨ s.strata.str.fixed = true → ∃ u, exec (.pwrFset w v) s = .next u ∧ u = s.heard w) ∧
        (s.structured = true → s.strata.str.fixed = false → s.pwr.alertFloor = true → ∃ u, exec (.pwrFset w v) s = .next u ∧
          u = { s.heard w with pwr := { s.pwr with deferredFset := some v.toNat } }) ∧
        (s.structured = true → s.strata.str.fixed = false → s.pwr.alertFloor = false → ∃ u, exec (.pwrFset w v) s = .next u ∧ (s.heard w).onlyPower u ∧
          u.pwr = { s.pwr with q := u.pwr.q, seen := u.pwr.seen } ∧ ∀ q, q < 8 →
            (u.qpower q).fset = (let a := v.toNat / 2 ^ (8 * q) % 32
              if a < 4 then 4 else if Nat.max 4 (s.ceiling q) < a then Nat.max 4 (s.ceiling q) else a)) ∧
        (¬ later → ∃ u, exec (.pwrCapOwner w c) s = .next u ∧ u = { s.heard w with pwr := { s.pwr with capOwner := cap (c.toNat % 2 ^ 16) } }) ∧
        (later → ∃ u, exec (.pwrCapOwner w c) s = .next u ∧ u = { s.heard w with pwr := { s.pwr with deferredOwner := some (cap (c.toNat % 2 ^ 16)) } })) ∧
      ((w = .host → s.portTake = .taken ∧ s.hostQuiet = true) → s.blk.quartz.isSome = true → s.isOwner w = false →
        ∃ u, exec (.pwrFset w v) s = .next u ∧ u = (s.heard w).denied) ∧
      (s.onAdminTask k x (.setPowerCap n) → ∃ u, exec .setPowerCap s = .next u ∧ s.taskDone u k { x with result := cap n } ∧
        (¬ later → u.pwr = { s.pwr with capOwner := cap n }) ∧ (later → u.pwr = { s.pwr with deferredOwner := some (cap n) })) ∧
      (s.blk.quartz.isSome = true → ∃ u, exec (.rackCapSet n) s = .next u ∧ u.sent = s.sent ++ [.rackCap (cap n)] ∧
        (¬ later → u = ({ s with pwr := { s.pwr with capRack := cap n } } : State).emit (.rackCap (cap n))) ∧
        (later → u = ({ s with pwr := { s.pwr with deferredRack := some (cap n) } } : State).emit (.rackCap (cap n))))) ∧
  (∀ (s : State) (v : Nat),
      (s.blk.booted = true → s.blk.state ≠ .sleep → ∃ u, exec .vralertAssert s = .next u ∧ u.pwr.alert = true ∧ u.pwr.alertFloor = true ∧ s.onlyPower u ∧
        ∀ q, q < 8 → u.tileClock q = 4 ∧ (u.qpower q).boost = 0 ∧ (u.qpower q).micaRate = 1 ∧ (u.qpower q).linkRate = 1) ∧
      (s.blk.booted = true → s.blk.state = .sleep → ∃ u, exec .vralertAssert s = .next u ∧ u = { s with pwr := { s.pwr with alert := true } }) ∧
      (s.pwr.alert = true → ∃ u, exec .vralertDeassert s = .next u ∧ u = { s with pwr := { s.pwr with alert := false, alertEnd := s.now } }) ∧
      (s.pwr.alertFloor = true → s.pwr.alert = false →
        (s.now < s.pwr.alertEnd + 10000 → exec .alertFloorRelease s = .next s) ∧
        (s.pwr.alertEnd + 10000 ≤ s.now → s.blk.state = .sleep → ∃ u, exec .alertFloorRelease s = .next u ∧
          u.pwr = { s.pwr with alertFloor := false, q := u.pwr.q, seen := u.pwr.seen } ∧ s.onlyPower u) ∧
        (s.pwr.alertEnd + 10000 ≤ s.now → s.blk.state ≠ .sleep → ∃ u, exec .alertFloorRelease s = .next u ∧ s.onlyPower u ∧ u.pwr.alertFloor = false ∧
          u.pwr.capOwner = s.pwr.deferredOwner.getD s.pwr.capOwner ∧ u.pwr.capRack = s.pwr.deferredRack.getD s.pwr.capRack ∧
          u.pwr.deferredOwner = none ∧ u.pwr.deferredRack = none ∧ u.pwr.deferredFset = none ∧ ∀ q, q < 8 →
            (s.pwr.deferredFset = none → (u.qpower q).fset = (s.qpower q).fset) ∧
            (s.pwr.deferredFset = some v → (u.qpower q).fset = clampTo 4 (Nat.max 4 (s.ceiling q)) (bits v (8 * q) 5)))))

/-- R455 to R457, R459, R460, R462, R463: a clock comes to the lowest of its limits, upwards once its rail has risen; boost rises a step at a time up to the ceiling while
its conditions hold and else ends at 2.5 GHz; below 20 mV of margin the trim of the clock's step rises by 5 mV each 100 µs, or the step is left where 0.95 V does not
carry it; above 40 mV for 1 s it falls; droop stretches the clock; the rail's average against 95 % and 85 % of its limit moves the CURRENT limit.
R472 to R474, R483: a sample is shown and its maximum kept; 105 °C on a compute or base die gates its quarry at 0.4 GHz until it has cooled below 100 °C; the stack's
temperature sets its refresh and admission; 115 °C trips; a limit step follows the last readings. -/
def Obligations.ClocksAndThermal : Prop :=
  (∀ (s : State) (q n : Nat), q < 8 → (s.quarry q).present = true →
      let x := s.qpower q
      let m := s.unlimited q
      let nowAt (i : Instr) (y : QPower) : Prop := ∃ u, exec i s = .next u ∧ s.quarryNow u q y
      let dropped : QPower := if x.boost = 0 then x else { x with boost := 0, freq := Nat.min 25 x.freq }
      (s.pwr.alertFloor = false → s.blk.state ≠ .sleep →
        (s.wanted q ≤ x.freq ∨ 10 * x.milliVolts (s.wanted q) ≤ x.rail → nowAt (.freqChangeDone q) { x with freq := s.wanted q, leaving := false }) ∧
        (x.freq < s.wanted q → x.rail < 10 * x.milliVolts (s.wanted q) → exec (.freqChangeDone q) s = .next s) ∧
        (s.structured = true → s.strata.str.fixed = false → x.boost = 0 →
          s.wanted q = Nat.min (Nat.min 25 (Nat.max 4 (Nat.min x.fset (s.ceiling q)))) (Nat.min x.capLimit (Nat.min x.thermLimit x.currLimit)))) ∧
      (s.pwr.alertFloor = true → exec (.freqChangeDone q) s = .next s) ∧
      (s.boostHolds q = true → 1000 * n ≤ x.grant → 25 < s.ceiling q →
        nowAt (.boostStep q n) { x with boost := Nat.min (s.ceiling q) (Nat.max 25 x.boost + 1) }) ∧
      (s.boostHolds q = false ∨ x.grant < 1000 * n ∨ s.ceiling q ≤ 25 → nowAt (.boostStep q n) dropped) ∧
      (s.blk.state ≠ .sleep →
        (n < 20 → (∀ a ∈ x.trimmedAt, a + 10000 ≤ s.now) →
          (x.milliVolts x.freq + 5 ≤ 950 → nowAt (.voltageTrim q n)
            { x with trim := tblPut x.trim x.freq (tblGet 0 x.trim x.freq + 1), marginHigh := none, trimmedAt := some s.now }) ∧
          (950 < x.milliVolts x.freq + 5 → nowAt (.voltageTrim q n) { x with ageCeiling := Nat.min x.ageCeiling (x.freq - 1), marginHigh := none })) ∧
        (n < 20 → (∃ a ∈ x.trimmedAt, s.now < a + 10000) → nowAt (.voltageTrim q n) { x with marginHigh := none }) ∧
        (20 ≤ n → n ≤ 40 → nowAt (.voltageTrim q n) { x with marginHigh := none }) ∧
        (40 < n → x.marginHigh = none → nowAt (.voltageTrim q n) { x with marginHigh := some s.now }) ∧
        (40 < n → ∀ a ∈ x.marginHigh,
          (s.now < a + 100000000 → nowAt (.voltageTrim q n) x) ∧
          (a + 100000000 ≤ s.now → nowAt (.voltageTrim q n)
            { x with trim := tblPut x.trim x.freq (tblGet 0 x.trim x.freq + (-1)), marginHigh := some s.now }))) ∧
      nowAt (.droopDetect q) { x with stretched := true, stretchedTick := true } ∧ nowAt (.stretchEnd q) { x with stretched := false } ∧
      (∃ u, exec (.currentLimitReport q n) s = .next u ∧ (u.qpower q).railLimit = n ∧ (∀ p, p ≠ q → u.qpower p = s.qpower p) ∧ s.onlyPower u ∧
        (9 * n ≤ 10 * x.railAverage → (u.qpower q).boost = 0)) ∧
      (0 < x.railLimit → ∃ u, exec (.currentLimitStep q n) s = .next u ∧ (u.qpower q).railAverage = n ∧ (∀ p, p ≠ q → u.qpower p = s.qpower p) ∧ s.onlyPower u ∧
        (u.qpower q).currLimit = (if 95 * x.railLimit ≤ 100 * n then Nat.max 4 (Nat.min x.currLimit m - 1)
          else if 100 * n < 85 * x.railLimit ∧ x.currLimit < 28 then (if m ≤ x.currLimit + 1 then 28 else x.currLimit + 1) else x.currLimit))) ∧
  (∀ (s : State) (q : Nat) (r : TempReading), q < 8 → (s.quarry q).present = true → s.blk.booted = true → s.blk.state ≠ .sleep →
      let x := s.qpower q
      let m := s.unlimited q
      let hot := Nat.max r.compute r.base
      let was := Nat.max x.computeC x.baseC
      (∃ u, exec (.thermalSample [(q, r)]) s = .next u ∧ (∀ p, p ≠ q → u.qpower p = s.qpower p) ∧ u.mem = s.mem ∧ u.tiles = s.tiles ∧
        u.blk = { s.blk with thermTrip := s.blk.thermTrip || decide (115 ≤ hot) || decide (115 ≤ r.dram) } ∧
        (let y := u.qpower q;
          y.computeC = r.compute ∧ y.baseC = r.base ∧ y.dramC = r.dram ∧ y.computeMaxC = Nat.max x.computeMaxC r.compute ∧
            y.thermLimit = (if 105 ≤ hot then 4 else x.thermLimit) ∧
            y.thermGate = (if 105 ≤ hot then true else if hot < 100 then false else x.thermGate) ∧ y.hotRefresh = decide (85 < r.dram) ∧
            y.stackAdmit = (if 100 ≤ r.dram then 1 else if 95 ≤ r.dram then 4 else if r.dram < 93 then 8 else x.stackAdmit))) ∧
      (∃ u, exec (.thermalLimitStep q) s = .next u ∧ s.quarryNow u q { x with
        thermLimit := if 95 ≤ was then Nat.max 4 (Nat.min x.thermLimit m - 1)
          else if was < 92 ∧ x.thermLimit < 28 then (if m ≤ x.thermLimit + 1 then 28 else x.thermLimit + 1) else x.thermLimit }))

/-- R465 to R471: a cap that carries every demand throttles no quarry; one below the floors is reported infeasible; the model's scale follows the telemetry; an
interval's events are charged to their class, and the telemetry's energy is added. R488: with both Quartz pairs lost the grants stand as they are. -/
def Obligations.PowerGrants : Prop :=
  ∀ (s : State) (fixed w : Nat) (items : List DemandItem) (counts : List (Option Nat × Fin 24 × Nat)), s.blk.booted = true →
    let cap := Nat.min s.pwr.capRack s.pwr.capOwner
    let asked (i : DemandItem) : Nat := 1000 * (i.draws.take 8).sum
    let floor (i : DemandItem) : Nat := if i.cls.val = 2
      then ((i.draws.take 8).zipIdx.map (fun w => 1000 * w.1 * (s.qpower w.2).stepPower 4 / (s.qpower w.2).stepPower (s.target w.2))).sum else asked i / 8
    let floors := (items.map floor).sum
    (s.blk.quartz.isSome = true → s.blk.state ≠ .sleep → (items.map (fun i => Nat.max (asked i) (floor i))).sum + 1000 * fixed ≤ 1000 * cap →
      ∃ u, exec (.powerGrantInterval fixed items) s = .next u ∧ u.mem = s.mem ∧ u.tiles = s.tiles ∧ u.pwr.infeasible = false ∧
        (s.pwr.infeasible = true → Sent.capInfeasible false ∈ u.sent) ∧
        ∀ q, q < 8 → (s.quarry q).present = true → let y := u.qpower q
          let rate := if s.pwr.alertFloor then 1 else 8
          y.capLimit = 28 ∧ y.gate = 16 ∧ y.memAdmit = 8 ∧ y.linkAdmit = 8 ∧ y.micaRate = rate ∧ y.linkRate = rate ∧ y.capped = false) ∧
    (s.blk.quartz.isSome = true → s.blk.state ≠ .sleep → 1000 * cap < floors + 1000 * fixed → s.pwr.infeasible = false →
      ∃ u, exec (.powerGrantInterval fixed items) s = .next u ∧ u.pwr.infeasible = true ∧ Sent.capInfeasible true ∈ u.sent ∧ u.mem = s.mem ∧ u.tiles = s.tiles ∧
        (s.noFold .capInfeasible noQuarry 0 → s.noted u .capInfeasible .notice 0 (fixed + floors / 1000) cap)) ∧
    (s.blk.quartz = none → exec (.powerGrantInterval fixed items) s = .next s) ∧
    (s.blk.quartz.isSome = true → nth 0 s.powerNow 0 ≠ 0 → ∃ u, exec (.powerModelCalibrate w) s = .next u ∧
      u = { s with pwr := { s.pwr with scale := s.pwr.scale * (1000000 * w) / nth 0 s.powerNow 0 } }) ∧
    (∃ u, exec (.energyUpdate counts w) s = .next u ∧ s.onlyPower u ∧ u.pwr.capOwner = s.pwr.capOwner ∧ u.pwr.q = s.pwr.q ∧
      u.pwr.energyMeasured = Nat.min (s.pwr.energyMeasured + w) (2 ^ 64 - 1) ∧ u.pwr.window.length = Nat.min 10 (s.pwr.window.length + 1) ∧
      ∀ c, c < 3 → nth 0 u.pwr.energyClass c = Nat.min (nth 0 s.pwr.energyClass c +
        ((counts.filter (fun e => eventClass e.2.1.val == c)).map (fun e => e.2.2 * tblGet (nth 0 romCoeff e.2.1.val) s.strata.str.coeff e.2.1.val)).sum)
          ((2 ^ 64 - 1) * 10 ^ 9))

/-- R476 to R481: SLEEP is refused as BUSY with work in hand; entry loses tile memory, the caches and the directory, and keeps ownership and queues; a wake source is
kept; a completed wake restores the service state, with PM_PME from D3hot; HBEAT toggles; a reference edge adds a tick, also to the active throttle reasons, and moves
every rail by 0.1 mV towards what its clock needs (R456). -/
def Obligations.SleepAndTime : Prop :=
  ∀ (s : State) (k : Nat) (x : Task) (i : Instr),
    (s.onAdminTask k x .sleep →
      ((∀ e ∈ s.queues, s.queueIdle e.2 = true) → (∀ e ∈ s.tasks, e.2.queue = none ∨ e.2.over = true) → s.mica.cmds = [] → ∃ u, exec .sleep s = .next u ∧
        u.blk = { s.blk with sleepAsked := true } ∧ s.taskDone u k x) ∧
      ((∃ e ∈ s.queues, s.queueIdle e.2 = false) ∨ s.mica.cmds ≠ [] → ∃ u, exec .sleep s = .next u ∧ u.blk = s.blk ∧ u.taskFailed k x .busy noDetail)) ∧
    (s.blk.sleepAsked = true → s.blk.state = .unstructured ∨ s.blk.state = .structured ∨ s.blk.state = .orphaned → s.tasks = [] → s.pkts = [] →
      s.heldIn (fun _ => true) = [] → ∃ u, exec .sleepEntry s = .next u ∧ u.blk.state = .sleep ∧ u.blk.sleepAsked = false ∧
        u.blk.resumeOrphaned = decide (s.blk.state = .orphaned) ∧ (∀ t, (u.tile t).scratch = (Tile.blank).scratch ∧ (u.tile t).dcache = (Tile.blank).dcache) ∧
        u.qc.lines = [] ∧ u.homes.dir = [] ∧ u.homes.resv = [] ∧ u.xlat.atc = [] ∧ u.fab.cache = [] ∧ u.own = s.own ∧ u.queues = s.queues ∧ u.ctxs = s.ctxs) ∧
    (i ∈ [Instr.wake, .wakeNAssert, .pldmWake, .wakePacket] →
      (s.blk.quartz.isSome = true → s.blk.state = .sleep ∨ s.blk.sleepAsked = true → ∃ u, exec i s = .next u ∧ u = { s with blk := { s.blk with wakeAsked := true } }) ∧
      (s.blk.state ≠ .sleep → s.blk.sleepAsked = false → ∃ u, exec i s = .next u ∧ u = s)) ∧
    (s.blk.state = .sleep → s.blk.wakeAsked = true → s.blk.resumeOrphaned = false → s.queues = [] → s.adm.recorded = none → ∃ u, exec .wakeComplete s = .next u ∧
      u.blk.state = (if s.structured then .structured else .unstructured) ∧ u.blk.wakeAsked = false ∧ u.host.d3wake = false ∧ u.own = s.own ∧ u.mem = s.mem ∧
      (s.host.d3hot = true → s.host.pmeEn = true → s.host.linkUp = true → u.sent.getLast? = some .pme)) ∧
    (s.blk.quartz.isSome = true → ∃ u, exec .heartbeat s = .next u ∧ u = { s with blk := { s.blk with hbeat := !s.blk.hbeat } }) ∧
    (s.blk.perst = false → s.blk.refSpread = 0 → ∃ u, exec .referenceClockEdge s = .next u ∧ u.now = (s.now + 1) % 2 ^ 64 ∧
      u = { s with blk := { s.blk with ref := u.blk.ref }, pwr := { s.pwr with durations := u.pwr.durations, seen := u.pwr.seen, q := u.pwr.q } } ∧
      (∀ q, ∀ y ∈ tblFind s.pwr.q q, let goal := 10 * y.milliVolts (Nat.max y.freq (s.wanted q))
        tblFind u.pwr.q q = some { y with
          rail := if y.rail < goal then Nat.min goal (y.rail + 1) else Nat.max goal (y.rail - 1), stretchedTick := y.stretched }) ∧
      ∀ j, j < s.pwr.durations.length →
        nth 0 u.pwr.durations j = if s.reasonAny.getLsbD j then satAdd 64 (nth 0 s.pwr.durations j) 1 else nth 0 s.pwr.durations j) ∧
    (s.blk.perst = true → exec .referenceClockEdge s = .next s)

/-! ## Lanes, units, self-test (R24, R25, R485 to R500, R506) -/

/-- R22, R24, R25, R42, R218, R495, R499, R500: a lane's CRC failures are counted; a failed lane takes a spare, then halves its path, then downs its link, which holds
every source; a link without a good flit is down at both ends; its detour releases the sources and makes the quarries that no route joins to the active Quartz pair
absent; a stale training result is noted and mended by a retrained spare. -/
def Obligations.Lanes : Prop :=
  ∀ (s : State) (l : LaneRef) (p : Port) (r : Nat × Nat) (j z temp mA : Nat), s.laneUp l = true →
    let n := tblGet 0 (s.quarry l.quarry).crcFails (laneKey l)
    let left := s.laneSpares l
    let kind := if l.path = .tsv then 1 else if l.path = .result then 3 else 2
    (∃ u, exec (.laneCrcFail l) s = .next u ∧ u = { s with qry := u.qry } ∧ (∀ q, q ≠ l.quarry → u.quarry q = s.quarry q) ∧
      u.quarry l.quarry = { s.quarry l.quarry with crcFails := tblPut (s.quarry l.quarry).crcFails (laneKey l) (n + 1) }) ∧
    (0 < n → s.strata.str.laneRetries ≤ n →
      (0 < left → ∃ u, exec (.laneSwap l) s = .next u ∧ u.laneSpares l = left - 1 ∧ u.mem = s.mem ∧ u.tiles = s.tiles ∧
        (left = 1 → Sent.spareNotice kind l.quarry ∈ u.sent) ∧
        (s.noFold .laneSwap l.quarry (laneUnit l) → s.noted u .laneSwap .masked (laneUnit l) n (left - 1))) ∧
      (left = 0 → s.laneHalf l = false → ∃ u, exec (.laneSwap l) s = .next u ∧ u.laneHalf l = true ∧ Sent.spareNotice kind l.quarry ∈ u.sent ∧
        setHas u.flt.capacity (if l.path = .tsv then 11 else 12) = true ∧ u.mem = s.mem ∧ u.tiles = s.tiles) ∧
      (left = 0 → s.laneHalf l = true → s.portOf l = some (j, p) → ∃ u, exec (.laneSwap l) s = .next u ∧ setHas u.flt.capacity 12 = true ∧
        u.mem = s.mem ∧ u.tiles = s.tiles ∧ u.blk = { s.blk with heldFrom := some (s.blk.heldFrom.getD (s.nextId + 1)) } ∧
        ∃ t, u.portOf l = some (j, t) ∧ t.state = 3)) ∧
    (n < s.strata.str.laneRetries → ∃ u, exec (.laneSwap l) s = .next u ∧ u = s) ∧
    (s.portOf l = some (j, p) →
      (p.state = 1 ∨ p.state = 2 → ∃ u, exec (.linkReplayTimeout l.quarry l.path) s = .next u ∧ setHas u.flt.capacity 12 = true ∧ u.mem = s.mem ∧ u.tiles = s.tiles ∧
        u.blk = { s.blk with heldFrom := some (s.blk.heldFrom.getD (s.nextId + 1)) } ∧ (∃ t, u.portOf l = some (j, t) ∧ t = { p with state := 3 }) ∧
        (∀ e : Nat × Nat, portPeer l.quarry j = some e → ∀ f, tblFind (s.quarry e.1).ports e.2 = some f → tblFind (u.quarry e.1).ports e.2 = some { f with state := 3 }) ∧
        (s.noFold .linkDown l.quarry (linkCode l.path * 8192) → ∃ d, s.logged u .linkDown .masked (linkCode l.path * 8192) d l.quarry)) ∧
      (∀ f : Port, tblFind (s.quarry z).ports j = some f → f.state = 3 → f.detour = false → s.blk.quartz = some temp →
        let d := s.detoured z j
        ∃ u, exec (.routeDetour z l.path) s = .next u ∧ (∃ g, tblFind (u.quarry z).ports j = some g ∧ g.detour = true) ∧
          (∀ q, q < 8 → (s.quarry q).present = true → ((u.quarry q).present = true ↔ d.routeOpen temp q = true ∧ d.routeOpen q temp = true)) ∧
          ((∀ q, ∀ e ∈ (d.quarry q).ports, e.2.state = 3 → e.2.detour = true) → u.blk.heldFrom = none))) ∧
    (tblFind (s.quarry l.quarry).trained (laneKey l) = some r →
      let old : Prop := r.1 + 10 < temp ∨ temp + 10 < r.1 ∨ 2 * r.2 < mA
      (∃ u, exec (.calibrationCheck l temp mA) s = .next u ∧ (setHas (u.quarry l.quarry).stale (laneKey l) = true ↔ old) ∧ u.mem = s.mem ∧
        (left ≠ 0 ∨ ¬ old → u = { s with qry := u.qry }) ∧
        (left = 0 → old → s.noFold .staleNoSpare l.quarry (laneUnit l) → s.logged u .staleNoSpare .notice (laneUnit l) 0 0)) ∧
      (s.linkStale l = true → left ≠ 0 → ∃ u, exec (.laneRetrain l temp mA) s = .next u ∧ u.laneSpares l = left ∧ u.mem = s.mem ∧ u.tiles = s.tiles ∧
        tblFind (u.quarry l.quarry).trained (laneKey l) = some (temp, mA) ∧ setHas (u.quarry l.quarry).stale (laneKey l) = false ∧
        (s.noFold .laneRetrain l.quarry (laneUnit l) → s.logged u .laneRetrain .notice (laneUnit l) (r.1 % 256 + r.2 % 2 ^ 32 * 256) (temp % 256 + mA % 2 ^ 32 * 256)))) ∧
    (s.linkStale l = true → left = 0 → ∃ u, exec (.laneRetrain l temp mA) s = .next u ∧ u.qry = s.qry ∧
      (s.noFold .staleNoSpare l.quarry (laneUnit l) → s.logged u .staleNoSpare .notice (laneUnit l) 0 0))

/-- R485, R488 to R490, R493: the spare Quartz pair takes over, and an image that waits for its switch is fetched again; without it the loss is fatal; a failed PLL gives way to its spare, then to the fabric PLL at 1.8 GHz; a
copy engine to its spare, then to those left; a packet of a tile's memory side is resent once, and a second failure stops its grid; a tile is retired at its
boundary. -/
def Obligations.UnitFaults : Prop :=
  ∀ (s : State) (q k z t kHz eng mv : Nat) (x y : Task),
    (s.blk.quartz = some z →
      (s.blk.quartzSpare = true → ∃ u, exec .quartzTakeover s = .next u ∧ u.blk = { s.blk with quartz := some 4, quartzSpare := false } ∧ u.mem = s.mem ∧
        u.tiles = s.tiles ∧ setHas u.flt.capacity 9 = true ∧ Sent.spareNotice 10 noQuarry ∈ u.sent ∧
        u.strata = { s.strata with load := s.strata.load.map (fun l => { l with staged := none }) } ∧
        (s.noFold .quartzTakeover noQuarry 4 → ∃ d, s.noted u .quartzTakeover .masked 4 d 0)) ∧
      (s.blk.quartzSpare = false → ∃ u, exec .quartzTakeover s = .next u ∧ u.blk = { s.blk with quartz := none } ∧ u.mem = s.mem ∧ u.tiles = s.tiles ∧
        ∃ n d, s.logged u .quartzTakeover .fatal n d 0)) ∧
    ((s.quarry q).present = true → (s.qpower q).pllFallback = false →
      ((s.quarry q).pllSpareLeft = true → ∃ u, exec (.pllFault q kHz) s = .next u ∧ (u.quarry q).pllSpareLeft = false ∧ (u.qpower q).pllSpare = true ∧
        TestUnit.pll q ∈ u.flt.testing ∧ Sent.spareNotice 9 q ∈ u.sent ∧ u.mem = s.mem ∧ u.tiles = s.tiles ∧
        (s.noFold .pllSwap q 0 → s.noted u .pllSwap .masked 0 kHz 0)) ∧
      ((s.quarry q).pllSpareLeft = false → ∃ u, exec (.pllFault q kHz) s = .next u ∧ (u.qpower q).pllFallback = true ∧ u.ceiling q ≤ 18 ∧
        setHas u.flt.capacity 10 = true ∧ u.mem = s.mem ∧ u.tiles = s.tiles ∧ (s.noFold .pllSwap q 1 → s.noted u .pllSwap .masked 1 kHz 0))) ∧
    (s.task? k = some x → x.phase = .running → x.engine = some (q, eng) → setHas (s.quarry q).engines eng = true →
      let left := (s.quarry q).engines.filter (fun i => i != eng)
      ∃ u, exec (.copyChunkCrcFail k eng) s = .next u ∧ u.mem = s.mem ∧ u.tiles = s.tiles ∧ Sent.spareNotice 8 q ∈ u.sent ∧
        ((s.quarry q).copySpare = true → u.task? k = some { x with engine := some (q, (s.quarry q).engineOut) } ∧ TestUnit.copyEngine q ∈ u.flt.testing ∧
          u.quarry q = { s.quarry q with copySpare := false, engines := setIns left (s.quarry q).engineOut, engineOut := eng }) ∧
        ((s.quarry q).copySpare = false → u.quarry q = { s.quarry q with engines := left } ∧ setHas u.flt.capacity 14 = true ∧
          ∃ e, u.task? k = some { x with engine := some (q, e) } ∧ (left ≠ [] → e ∈ left)) ∧
        (s.noFold .copyRetry q eng → ∃ d f, s.noted u .copyRetry .masked eng d f)) ∧
    ((s.tile t).role ≠ .absent →
      (∃ u, exec (.memorySideCrcFail t false) s = .next u ∧ u.tiles = s.tiles ∧ u.tasks = s.tasks ∧ u.mem = s.mem ∧
        (s.noFold .memorySide (quarryOf t) t → ∃ d, s.logged u .memorySide .masked t d 1)) ∧
      ((s.tile t).task = some k → s.task? k = some y →
        ((∀ f ∈ y.faults, f.2.cause ≠ 0x42) → ∃ u, exec (.memorySideCrcFail t true) s = .next u ∧ s.stoppedGrid u k ∧ ∃ w, u.task? k = some w ∧
          w.stopping = true ∧ w.faults = y.faults ++ [(Status.poisonedOutput, mkDetail 0x42 none 1 (s.flt.newest + 1))]) ∧
        ((∃ f ∈ y.faults, f.2.cause = 0x42) → ∃ u, exec (.memorySideCrcFail t true) s = .next u ∧ s.stoppedGrid u k ∧ ∃ w, u.task? k = some w ∧
          w.faults = y.faults.map (fun f => if f.2.cause = 0x42 then (f.1, { f.2 with count := f.2.count + 1 }) else f)))) ∧
    (mv < s.strata.str.retireMv → exec (.tileRetire t mv) s = .next s) ∧
    (s.strata.str.retireMv ≤ mv →
      ((s.tile t).role = .mapped →
        (s.spareFor (quarryOf t) = none → ∃ u, exec (.tileRetire t mv) s = .next u ∧ u.tiles = s.tiles ∧
          (s.noFold .tileRetire (quarryOf t) t → s.logged u .tileRetire .notice t mv 0xFFFF)) ∧
        (s.spareFor (quarryOf t) = some z → (s.tile t).task ≠ none → ∃ u, exec (.tileRetire t mv) s = .next u ∧
          u.tile t = { s.tile t with retireAsked := true, deficit := mv } ∧ (∀ p, p ≠ t → u.tile p = s.tile p) ∧ u = { s with tiles := u.tiles }) ∧
        (s.spareFor (quarryOf t) = some z → (s.tile t).task = none → ∃ u, exec (.tileRetire t mv) s = .next u ∧ (u.tile t).role = .retired ∧
          (u.tile z).role = .mapped ∧ tblFind u.strata.str.tileMap (s.tile t).logical = some z)) ∧
      ((s.tile t).role = .spare → ∃ u, exec (.tileRetire t mv) s = .next u ∧ (u.tile t).role = .retired ∧ (u.tile t).healthy = false ∧
        (∀ p, p ≠ t → u.tile p = s.tile p) ∧ (s.noFold .tileRetire (quarryOf t) t → s.noted u .tileRetire .notice t mv 0xFFFF)))

/-- R383, R490, R491, R496 to R498, R502, R506: a rotation step tests a spare or asks a mapped tile to give way; a tested unit is a spare again or is retired; SELF_TEST
wipes tile memory while the queues are idle and completes with the units that failed; one message tells the faults that are due. -/
def Obligations.SelfTests : Prop :=
  ∀ (s : State) (q t k ticks : Nat) (v : TestUnit) (x : Task) (fails : List TestUnit),
    ((s.quarry q).present = true → s.blk.state ≠ .sleep → s.overdue q = false →
      (s.nextStep q = none → ∃ u, exec (.rotationStep q) s = .next u ∧ u = s) ∧
      (s.nextStep q = some t → (s.tile t).role = .spare ∨ (s.tile t).task.isSome = true → ∃ u, exec (.rotationStep q) s = .next u ∧
        (u.quarry q).nextTile = (t % 52 + 1) % 52 ∧ u.flt.steps = satAdd 16 s.flt.steps 1 ∧ (∀ p, p ≠ t → u.tile p = s.tile p) ∧ u.mem = s.mem ∧
        u.tile t = (if (s.tile t).role = .spare then { s.tile t with role := .testing } else { s.tile t with rotateAsked := true }))) ∧
    (s.isSpare t = true → ∃ u, exec (.spareTest (.tile t)) s = .next u ∧ u.tile t = { s.tile t with role := .testing } ∧
      (∀ p, p ≠ t → u.tile p = s.tile p) ∧ u = { s with tiles := u.tiles }) ∧
    (s.spareUnit v = true → (∀ p, v ≠ .tile p) → ∃ u, exec (.spareTest v) s = .next u ∧ v ∈ u.flt.testing ∧ u = { s with flt := { s.flt with testing := u.flt.testing } }) ∧
    ((s.tile t).role = .testing →
      (s.flt.unserved = [] → ∃ u, exec (.unitTestDone (.tile t) true ticks) s = .next u ∧
        u.tile t = { s.tile t with role := .spare, healthy := true, lastTest := s.now } ∧ (∀ p, p ≠ t → u.tile p = s.tile p) ∧ u.mem = s.mem ∧
        (s.noFold .tileSelftest (quarryOf t) t → s.logged u .tileSelftest .notice t 0 ticks)) ∧
      ∃ u, exec (.unitTestDone (.tile t) false ticks) s = .next u ∧ u.tile t = { s.tile t with role := .retired, healthy := false, lastTest := s.now } ∧
        (∀ p, p ≠ t → u.tile p = s.tile p) ∧ u.flt.found = satAdd 8 s.flt.found 1 ∧ u.mem = s.mem ∧
        (s.noFold .tileSelftest (quarryOf t) t → s.noted u .tileSelftest .masked t 1 ticks)) ∧
    (v ∈ s.flt.testing → (∀ p, v ≠ .tile p) →
      (∃ u, exec (.unitTestDone v true ticks) s = .next u ∧ v ∉ u.flt.testing ∧ u.tiles = s.tiles ∧ u.mem = s.mem ∧
        (v = .copyEngine q → (u.quarry q).copySpare = true) ∧ (v = .pll q → (u.quarry q).pllSpareLeft = true)) ∧
      ∃ u, exec (.unitTestDone v false ticks) s = .next u ∧ v ∉ u.flt.testing ∧ u.tiles = s.tiles ∧ u.mem = s.mem ∧ u.flt.found = satAdd 8 s.flt.found 1 ∧
        (v = .copyEngine q → (u.quarry q).copySpare = false) ∧ (v = .pll q → (u.quarry q).pllSpareLeft = false) ∧ (v = .quartz → u.blk.quartzSpare = false)) ∧
    (s.adm.running = some k → s.task? k = some x → x.queue = none → x.unseen = [] →
      (x.admin = some (.selfTest 0) → x.phase = .dispatched →
        ((∀ e ∈ s.queues, s.queueIdle e.2 = true) → ∃ u, exec (.selfTest fails) s = .next u ∧ u.flt.selfTest = true ∧ u.qc.lines = [] ∧
          (∀ e ∈ s.tiles, (u.tile e.1).scratch = [] ∧ (u.tile e.1).dcache = []) ∧ ∃ y, u.task? k = some y ∧ y.phase = .running) ∧
        ((∃ e ∈ s.queues, s.queueIdle e.2 = false) → ∃ u, exec (.selfTest fails) s = .next u ∧ u.flt.selfTest = s.flt.selfTest ∧ u.taskFailed k x .busy noDetail)) ∧
      (x.admin = some (.selfTest 0) → x.phase = .running → s.queues = [] → s.adm.recorded = none → ∃ u, exec (.selfTest []) s = .next u ∧
        u.flt.selfTest = false ∧ s.taskDone u k { x with result := 0 } ∧ ∀ e ∈ s.tiles, (u.tile e.1).lastTest = s.now) ∧
      (x.admin = some (.selfTest 1) → x.phase = .running → s.testsOpen x.tiles = false → ∃ u, exec (.selfTest fails) s = .next u ∧ u.tiles = s.tiles ∧
        s.taskDone u k { x with result := (x.tiles.filter (fun t => decide ((s.tile t).role = .retired))).length })) ∧
    (s.flt.enable = true → s.flt.due ≠ [] → (∀ a ∈ s.flt.lastMsg, a + 10000 ≤ s.now) → ∃ u, exec .faultNotify s = .next u ∧ u.flt.due = [] ∧
      u.flt.lastMsg = some s.now ∧ u.sent.getLast? = some (.event 1 s.flt.newest) ∧ u.mem = s.mem ∧
      (s.host.msixEn = true → s.host.functionMask = false → (tblGet {} s.host.msix s.flt.vector).masked = false → s.host.bme = true → s.host.linkUp = true →
        Sent.msix s.flt.vector (tblGet {} s.host.msix s.flt.vector).addr (tblGet {} s.host.msix s.flt.vector).data ∈ u.sent)) ∧
    (s.flt.due = [] → exec .faultNotify s = .next s)

/-! ## The machine as a whole -/

/-- A step runs the command at the front of the queue on the state with the queue's rest. On an empty queue the host's port tries the oldest request that it holds
(R409, R417), and the block idles where it holds none (assumption 1, the model's choice). -/
def Obligations.StepRunsTheFront : Prop :=
  ∀ (s : State) (c : Instr) (rest : List Instr), (s.pending = c :: rest → step s = exec c { s with pending := rest }) ∧ (s.pending = [] → step s = s.takeHeld) ∧
    (s.pending = [] → s.host.waiting = [] → step s = .next s)

/-- R20, R454, R483, R502, R509, R514, R526, R527: the registers that have a reset value hold it; no command waits, and memory lists nothing. -/
def Obligations.ResetValues : Prop :=
  let s := State.reset
  s.pending = [] ∧ s.memOk ∧ s.rangesOk ∧ s.mem.bytes = [] ∧ s.mem.poison = [] ∧ s.blk.state = .unstructured ∧ s.strata.inForce = false ∧
    s.own.st = .vacant ∧ s.own.epoch = 0 ∧ s.own.leaseMs = 2000 ∧ s.pwr.capOwner = 2800 ∧ s.pwr.capRack = 3000 ∧ s.flt.level = 2 ∧ s.flt.newest = 0 ∧
    s.fab.assigned = false ∧ s.queues = [] ∧ s.ctxs = [] ∧ s.adm.enabled = false ∧ s.host.mse = false ∧ s.host.bme = false

/-- R509: device memory keeps its canonical form over every step, whatever the command: addresses rise strictly, and no zero byte is listed. -/
def Obligations.MemoryFormKept : Prop := ∀ s u : State, s.memOk → step s = .next u → u.memOk

/-- R465, R483, R527: over every step the power caps stay within 800 to 3,000 W and the lease within 100 to 60,000 ms. -/
def Obligations.RangesKept : Prop := ∀ s u : State, s.rangesOk → step s = .next u → u.rangesOk
end

