-- ==== Sys2Proof/Laws/Table.lean ====
section
/-! SUPPORT. Laws of tables, sets and byte memory: a read after a write, writes leave other keys alone, the canonical form is kept. -/

namespace Sys2Proof.Machine

/-! ## Tables -/

theorem tblGet_eq_find {α : Type} (d : α) (m : Tbl α) (a : Nat) : tblGet d m a = (tblFind m a).getD d := by
  induction m with
  | nil => rfl
  | cons e m ih =>
    obtain ⟨k, v⟩ := e
    simp only [tblGet, tblFind]
    split <;> simp [ih]

theorem tblFind_tblDel_self {α : Type} (m : Tbl α) (a : Nat) : tblFind (tblDel m a) a = none := by
  induction m with
  | nil => rfl
  | cons e m ih =>
    obtain ⟨k, v⟩ := e
    unfold tblDel at ih ⊢
    by_cases h : k = a
    · simp [h, ih]
    · simp [h, tblFind, ih]

theorem tblFind_tblDel_ne {α : Type} (m : Tbl α) {a b : Nat} (h : b ≠ a) : tblFind (tblDel m a) b = tblFind m b := by
  induction m with
  | nil => rfl
  | cons e m ih =>
    obtain ⟨k, v⟩ := e
    unfold tblDel at ih ⊢
    by_cases hk : k = a
    · subst hk
      simp [tblFind, ih, Ne.symm h]
    · simp [hk, tblFind, ih]

theorem tblFind_tblIns_self {α : Type} (m : Tbl α) (a : Nat) (v : α) (h : tblFind m a = none) : tblFind (tblIns m a v) a = some v := by
  induction m with
  | nil => simp [tblIns, tblFind]
  | cons e m ih =>
    obtain ⟨k, w⟩ := e
    simp only [tblFind] at h
    split at h
    · exact absurd h (by simp)
    · rename_i hk
      simp only [tblIns]
      split
      · simp [tblFind]
      · simp [tblFind, hk, ih h]

theorem tblFind_tblIns_ne {α : Type} (m : Tbl α) {a b : Nat} (v : α) (h : b ≠ a) : tblFind (tblIns m a v) b = tblFind m b := by
  induction m with
  | nil => simp [tblIns, tblFind, Ne.symm h]
  | cons e m ih =>
    obtain ⟨k, w⟩ := e
    simp only [tblIns]
    split
    · simp [tblFind, Ne.symm h]
    · simp only [tblFind, ih]

/-- A record just written is read back. -/
@[simp] theorem tblFind_tblPut_self {α : Type} (m : Tbl α) (a : Nat) (v : α) : tblFind (tblPut m a v) a = some v :=
  tblFind_tblIns_self _ a v (tblFind_tblDel_self m a)

/-- A write leaves every other record alone. -/
theorem tblFind_tblPut_ne {α : Type} (m : Tbl α) {a b : Nat} (v : α) (h : b ≠ a) : tblFind (tblPut m a v) b = tblFind m b := by
  rw [tblPut, tblFind_tblIns_ne _ v h, tblFind_tblDel_ne m h]

@[simp] theorem tblGet_tblPut_self {α : Type} (d : α) (m : Tbl α) (a : Nat) (v : α) : tblGet d (tblPut m a v) a = v := by
  simp [tblGet_eq_find]

theorem tblGet_tblPut_ne {α : Type} (d : α) (m : Tbl α) {a b : Nat} (v : α) (h : b ≠ a) :
    tblGet d (tblPut m a v) b = tblGet d m b := by
  simp [tblGet_eq_find, tblFind_tblPut_ne m v h]

theorem tblGet_tblPut {α : Type} (d : α) (m : Tbl α) (a b : Nat) (v : α) :
    tblGet d (tblPut m a v) b = if b = a then v else tblGet d m b := by
  split
  · subst b; simp
  · rename_i h; exact tblGet_tblPut_ne d m v h

@[simp] theorem tblGet_tblDel_self {α : Type} (d : α) (m : Tbl α) (a : Nat) : tblGet d (tblDel m a) a = d := by
  simp [tblGet_eq_find, tblFind_tblDel_self]

theorem tblGet_tblDel_ne {α : Type} (d : α) (m : Tbl α) {a b : Nat} (h : b ≠ a) : tblGet d (tblDel m a) b = tblGet d m b := by
  simp [tblGet_eq_find, tblFind_tblDel_ne m h]

/-! ## Keys rise -/

theorem tblSorted_iff {α : Type} (m : Tbl α) : tblSorted m = true ↔ m.Pairwise (fun x y => x.1 < y.1) := by
  induction m with
  | nil => simp [tblSorted]
  | cons e m ih =>
    obtain ⟨k, v⟩ := e
    simp [tblSorted, ih, List.pairwise_cons]

theorem tblSorted_filter {α : Type} (m : Tbl α) (p : Nat × α → Bool) (h : tblSorted m = true) : tblSorted (m.filter p) = true := by
  rw [tblSorted_iff] at h ⊢
  exact h.filter p

theorem tblIns_mem {α : Type} (m : Tbl α) (a : Nat) (v : α) (e : Nat × α) (h : e ∈ tblIns m a v) : e = (a, v) ∨ e ∈ m := by
  induction m with
  | nil => simpa [tblIns] using h
  | cons x m ih =>
    obtain ⟨k, w⟩ := x
    simp only [tblIns] at h
    split at h
    · simpa using h
    · rcases List.mem_cons.mp h with h | h
      · exact .inr (by simp [h])
      · rcases ih h with h | h
        · exact .inl h
        · exact .inr (List.mem_cons_of_mem _ h)

theorem tblSorted_tblIns {α : Type} (m : Tbl α) (a : Nat) (v : α) (h : tblSorted m = true) (hn : ∀ e ∈ m, e.1 ≠ a) :
    tblSorted (tblIns m a v) = true := by
  rw [tblSorted_iff] at h ⊢
  induction m with
  | nil => simp [tblIns]
  | cons x m ih =>
    obtain ⟨k, w⟩ := x
    rw [List.pairwise_cons] at h
    simp only [tblIns]
    split
    · rename_i hk
      refine List.pairwise_cons.mpr ⟨fun e he => ?_, List.pairwise_cons.mpr h⟩
      rcases List.mem_cons.mp he with he | he
      · simpa [he] using hk
      · exact Nat.lt_trans hk (h.1 e he)
    · rename_i hk
      refine List.pairwise_cons.mpr ⟨fun e he => ?_, ih h.2 (fun e he => hn e (List.mem_cons_of_mem _ he))⟩
      rcases tblIns_mem m a v e he with he | he
      · have := hn (k, w) (by simp)
        subst he
        simp only at this hk ⊢
        omega
      · exact h.1 e he

theorem tblSorted_tblPut {α : Type} (m : Tbl α) (a : Nat) (v : α) (h : tblSorted m = true) : tblSorted (tblPut m a v) = true :=
  tblSorted_tblIns _ a v (tblSorted_filter m _ h) (fun e he => by simpa [tblDel] using (List.mem_filter.mp he).2)

/-! ## Byte memory -/

/-- A byte just written is read back; every other byte is left alone. -/
theorem memGet_memPut (m : Mem) (a x : Nat) (b : Byte) : memGet (memPut m a b) x = if x = a then b else memGet m x := by
  unfold memGet memPut
  by_cases hb : b = unlistedByte
  · simp only [hb, if_true]
    by_cases hx : x = a
    · subst hx; simp
    · simp [hx, tblGet_tblDel_ne unlistedByte m hx]
  · simp only [hb, if_false]
    exact tblGet_tblPut unlistedByte m a x b

/-- Bytes outside a written range are left alone. -/
theorem memGet_memWrite_out (m : Mem) (a x : Nat) (bs : List Byte) (h : x < a ∨ a + bs.length ≤ x) :
    memGet (memWrite m a bs) x = memGet m x := by
  induction bs generalizing m a with
  | nil => rfl
  | cons b bs ih =>
    simp only [List.length_cons] at h
    rw [memWrite, ih _ _ (by omega), memGet_memPut]
    split
    · omega
    · rfl

/-- A write is read back byte by byte. -/
theorem memGet_memWrite_in (m : Mem) (a i : Nat) (bs : List Byte) (h : i < bs.length) :
    memGet (memWrite m a bs) (a + i) = bs[i] := by
  induction bs generalizing m a i with
  | nil => simp at h
  | cons b bs ih =>
    cases i with
    | zero =>
      rw [memWrite, Nat.add_zero, memGet_memWrite_out _ _ _ _ (.inl (by omega)), memGet_memPut]
      simp
    | succ i =>
      have := ih (memPut m a b) (a + 1) i (by simpa using h)
      simpa [memWrite, Nat.add_assoc, Nat.add_comm 1 i] using this

theorem memRead_length (m : Mem) (a n : Nat) : (memRead m a n).length = n := by
  induction n generalizing a with
  | zero => rfl
  | succ n ih => simp [memRead, ih]

/-- A read after a write of the same range gives the bytes written. -/
theorem memRead_memWrite (m : Mem) (a : Nat) (bs : List Byte) : memRead (memWrite m a bs) a bs.length = bs := by
  induction bs generalizing m a with
  | nil => rfl
  | cons b bs ih =>
    simp only [List.length_cons, memRead, memWrite]
    rw [ih, memGet_memWrite_out _ _ _ _ (.inl (by omega)), memGet_memPut]
    simp

/-- Every memory operation keeps the canonical form. -/
theorem memory_wf_memPut (m : Mem) (a : Nat) (b : Byte) (h : Memory.wf m = true) : Memory.wf (memPut m a b) = true := by
  simp only [Memory.wf, Bool.and_eq_true, List.all_eq_true, bne_iff_ne] at h ⊢
  unfold memPut
  split
  · exact ⟨tblSorted_filter m _ h.1, fun e he => h.2 e (List.mem_of_mem_filter he)⟩
  · rename_i hb
    refine ⟨tblSorted_tblPut m a b h.1, fun e he => ?_⟩
    rcases tblIns_mem _ a b e he with he | he
    · simpa [he] using hb
    · exact h.2 e (List.mem_of_mem_filter he)

theorem memory_wf_memWrite (m : Mem) (a : Nat) (bs : List Byte) (h : Memory.wf m = true) : Memory.wf (memWrite m a bs) = true := by
  induction bs generalizing m a with
  | nil => exact h
  | cons b bs ih => exact ih _ _ (memory_wf_memPut m a b h)

theorem memory_wf_memZero (m : Mem) (a n : Nat) (h : Memory.wf m = true) : Memory.wf (memZero m a n) = true := by
  simp only [Memory.wf, Bool.and_eq_true, List.all_eq_true, bne_iff_ne] at h ⊢
  exact ⟨tblSorted_filter m _ h.1, fun e he => h.2 e (List.mem_of_mem_filter he)⟩

theorem memory_wf_nil : Memory.wf [] = true := rfl

/-! ## Sets -/

theorem mem_setIns (m : NSet) (a x : Nat) : x ∈ setIns m a ↔ x = a ∨ x ∈ m := by
  induction m with
  | nil => simp [setIns]
  | cons k m ih =>
    simp only [setIns]
    split
    · simp
    · split
      · rename_i h; subst h; simp
      · simp only [List.mem_cons, ih]; tauto

@[simp] theorem setHas_setIns (m : NSet) (a x : Nat) : setHas (setIns m a) x = (decide (x = a) || setHas m x) := by
  simp only [setHas, List.contains_eq_mem, mem_setIns]
  exact Bool.decide_or _ _

@[simp] theorem setHas_setDel (m : NSet) (a x : Nat) : setHas (setDel m a) x = (decide (x ≠ a) && setHas m x) := by
  simp only [setHas, setDel, List.contains_eq_mem, List.mem_filter, bne_iff_ne]
  rw [Bool.decide_and, Bool.and_comm]

@[simp] theorem setHas_setPut (m : NSet) (a x : Nat) (b : Bool) : setHas (setPut m a b) x = if x = a then b else setHas m x := by
  cases b <;> by_cases h : x = a <;> simp [setPut, h]

/-! ## Bytes of a value (R7) -/

theorem leBytes_length (n v : Nat) : (leBytes n v).length = n := by
  induction n generalizing v with
  | zero => rfl
  | succ n ih => simp [leBytes, ih]

theorem leNat_leBytes (n v : Nat) : leNat (leBytes n v) = v % 256 ^ n := by
  induction n generalizing v with
  | zero => simp [leBytes, leNat, Nat.mod_one]
  | succ n ih =>
    have h : (256 : Nat) ^ (n + 1) = 256 * 256 ^ n := by rw [Nat.pow_succ, Nat.mul_comm]
    have h8 : (BitVec.ofNat 8 v).toNat = v % 256 := by simp
    rw [leBytes, leNat, ih, h8, h, Nat.mod_mul]

end Sys2Proof.Machine
end

