-- ==== Sys2Proof/Laws/State.lean ====
section
/-! SUPPORT. One lemma per field per named update of the state and of a tile, true by unfolding, so that no proof unfolds a
record update. -/

namespace Sys2Proof.Machine

/-! ## setTile -/

@[simp] theorem State.setTile_pending (s : State) (t : Nat) (x : Tile) : (s.setTile t x).pending = s.pending := rfl
@[simp] theorem State.setTile_blk (s : State) (t : Nat) (x : Tile) : (s.setTile t x).blk = s.blk := rfl
@[simp] theorem State.setTile_own (s : State) (t : Nat) (x : Tile) : (s.setTile t x).own = s.own := rfl
@[simp] theorem State.setTile_strata (s : State) (t : Nat) (x : Tile) : (s.setTile t x).strata = s.strata := rfl
@[simp] theorem State.setTile_adm (s : State) (t : Nat) (x : Tile) : (s.setTile t x).adm = s.adm := rfl
@[simp] theorem State.setTile_ctxs (s : State) (t : Nat) (x : Tile) : (s.setTile t x).ctxs = s.ctxs := rfl
@[simp] theorem State.setTile_queues (s : State) (t : Nat) (x : Tile) : (s.setTile t x).queues = s.queues := rfl
@[simp] theorem State.setTile_tasks (s : State) (t : Nat) (x : Tile) : (s.setTile t x).tasks = s.tasks := rfl
@[simp] theorem State.setTile_mem (s : State) (t : Nat) (x : Tile) : (s.setTile t x).mem = s.mem := rfl
@[simp] theorem State.setTile_homes (s : State) (t : Nat) (x : Tile) : (s.setTile t x).homes = s.homes := rfl
@[simp] theorem State.setTile_qc (s : State) (t : Nat) (x : Tile) : (s.setTile t x).qc = s.qc := rfl
@[simp] theorem State.setTile_pkts (s : State) (t : Nat) (x : Tile) : (s.setTile t x).pkts = s.pkts := rfl
@[simp] theorem State.setTile_rsps (s : State) (t : Nat) (x : Tile) : (s.setTile t x).rsps = s.rsps := rfl
@[simp] theorem State.setTile_flint (s : State) (t : Nat) (x : Tile) : (s.setTile t x).flint = s.flint := rfl
@[simp] theorem State.setTile_mica (s : State) (t : Nat) (x : Tile) : (s.setTile t x).mica = s.mica := rfl
@[simp] theorem State.setTile_xlat (s : State) (t : Nat) (x : Tile) : (s.setTile t x).xlat = s.xlat := rfl
@[simp] theorem State.setTile_host (s : State) (t : Nat) (x : Tile) : (s.setTile t x).host = s.host := rfl
@[simp] theorem State.setTile_fab (s : State) (t : Nat) (x : Tile) : (s.setTile t x).fab = s.fab := rfl
@[simp] theorem State.setTile_pwr (s : State) (t : Nat) (x : Tile) : (s.setTile t x).pwr = s.pwr := rfl
@[simp] theorem State.setTile_qry (s : State) (t : Nat) (x : Tile) : (s.setTile t x).qry = s.qry := rfl
@[simp] theorem State.setTile_flt (s : State) (t : Nat) (x : Tile) : (s.setTile t x).flt = s.flt := rfl
@[simp] theorem State.setTile_sent (s : State) (t : Nat) (x : Tile) : (s.setTile t x).sent = s.sent := rfl
@[simp] theorem State.setTile_nextId (s : State) (t : Nat) (x : Tile) : (s.setTile t x).nextId = s.nextId := rfl
@[simp] theorem State.setTile_free (s : State) (t : Nat) (x : Tile) : (s.setTile t x).free = s.free := rfl

/-! ## modTile -/

@[simp] theorem State.modTile_pending (s : State) (t : Nat) (f : Tile → Tile) : (s.modTile t f).pending = s.pending := rfl
@[simp] theorem State.modTile_blk (s : State) (t : Nat) (f : Tile → Tile) : (s.modTile t f).blk = s.blk := rfl
@[simp] theorem State.modTile_own (s : State) (t : Nat) (f : Tile → Tile) : (s.modTile t f).own = s.own := rfl
@[simp] theorem State.modTile_strata (s : State) (t : Nat) (f : Tile → Tile) : (s.modTile t f).strata = s.strata := rfl
@[simp] theorem State.modTile_adm (s : State) (t : Nat) (f : Tile → Tile) : (s.modTile t f).adm = s.adm := rfl
@[simp] theorem State.modTile_ctxs (s : State) (t : Nat) (f : Tile → Tile) : (s.modTile t f).ctxs = s.ctxs := rfl
@[simp] theorem State.modTile_queues (s : State) (t : Nat) (f : Tile → Tile) : (s.modTile t f).queues = s.queues := rfl
@[simp] theorem State.modTile_tasks (s : State) (t : Nat) (f : Tile → Tile) : (s.modTile t f).tasks = s.tasks := rfl
@[simp] theorem State.modTile_mem (s : State) (t : Nat) (f : Tile → Tile) : (s.modTile t f).mem = s.mem := rfl
@[simp] theorem State.modTile_homes (s : State) (t : Nat) (f : Tile → Tile) : (s.modTile t f).homes = s.homes := rfl
@[simp] theorem State.modTile_qc (s : State) (t : Nat) (f : Tile → Tile) : (s.modTile t f).qc = s.qc := rfl
@[simp] theorem State.modTile_pkts (s : State) (t : Nat) (f : Tile → Tile) : (s.modTile t f).pkts = s.pkts := rfl
@[simp] theorem State.modTile_rsps (s : State) (t : Nat) (f : Tile → Tile) : (s.modTile t f).rsps = s.rsps := rfl
@[simp] theorem State.modTile_flint (s : State) (t : Nat) (f : Tile → Tile) : (s.modTile t f).flint = s.flint := rfl
@[simp] theorem State.modTile_mica (s : State) (t : Nat) (f : Tile → Tile) : (s.modTile t f).mica = s.mica := rfl
@[simp] theorem State.modTile_xlat (s : State) (t : Nat) (f : Tile → Tile) : (s.modTile t f).xlat = s.xlat := rfl
@[simp] theorem State.modTile_host (s : State) (t : Nat) (f : Tile → Tile) : (s.modTile t f).host = s.host := rfl
@[simp] theorem State.modTile_fab (s : State) (t : Nat) (f : Tile → Tile) : (s.modTile t f).fab = s.fab := rfl
@[simp] theorem State.modTile_pwr (s : State) (t : Nat) (f : Tile → Tile) : (s.modTile t f).pwr = s.pwr := rfl
@[simp] theorem State.modTile_qry (s : State) (t : Nat) (f : Tile → Tile) : (s.modTile t f).qry = s.qry := rfl
@[simp] theorem State.modTile_flt (s : State) (t : Nat) (f : Tile → Tile) : (s.modTile t f).flt = s.flt := rfl
@[simp] theorem State.modTile_sent (s : State) (t : Nat) (f : Tile → Tile) : (s.modTile t f).sent = s.sent := rfl
@[simp] theorem State.modTile_nextId (s : State) (t : Nat) (f : Tile → Tile) : (s.modTile t f).nextId = s.nextId := rfl
@[simp] theorem State.modTile_free (s : State) (t : Nat) (f : Tile → Tile) : (s.modTile t f).free = s.free := rfl

/-! ## modQuarry -/

@[simp] theorem State.modQuarry_pending (s : State) (q : Nat) (f : Quarry → Quarry) : (s.modQuarry q f).pending = s.pending := rfl
@[simp] theorem State.modQuarry_blk (s : State) (q : Nat) (f : Quarry → Quarry) : (s.modQuarry q f).blk = s.blk := rfl
@[simp] theorem State.modQuarry_own (s : State) (q : Nat) (f : Quarry → Quarry) : (s.modQuarry q f).own = s.own := rfl
@[simp] theorem State.modQuarry_strata (s : State) (q : Nat) (f : Quarry → Quarry) : (s.modQuarry q f).strata = s.strata := rfl
@[simp] theorem State.modQuarry_adm (s : State) (q : Nat) (f : Quarry → Quarry) : (s.modQuarry q f).adm = s.adm := rfl
@[simp] theorem State.modQuarry_ctxs (s : State) (q : Nat) (f : Quarry → Quarry) : (s.modQuarry q f).ctxs = s.ctxs := rfl
@[simp] theorem State.modQuarry_queues (s : State) (q : Nat) (f : Quarry → Quarry) : (s.modQuarry q f).queues = s.queues := rfl
@[simp] theorem State.modQuarry_tasks (s : State) (q : Nat) (f : Quarry → Quarry) : (s.modQuarry q f).tasks = s.tasks := rfl
@[simp] theorem State.modQuarry_tiles (s : State) (q : Nat) (f : Quarry → Quarry) : (s.modQuarry q f).tiles = s.tiles := rfl
@[simp] theorem State.modQuarry_mem (s : State) (q : Nat) (f : Quarry → Quarry) : (s.modQuarry q f).mem = s.mem := rfl
@[simp] theorem State.modQuarry_homes (s : State) (q : Nat) (f : Quarry → Quarry) : (s.modQuarry q f).homes = s.homes := rfl
@[simp] theorem State.modQuarry_qc (s : State) (q : Nat) (f : Quarry → Quarry) : (s.modQuarry q f).qc = s.qc := rfl
@[simp] theorem State.modQuarry_pkts (s : State) (q : Nat) (f : Quarry → Quarry) : (s.modQuarry q f).pkts = s.pkts := rfl
@[simp] theorem State.modQuarry_rsps (s : State) (q : Nat) (f : Quarry → Quarry) : (s.modQuarry q f).rsps = s.rsps := rfl
@[simp] theorem State.modQuarry_flint (s : State) (q : Nat) (f : Quarry → Quarry) : (s.modQuarry q f).flint = s.flint := rfl
@[simp] theorem State.modQuarry_mica (s : State) (q : Nat) (f : Quarry → Quarry) : (s.modQuarry q f).mica = s.mica := rfl
@[simp] theorem State.modQuarry_xlat (s : State) (q : Nat) (f : Quarry → Quarry) : (s.modQuarry q f).xlat = s.xlat := rfl
@[simp] theorem State.modQuarry_host (s : State) (q : Nat) (f : Quarry → Quarry) : (s.modQuarry q f).host = s.host := rfl
@[simp] theorem State.modQuarry_fab (s : State) (q : Nat) (f : Quarry → Quarry) : (s.modQuarry q f).fab = s.fab := rfl
@[simp] theorem State.modQuarry_pwr (s : State) (q : Nat) (f : Quarry → Quarry) : (s.modQuarry q f).pwr = s.pwr := rfl
@[simp] theorem State.modQuarry_flt (s : State) (q : Nat) (f : Quarry → Quarry) : (s.modQuarry q f).flt = s.flt := rfl
@[simp] theorem State.modQuarry_sent (s : State) (q : Nat) (f : Quarry → Quarry) : (s.modQuarry q f).sent = s.sent := rfl
@[simp] theorem State.modQuarry_nextId (s : State) (q : Nat) (f : Quarry → Quarry) : (s.modQuarry q f).nextId = s.nextId := rfl
@[simp] theorem State.modQuarry_free (s : State) (q : Nat) (f : Quarry → Quarry) : (s.modQuarry q f).free = s.free := rfl

/-! ## modQPower -/

@[simp] theorem State.modQPower_pending (s : State) (q : Nat) (f : QPower → QPower) : (s.modQPower q f).pending = s.pending := rfl
@[simp] theorem State.modQPower_blk (s : State) (q : Nat) (f : QPower → QPower) : (s.modQPower q f).blk = s.blk := rfl
@[simp] theorem State.modQPower_own (s : State) (q : Nat) (f : QPower → QPower) : (s.modQPower q f).own = s.own := rfl
@[simp] theorem State.modQPower_strata (s : State) (q : Nat) (f : QPower → QPower) : (s.modQPower q f).strata = s.strata := rfl
@[simp] theorem State.modQPower_adm (s : State) (q : Nat) (f : QPower → QPower) : (s.modQPower q f).adm = s.adm := rfl
@[simp] theorem State.modQPower_ctxs (s : State) (q : Nat) (f : QPower → QPower) : (s.modQPower q f).ctxs = s.ctxs := rfl
@[simp] theorem State.modQPower_queues (s : State) (q : Nat) (f : QPower → QPower) : (s.modQPower q f).queues = s.queues := rfl
@[simp] theorem State.modQPower_tasks (s : State) (q : Nat) (f : QPower → QPower) : (s.modQPower q f).tasks = s.tasks := rfl
@[simp] theorem State.modQPower_tiles (s : State) (q : Nat) (f : QPower → QPower) : (s.modQPower q f).tiles = s.tiles := rfl
@[simp] theorem State.modQPower_mem (s : State) (q : Nat) (f : QPower → QPower) : (s.modQPower q f).mem = s.mem := rfl
@[simp] theorem State.modQPower_homes (s : State) (q : Nat) (f : QPower → QPower) : (s.modQPower q f).homes = s.homes := rfl
@[simp] theorem State.modQPower_qc (s : State) (q : Nat) (f : QPower → QPower) : (s.modQPower q f).qc = s.qc := rfl
@[simp] theorem State.modQPower_pkts (s : State) (q : Nat) (f : QPower → QPower) : (s.modQPower q f).pkts = s.pkts := rfl
@[simp] theorem State.modQPower_rsps (s : State) (q : Nat) (f : QPower → QPower) : (s.modQPower q f).rsps = s.rsps := rfl
@[simp] theorem State.modQPower_flint (s : State) (q : Nat) (f : QPower → QPower) : (s.modQPower q f).flint = s.flint := rfl
@[simp] theorem State.modQPower_mica (s : State) (q : Nat) (f : QPower → QPower) : (s.modQPower q f).mica = s.mica := rfl
@[simp] theorem State.modQPower_xlat (s : State) (q : Nat) (f : QPower → QPower) : (s.modQPower q f).xlat = s.xlat := rfl
@[simp] theorem State.modQPower_host (s : State) (q : Nat) (f : QPower → QPower) : (s.modQPower q f).host = s.host := rfl
@[simp] theorem State.modQPower_fab (s : State) (q : Nat) (f : QPower → QPower) : (s.modQPower q f).fab = s.fab := rfl
@[simp] theorem State.modQPower_qry (s : State) (q : Nat) (f : QPower → QPower) : (s.modQPower q f).qry = s.qry := rfl
@[simp] theorem State.modQPower_flt (s : State) (q : Nat) (f : QPower → QPower) : (s.modQPower q f).flt = s.flt := rfl
@[simp] theorem State.modQPower_sent (s : State) (q : Nat) (f : QPower → QPower) : (s.modQPower q f).sent = s.sent := rfl
@[simp] theorem State.modQPower_nextId (s : State) (q : Nat) (f : QPower → QPower) : (s.modQPower q f).nextId = s.nextId := rfl
@[simp] theorem State.modQPower_free (s : State) (q : Nat) (f : QPower → QPower) : (s.modQPower q f).free = s.free := rfl

/-! ## setQueue -/

@[simp] theorem State.setQueue_pending (s : State) (q : Nat) (x : WorkQueue) : (s.setQueue q x).pending = s.pending := rfl
@[simp] theorem State.setQueue_blk (s : State) (q : Nat) (x : WorkQueue) : (s.setQueue q x).blk = s.blk := rfl
@[simp] theorem State.setQueue_own (s : State) (q : Nat) (x : WorkQueue) : (s.setQueue q x).own = s.own := rfl
@[simp] theorem State.setQueue_strata (s : State) (q : Nat) (x : WorkQueue) : (s.setQueue q x).strata = s.strata := rfl
@[simp] theorem State.setQueue_adm (s : State) (q : Nat) (x : WorkQueue) : (s.setQueue q x).adm = s.adm := rfl
@[simp] theorem State.setQueue_ctxs (s : State) (q : Nat) (x : WorkQueue) : (s.setQueue q x).ctxs = s.ctxs := rfl
@[simp] theorem State.setQueue_tasks (s : State) (q : Nat) (x : WorkQueue) : (s.setQueue q x).tasks = s.tasks := rfl
@[simp] theorem State.setQueue_tiles (s : State) (q : Nat) (x : WorkQueue) : (s.setQueue q x).tiles = s.tiles := rfl
@[simp] theorem State.setQueue_mem (s : State) (q : Nat) (x : WorkQueue) : (s.setQueue q x).mem = s.mem := rfl
@[simp] theorem State.setQueue_homes (s : State) (q : Nat) (x : WorkQueue) : (s.setQueue q x).homes = s.homes := rfl
@[simp] theorem State.setQueue_qc (s : State) (q : Nat) (x : WorkQueue) : (s.setQueue q x).qc = s.qc := rfl
@[simp] theorem State.setQueue_pkts (s : State) (q : Nat) (x : WorkQueue) : (s.setQueue q x).pkts = s.pkts := rfl
@[simp] theorem State.setQueue_rsps (s : State) (q : Nat) (x : WorkQueue) : (s.setQueue q x).rsps = s.rsps := rfl
@[simp] theorem State.setQueue_flint (s : State) (q : Nat) (x : WorkQueue) : (s.setQueue q x).flint = s.flint := rfl
@[simp] theorem State.setQueue_mica (s : State) (q : Nat) (x : WorkQueue) : (s.setQueue q x).mica = s.mica := rfl
@[simp] theorem State.setQueue_xlat (s : State) (q : Nat) (x : WorkQueue) : (s.setQueue q x).xlat = s.xlat := rfl
@[simp] theorem State.setQueue_host (s : State) (q : Nat) (x : WorkQueue) : (s.setQueue q x).host = s.host := rfl
@[simp] theorem State.setQueue_fab (s : State) (q : Nat) (x : WorkQueue) : (s.setQueue q x).fab = s.fab := rfl
@[simp] theorem State.setQueue_pwr (s : State) (q : Nat) (x : WorkQueue) : (s.setQueue q x).pwr = s.pwr := rfl
@[simp] theorem State.setQueue_qry (s : State) (q : Nat) (x : WorkQueue) : (s.setQueue q x).qry = s.qry := rfl
@[simp] theorem State.setQueue_flt (s : State) (q : Nat) (x : WorkQueue) : (s.setQueue q x).flt = s.flt := rfl
@[simp] theorem State.setQueue_sent (s : State) (q : Nat) (x : WorkQueue) : (s.setQueue q x).sent = s.sent := rfl
@[simp] theorem State.setQueue_nextId (s : State) (q : Nat) (x : WorkQueue) : (s.setQueue q x).nextId = s.nextId := rfl
@[simp] theorem State.setQueue_free (s : State) (q : Nat) (x : WorkQueue) : (s.setQueue q x).free = s.free := rfl

/-! ## setTask -/

@[simp] theorem State.setTask_pending (s : State) (k : Nat) (x : Task) : (s.setTask k x).pending = s.pending := rfl
@[simp] theorem State.setTask_blk (s : State) (k : Nat) (x : Task) : (s.setTask k x).blk = s.blk := rfl
@[simp] theorem State.setTask_own (s : State) (k : Nat) (x : Task) : (s.setTask k x).own = s.own := rfl
@[simp] theorem State.setTask_strata (s : State) (k : Nat) (x : Task) : (s.setTask k x).strata = s.strata := rfl
@[simp] theorem State.setTask_adm (s : State) (k : Nat) (x : Task) : (s.setTask k x).adm = s.adm := rfl
@[simp] theorem State.setTask_ctxs (s : State) (k : Nat) (x : Task) : (s.setTask k x).ctxs = s.ctxs := rfl
@[simp] theorem State.setTask_queues (s : State) (k : Nat) (x : Task) : (s.setTask k x).queues = s.queues := rfl
@[simp] theorem State.setTask_tiles (s : State) (k : Nat) (x : Task) : (s.setTask k x).tiles = s.tiles := rfl
@[simp] theorem State.setTask_mem (s : State) (k : Nat) (x : Task) : (s.setTask k x).mem = s.mem := rfl
@[simp] theorem State.setTask_homes (s : State) (k : Nat) (x : Task) : (s.setTask k x).homes = s.homes := rfl
@[simp] theorem State.setTask_qc (s : State) (k : Nat) (x : Task) : (s.setTask k x).qc = s.qc := rfl
@[simp] theorem State.setTask_pkts (s : State) (k : Nat) (x : Task) : (s.setTask k x).pkts = s.pkts := rfl
@[simp] theorem State.setTask_rsps (s : State) (k : Nat) (x : Task) : (s.setTask k x).rsps = s.rsps := rfl
@[simp] theorem State.setTask_flint (s : State) (k : Nat) (x : Task) : (s.setTask k x).flint = s.flint := rfl
@[simp] theorem State.setTask_mica (s : State) (k : Nat) (x : Task) : (s.setTask k x).mica = s.mica := rfl
@[simp] theorem State.setTask_xlat (s : State) (k : Nat) (x : Task) : (s.setTask k x).xlat = s.xlat := rfl
@[simp] theorem State.setTask_host (s : State) (k : Nat) (x : Task) : (s.setTask k x).host = s.host := rfl
@[simp] theorem State.setTask_fab (s : State) (k : Nat) (x : Task) : (s.setTask k x).fab = s.fab := rfl
@[simp] theorem State.setTask_pwr (s : State) (k : Nat) (x : Task) : (s.setTask k x).pwr = s.pwr := rfl
@[simp] theorem State.setTask_qry (s : State) (k : Nat) (x : Task) : (s.setTask k x).qry = s.qry := rfl
@[simp] theorem State.setTask_flt (s : State) (k : Nat) (x : Task) : (s.setTask k x).flt = s.flt := rfl
@[simp] theorem State.setTask_sent (s : State) (k : Nat) (x : Task) : (s.setTask k x).sent = s.sent := rfl
@[simp] theorem State.setTask_nextId (s : State) (k : Nat) (x : Task) : (s.setTask k x).nextId = s.nextId := rfl
@[simp] theorem State.setTask_free (s : State) (k : Nat) (x : Task) : (s.setTask k x).free = s.free := rfl

/-! ## setCtx -/

@[simp] theorem State.setCtx_pending (s : State) (c : Nat) (x : Context) : (s.setCtx c x).pending = s.pending := rfl
@[simp] theorem State.setCtx_blk (s : State) (c : Nat) (x : Context) : (s.setCtx c x).blk = s.blk := rfl
@[simp] theorem State.setCtx_own (s : State) (c : Nat) (x : Context) : (s.setCtx c x).own = s.own := rfl
@[simp] theorem State.setCtx_strata (s : State) (c : Nat) (x : Context) : (s.setCtx c x).strata = s.strata := rfl
@[simp] theorem State.setCtx_adm (s : State) (c : Nat) (x : Context) : (s.setCtx c x).adm = s.adm := rfl
@[simp] theorem State.setCtx_queues (s : State) (c : Nat) (x : Context) : (s.setCtx c x).queues = s.queues := rfl
@[simp] theorem State.setCtx_tasks (s : State) (c : Nat) (x : Context) : (s.setCtx c x).tasks = s.tasks := rfl
@[simp] theorem State.setCtx_tiles (s : State) (c : Nat) (x : Context) : (s.setCtx c x).tiles = s.tiles := rfl
@[simp] theorem State.setCtx_mem (s : State) (c : Nat) (x : Context) : (s.setCtx c x).mem = s.mem := rfl
@[simp] theorem State.setCtx_homes (s : State) (c : Nat) (x : Context) : (s.setCtx c x).homes = s.homes := rfl
@[simp] theorem State.setCtx_qc (s : State) (c : Nat) (x : Context) : (s.setCtx c x).qc = s.qc := rfl
@[simp] theorem State.setCtx_pkts (s : State) (c : Nat) (x : Context) : (s.setCtx c x).pkts = s.pkts := rfl
@[simp] theorem State.setCtx_rsps (s : State) (c : Nat) (x : Context) : (s.setCtx c x).rsps = s.rsps := rfl
@[simp] theorem State.setCtx_flint (s : State) (c : Nat) (x : Context) : (s.setCtx c x).flint = s.flint := rfl
@[simp] theorem State.setCtx_mica (s : State) (c : Nat) (x : Context) : (s.setCtx c x).mica = s.mica := rfl
@[simp] theorem State.setCtx_xlat (s : State) (c : Nat) (x : Context) : (s.setCtx c x).xlat = s.xlat := rfl
@[simp] theorem State.setCtx_host (s : State) (c : Nat) (x : Context) : (s.setCtx c x).host = s.host := rfl
@[simp] theorem State.setCtx_fab (s : State) (c : Nat) (x : Context) : (s.setCtx c x).fab = s.fab := rfl
@[simp] theorem State.setCtx_pwr (s : State) (c : Nat) (x : Context) : (s.setCtx c x).pwr = s.pwr := rfl
@[simp] theorem State.setCtx_qry (s : State) (c : Nat) (x : Context) : (s.setCtx c x).qry = s.qry := rfl
@[simp] theorem State.setCtx_flt (s : State) (c : Nat) (x : Context) : (s.setCtx c x).flt = s.flt := rfl
@[simp] theorem State.setCtx_sent (s : State) (c : Nat) (x : Context) : (s.setCtx c x).sent = s.sent := rfl
@[simp] theorem State.setCtx_nextId (s : State) (c : Nat) (x : Context) : (s.setCtx c x).nextId = s.nextId := rfl
@[simp] theorem State.setCtx_free (s : State) (c : Nat) (x : Context) : (s.setCtx c x).free = s.free := rfl

/-! ## setObj -/

@[simp] theorem State.setObj_pending (s : State) (n : Nat) (o : Obj) : (s.setObj n o).pending = s.pending := rfl
@[simp] theorem State.setObj_blk (s : State) (n : Nat) (o : Obj) : (s.setObj n o).blk = s.blk := rfl
@[simp] theorem State.setObj_own (s : State) (n : Nat) (o : Obj) : (s.setObj n o).own = s.own := rfl
@[simp] theorem State.setObj_strata (s : State) (n : Nat) (o : Obj) : (s.setObj n o).strata = s.strata := rfl
@[simp] theorem State.setObj_adm (s : State) (n : Nat) (o : Obj) : (s.setObj n o).adm = s.adm := rfl
@[simp] theorem State.setObj_ctxs (s : State) (n : Nat) (o : Obj) : (s.setObj n o).ctxs = s.ctxs := rfl
@[simp] theorem State.setObj_queues (s : State) (n : Nat) (o : Obj) : (s.setObj n o).queues = s.queues := rfl
@[simp] theorem State.setObj_tasks (s : State) (n : Nat) (o : Obj) : (s.setObj n o).tasks = s.tasks := rfl
@[simp] theorem State.setObj_tiles (s : State) (n : Nat) (o : Obj) : (s.setObj n o).tiles = s.tiles := rfl
@[simp] theorem State.setObj_mem (s : State) (n : Nat) (o : Obj) : (s.setObj n o).mem = s.mem := rfl
@[simp] theorem State.setObj_homes (s : State) (n : Nat) (o : Obj) : (s.setObj n o).homes = s.homes := rfl
@[simp] theorem State.setObj_qc (s : State) (n : Nat) (o : Obj) : (s.setObj n o).qc = s.qc := rfl
@[simp] theorem State.setObj_pkts (s : State) (n : Nat) (o : Obj) : (s.setObj n o).pkts = s.pkts := rfl
@[simp] theorem State.setObj_rsps (s : State) (n : Nat) (o : Obj) : (s.setObj n o).rsps = s.rsps := rfl
@[simp] theorem State.setObj_mica (s : State) (n : Nat) (o : Obj) : (s.setObj n o).mica = s.mica := rfl
@[simp] theorem State.setObj_xlat (s : State) (n : Nat) (o : Obj) : (s.setObj n o).xlat = s.xlat := rfl
@[simp] theorem State.setObj_host (s : State) (n : Nat) (o : Obj) : (s.setObj n o).host = s.host := rfl
@[simp] theorem State.setObj_fab (s : State) (n : Nat) (o : Obj) : (s.setObj n o).fab = s.fab := rfl
@[simp] theorem State.setObj_pwr (s : State) (n : Nat) (o : Obj) : (s.setObj n o).pwr = s.pwr := rfl
@[simp] theorem State.setObj_qry (s : State) (n : Nat) (o : Obj) : (s.setObj n o).qry = s.qry := rfl
@[simp] theorem State.setObj_flt (s : State) (n : Nat) (o : Obj) : (s.setObj n o).flt = s.flt := rfl
@[simp] theorem State.setObj_sent (s : State) (n : Nat) (o : Obj) : (s.setObj n o).sent = s.sent := rfl
@[simp] theorem State.setObj_nextId (s : State) (n : Nat) (o : Obj) : (s.setObj n o).nextId = s.nextId := rfl
@[simp] theorem State.setObj_free (s : State) (n : Nat) (o : Obj) : (s.setObj n o).free = s.free := rfl

/-! ## capacityBit -/

@[simp] theorem State.capacityBit_pending (s : State) (b : Nat) : (s.capacityBit b).pending = s.pending := rfl
@[simp] theorem State.capacityBit_blk (s : State) (b : Nat) : (s.capacityBit b).blk = s.blk := rfl
@[simp] theorem State.capacityBit_own (s : State) (b : Nat) : (s.capacityBit b).own = s.own := rfl
@[simp] theorem State.capacityBit_strata (s : State) (b : Nat) : (s.capacityBit b).strata = s.strata := rfl
@[simp] theorem State.capacityBit_adm (s : State) (b : Nat) : (s.capacityBit b).adm = s.adm := rfl
@[simp] theorem State.capacityBit_ctxs (s : State) (b : Nat) : (s.capacityBit b).ctxs = s.ctxs := rfl
@[simp] theorem State.capacityBit_queues (s : State) (b : Nat) : (s.capacityBit b).queues = s.queues := rfl
@[simp] theorem State.capacityBit_tasks (s : State) (b : Nat) : (s.capacityBit b).tasks = s.tasks := rfl
@[simp] theorem State.capacityBit_tiles (s : State) (b : Nat) : (s.capacityBit b).tiles = s.tiles := rfl
@[simp] theorem State.capacityBit_mem (s : State) (b : Nat) : (s.capacityBit b).mem = s.mem := rfl
@[simp] theorem State.capacityBit_homes (s : State) (b : Nat) : (s.capacityBit b).homes = s.homes := rfl
@[simp] theorem State.capacityBit_qc (s : State) (b : Nat) : (s.capacityBit b).qc = s.qc := rfl
@[simp] theorem State.capacityBit_pkts (s : State) (b : Nat) : (s.capacityBit b).pkts = s.pkts := rfl
@[simp] theorem State.capacityBit_rsps (s : State) (b : Nat) : (s.capacityBit b).rsps = s.rsps := rfl
@[simp] theorem State.capacityBit_flint (s : State) (b : Nat) : (s.capacityBit b).flint = s.flint := rfl
@[simp] theorem State.capacityBit_mica (s : State) (b : Nat) : (s.capacityBit b).mica = s.mica := rfl
@[simp] theorem State.capacityBit_xlat (s : State) (b : Nat) : (s.capacityBit b).xlat = s.xlat := rfl
@[simp] theorem State.capacityBit_host (s : State) (b : Nat) : (s.capacityBit b).host = s.host := rfl
@[simp] theorem State.capacityBit_fab (s : State) (b : Nat) : (s.capacityBit b).fab = s.fab := rfl
@[simp] theorem State.capacityBit_pwr (s : State) (b : Nat) : (s.capacityBit b).pwr = s.pwr := rfl
@[simp] theorem State.capacityBit_qry (s : State) (b : Nat) : (s.capacityBit b).qry = s.qry := rfl
@[simp] theorem State.capacityBit_sent (s : State) (b : Nat) : (s.capacityBit b).sent = s.sent := rfl
@[simp] theorem State.capacityBit_nextId (s : State) (b : Nat) : (s.capacityBit b).nextId = s.nextId := rfl
@[simp] theorem State.capacityBit_free (s : State) (b : Nat) : (s.capacityBit b).free = s.free := rfl

/-! ## emit -/

@[simp] theorem State.emit_pending (s : State) (x : Sent) : (s.emit x).pending = s.pending := rfl
@[simp] theorem State.emit_blk (s : State) (x : Sent) : (s.emit x).blk = s.blk := rfl
@[simp] theorem State.emit_own (s : State) (x : Sent) : (s.emit x).own = s.own := rfl
@[simp] theorem State.emit_strata (s : State) (x : Sent) : (s.emit x).strata = s.strata := rfl
@[simp] theorem State.emit_adm (s : State) (x : Sent) : (s.emit x).adm = s.adm := rfl
@[simp] theorem State.emit_ctxs (s : State) (x : Sent) : (s.emit x).ctxs = s.ctxs := rfl
@[simp] theorem State.emit_queues (s : State) (x : Sent) : (s.emit x).queues = s.queues := rfl
@[simp] theorem State.emit_tasks (s : State) (x : Sent) : (s.emit x).tasks = s.tasks := rfl
@[simp] theorem State.emit_tiles (s : State) (x : Sent) : (s.emit x).tiles = s.tiles := rfl
@[simp] theorem State.emit_mem (s : State) (x : Sent) : (s.emit x).mem = s.mem := rfl
@[simp] theorem State.emit_homes (s : State) (x : Sent) : (s.emit x).homes = s.homes := rfl
@[simp] theorem State.emit_qc (s : State) (x : Sent) : (s.emit x).qc = s.qc := rfl
@[simp] theorem State.emit_pkts (s : State) (x : Sent) : (s.emit x).pkts = s.pkts := rfl
@[simp] theorem State.emit_rsps (s : State) (x : Sent) : (s.emit x).rsps = s.rsps := rfl
@[simp] theorem State.emit_flint (s : State) (x : Sent) : (s.emit x).flint = s.flint := rfl
@[simp] theorem State.emit_mica (s : State) (x : Sent) : (s.emit x).mica = s.mica := rfl
@[simp] theorem State.emit_xlat (s : State) (x : Sent) : (s.emit x).xlat = s.xlat := rfl
@[simp] theorem State.emit_host (s : State) (x : Sent) : (s.emit x).host = s.host := rfl
@[simp] theorem State.emit_fab (s : State) (x : Sent) : (s.emit x).fab = s.fab := rfl
@[simp] theorem State.emit_pwr (s : State) (x : Sent) : (s.emit x).pwr = s.pwr := rfl
@[simp] theorem State.emit_qry (s : State) (x : Sent) : (s.emit x).qry = s.qry := rfl
@[simp] theorem State.emit_flt (s : State) (x : Sent) : (s.emit x).flt = s.flt := rfl
@[simp] theorem State.emit_nextId (s : State) (x : Sent) : (s.emit x).nextId = s.nextId := rfl
@[simp] theorem State.emit_free (s : State) (x : Sent) : (s.emit x).free = s.free := rfl

/-! ## used -/

@[simp] theorem State.used_pending (s : State) : (s.used).pending = s.pending := rfl
@[simp] theorem State.used_blk (s : State) : (s.used).blk = s.blk := rfl
@[simp] theorem State.used_own (s : State) : (s.used).own = s.own := rfl
@[simp] theorem State.used_strata (s : State) : (s.used).strata = s.strata := rfl
@[simp] theorem State.used_adm (s : State) : (s.used).adm = s.adm := rfl
@[simp] theorem State.used_ctxs (s : State) : (s.used).ctxs = s.ctxs := rfl
@[simp] theorem State.used_queues (s : State) : (s.used).queues = s.queues := rfl
@[simp] theorem State.used_tasks (s : State) : (s.used).tasks = s.tasks := rfl
@[simp] theorem State.used_tiles (s : State) : (s.used).tiles = s.tiles := rfl
@[simp] theorem State.used_mem (s : State) : (s.used).mem = s.mem := rfl
@[simp] theorem State.used_homes (s : State) : (s.used).homes = s.homes := rfl
@[simp] theorem State.used_qc (s : State) : (s.used).qc = s.qc := rfl
@[simp] theorem State.used_pkts (s : State) : (s.used).pkts = s.pkts := rfl
@[simp] theorem State.used_rsps (s : State) : (s.used).rsps = s.rsps := rfl
@[simp] theorem State.used_flint (s : State) : (s.used).flint = s.flint := rfl
@[simp] theorem State.used_mica (s : State) : (s.used).mica = s.mica := rfl
@[simp] theorem State.used_xlat (s : State) : (s.used).xlat = s.xlat := rfl
@[simp] theorem State.used_host (s : State) : (s.used).host = s.host := rfl
@[simp] theorem State.used_fab (s : State) : (s.used).fab = s.fab := rfl
@[simp] theorem State.used_pwr (s : State) : (s.used).pwr = s.pwr := rfl
@[simp] theorem State.used_qry (s : State) : (s.used).qry = s.qry := rfl
@[simp] theorem State.used_flt (s : State) : (s.used).flt = s.flt := rfl
@[simp] theorem State.used_sent (s : State) : (s.used).sent = s.sent := rfl
@[simp] theorem State.used_nextId (s : State) : (s.used).nextId = s.nextId := rfl

/-! ## bump -/

@[simp] theorem State.bump_pending (s : State) : (s.bump).pending = s.pending := rfl
@[simp] theorem State.bump_blk (s : State) : (s.bump).blk = s.blk := rfl
@[simp] theorem State.bump_own (s : State) : (s.bump).own = s.own := rfl
@[simp] theorem State.bump_strata (s : State) : (s.bump).strata = s.strata := rfl
@[simp] theorem State.bump_adm (s : State) : (s.bump).adm = s.adm := rfl
@[simp] theorem State.bump_ctxs (s : State) : (s.bump).ctxs = s.ctxs := rfl
@[simp] theorem State.bump_queues (s : State) : (s.bump).queues = s.queues := rfl
@[simp] theorem State.bump_tasks (s : State) : (s.bump).tasks = s.tasks := rfl
@[simp] theorem State.bump_tiles (s : State) : (s.bump).tiles = s.tiles := rfl
@[simp] theorem State.bump_mem (s : State) : (s.bump).mem = s.mem := rfl
@[simp] theorem State.bump_homes (s : State) : (s.bump).homes = s.homes := rfl
@[simp] theorem State.bump_qc (s : State) : (s.bump).qc = s.qc := rfl
@[simp] theorem State.bump_pkts (s : State) : (s.bump).pkts = s.pkts := rfl
@[simp] theorem State.bump_rsps (s : State) : (s.bump).rsps = s.rsps := rfl
@[simp] theorem State.bump_flint (s : State) : (s.bump).flint = s.flint := rfl
@[simp] theorem State.bump_mica (s : State) : (s.bump).mica = s.mica := rfl
@[simp] theorem State.bump_xlat (s : State) : (s.bump).xlat = s.xlat := rfl
@[simp] theorem State.bump_host (s : State) : (s.bump).host = s.host := rfl
@[simp] theorem State.bump_fab (s : State) : (s.bump).fab = s.fab := rfl
@[simp] theorem State.bump_pwr (s : State) : (s.bump).pwr = s.pwr := rfl
@[simp] theorem State.bump_qry (s : State) : (s.bump).qry = s.qry := rfl
@[simp] theorem State.bump_flt (s : State) : (s.bump).flt = s.flt := rfl
@[simp] theorem State.bump_sent (s : State) : (s.bump).sent = s.sent := rfl
@[simp] theorem State.bump_free (s : State) : (s.bump).free = s.free := rfl

/-! ## retireTo -/

@[simp] theorem State.retireTo_pending (s : State) (t pc : Nat) : (s.retireTo t pc).pending = s.pending := rfl
@[simp] theorem State.retireTo_blk (s : State) (t pc : Nat) : (s.retireTo t pc).blk = s.blk := rfl
@[simp] theorem State.retireTo_own (s : State) (t pc : Nat) : (s.retireTo t pc).own = s.own := rfl
@[simp] theorem State.retireTo_strata (s : State) (t pc : Nat) : (s.retireTo t pc).strata = s.strata := rfl
@[simp] theorem State.retireTo_adm (s : State) (t pc : Nat) : (s.retireTo t pc).adm = s.adm := rfl
@[simp] theorem State.retireTo_ctxs (s : State) (t pc : Nat) : (s.retireTo t pc).ctxs = s.ctxs := rfl
@[simp] theorem State.retireTo_queues (s : State) (t pc : Nat) : (s.retireTo t pc).queues = s.queues := rfl
@[simp] theorem State.retireTo_tasks (s : State) (t pc : Nat) : (s.retireTo t pc).tasks = s.tasks := rfl
@[simp] theorem State.retireTo_mem (s : State) (t pc : Nat) : (s.retireTo t pc).mem = s.mem := rfl
@[simp] theorem State.retireTo_homes (s : State) (t pc : Nat) : (s.retireTo t pc).homes = s.homes := rfl
@[simp] theorem State.retireTo_qc (s : State) (t pc : Nat) : (s.retireTo t pc).qc = s.qc := rfl
@[simp] theorem State.retireTo_pkts (s : State) (t pc : Nat) : (s.retireTo t pc).pkts = s.pkts := rfl
@[simp] theorem State.retireTo_rsps (s : State) (t pc : Nat) : (s.retireTo t pc).rsps = s.rsps := rfl
@[simp] theorem State.retireTo_flint (s : State) (t pc : Nat) : (s.retireTo t pc).flint = s.flint := rfl
@[simp] theorem State.retireTo_mica (s : State) (t pc : Nat) : (s.retireTo t pc).mica = s.mica := rfl
@[simp] theorem State.retireTo_xlat (s : State) (t pc : Nat) : (s.retireTo t pc).xlat = s.xlat := rfl
@[simp] theorem State.retireTo_host (s : State) (t pc : Nat) : (s.retireTo t pc).host = s.host := rfl
@[simp] theorem State.retireTo_fab (s : State) (t pc : Nat) : (s.retireTo t pc).fab = s.fab := rfl
@[simp] theorem State.retireTo_pwr (s : State) (t pc : Nat) : (s.retireTo t pc).pwr = s.pwr := rfl
@[simp] theorem State.retireTo_qry (s : State) (t pc : Nat) : (s.retireTo t pc).qry = s.qry := rfl
@[simp] theorem State.retireTo_flt (s : State) (t pc : Nat) : (s.retireTo t pc).flt = s.flt := rfl
@[simp] theorem State.retireTo_sent (s : State) (t pc : Nat) : (s.retireTo t pc).sent = s.sent := rfl
@[simp] theorem State.retireTo_nextId (s : State) (t pc : Nat) : (s.retireTo t pc).nextId = s.nextId := rfl

/-! ## retire -/

@[simp] theorem State.retire_pending (s : State) (t : Nat) (w : Bool) : (s.retire t w).pending = s.pending := rfl
@[simp] theorem State.retire_blk (s : State) (t : Nat) (w : Bool) : (s.retire t w).blk = s.blk := rfl
@[simp] theorem State.retire_own (s : State) (t : Nat) (w : Bool) : (s.retire t w).own = s.own := rfl
@[simp] theorem State.retire_strata (s : State) (t : Nat) (w : Bool) : (s.retire t w).strata = s.strata := rfl
@[simp] theorem State.retire_adm (s : State) (t : Nat) (w : Bool) : (s.retire t w).adm = s.adm := rfl
@[simp] theorem State.retire_ctxs (s : State) (t : Nat) (w : Bool) : (s.retire t w).ctxs = s.ctxs := rfl
@[simp] theorem State.retire_queues (s : State) (t : Nat) (w : Bool) : (s.retire t w).queues = s.queues := rfl
@[simp] theorem State.retire_tasks (s : State) (t : Nat) (w : Bool) : (s.retire t w).tasks = s.tasks := rfl
@[simp] theorem State.retire_mem (s : State) (t : Nat) (w : Bool) : (s.retire t w).mem = s.mem := rfl
@[simp] theorem State.retire_homes (s : State) (t : Nat) (w : Bool) : (s.retire t w).homes = s.homes := rfl
@[simp] theorem State.retire_qc (s : State) (t : Nat) (w : Bool) : (s.retire t w).qc = s.qc := rfl
@[simp] theorem State.retire_pkts (s : State) (t : Nat) (w : Bool) : (s.retire t w).pkts = s.pkts := rfl
@[simp] theorem State.retire_rsps (s : State) (t : Nat) (w : Bool) : (s.retire t w).rsps = s.rsps := rfl
@[simp] theorem State.retire_flint (s : State) (t : Nat) (w : Bool) : (s.retire t w).flint = s.flint := rfl
@[simp] theorem State.retire_mica (s : State) (t : Nat) (w : Bool) : (s.retire t w).mica = s.mica := rfl
@[simp] theorem State.retire_xlat (s : State) (t : Nat) (w : Bool) : (s.retire t w).xlat = s.xlat := rfl
@[simp] theorem State.retire_host (s : State) (t : Nat) (w : Bool) : (s.retire t w).host = s.host := rfl
@[simp] theorem State.retire_fab (s : State) (t : Nat) (w : Bool) : (s.retire t w).fab = s.fab := rfl
@[simp] theorem State.retire_pwr (s : State) (t : Nat) (w : Bool) : (s.retire t w).pwr = s.pwr := rfl
@[simp] theorem State.retire_qry (s : State) (t : Nat) (w : Bool) : (s.retire t w).qry = s.qry := rfl
@[simp] theorem State.retire_flt (s : State) (t : Nat) (w : Bool) : (s.retire t w).flt = s.flt := rfl
@[simp] theorem State.retire_sent (s : State) (t : Nat) (w : Bool) : (s.retire t w).sent = s.sent := rfl
@[simp] theorem State.retire_nextId (s : State) (t : Nat) (w : Bool) : (s.retire t w).nextId = s.nextId := rfl

/-! ## setG -/

@[simp] theorem Tile.setG_role (x : Tile) (r : Reg) (v : Word) (p : Bool) : (x.setG r v p).role = x.role := by
  unfold Tile.setG Tile.markPoison Tile.setStat
  repeat (first | rfl | split)
@[simp] theorem Tile.setG_run (x : Tile) (r : Reg) (v : Word) (p : Bool) : (x.setG r v p).run = x.run := by
  unfold Tile.setG Tile.markPoison Tile.setStat
  repeat (first | rfl | split)
@[simp] theorem Tile.setG_task (x : Tile) (r : Reg) (v : Word) (p : Bool) : (x.setG r v p).task = x.task := by
  unfold Tile.setG Tile.markPoison Tile.setStat
  repeat (first | rfl | split)
@[simp] theorem Tile.setG_logical (x : Tile) (r : Reg) (v : Word) (p : Bool) : (x.setG r v p).logical = x.logical := by
  unfold Tile.setG Tile.markPoison Tile.setStat
  repeat (first | rfl | split)
@[simp] theorem Tile.setG_isProtected (x : Tile) (r : Reg) (v : Word) (p : Bool) : (x.setG r v p).isProtected = x.isProtected := by
  unfold Tile.setG Tile.markPoison Tile.setStat
  repeat (first | rfl | split)
@[simp] theorem Tile.setG_v (x : Tile) (r : Reg) (v : Word) (p : Bool) : (x.setG r v p).v = x.v := by
  unfold Tile.setG Tile.markPoison Tile.setStat
  repeat (first | rfl | split)
@[simp] theorem Tile.setG_p (x : Tile) (r : Reg) (v : Word) (p : Bool) : (x.setG r v p).p = x.p := by
  unfold Tile.setG Tile.markPoison Tile.setStat
  repeat (first | rfl | split)
@[simp] theorem Tile.setG_vPoison (x : Tile) (r : Reg) (v : Word) (p : Bool) : (x.setG r v p).vPoison = x.vPoison := by
  unfold Tile.setG Tile.markPoison Tile.setStat
  repeat (first | rfl | split)
@[simp] theorem Tile.setG_pPoison (x : Tile) (r : Reg) (v : Word) (p : Bool) : (x.setG r v p).pPoison = x.pPoison := by
  unfold Tile.setG Tile.markPoison Tile.setStat
  repeat (first | rfl | split)
@[simp] theorem Tile.setG_accs (x : Tile) (r : Reg) (v : Word) (p : Bool) : (x.setG r v p).accs = x.accs := by
  unfold Tile.setG Tile.markPoison Tile.setStat
  repeat (first | rfl | split)
@[simp] theorem Tile.setG_pc (x : Tile) (r : Reg) (v : Word) (p : Bool) : (x.setG r v p).pc = x.pc := by
  unfold Tile.setG Tile.markPoison Tile.setStat
  repeat (first | rfl | split)
@[simp] theorem Tile.setG_gridFirst (x : Tile) (r : Reg) (v : Word) (p : Bool) : (x.setG r v p).gridFirst = x.gridFirst := by
  unfold Tile.setG Tile.markPoison Tile.setStat
  repeat (first | rfl | split)
@[simp] theorem Tile.setG_gridCount (x : Tile) (r : Reg) (v : Word) (p : Bool) : (x.setG r v p).gridCount = x.gridCount := by
  unfold Tile.setG Tile.markPoison Tile.setStat
  repeat (first | rfl | split)
@[simp] theorem Tile.setG_vein (x : Tile) (r : Reg) (v : Word) (p : Bool) : (x.setG r v p).vein = x.vein := by
  unfold Tile.setG Tile.markPoison Tile.setStat
  repeat (first | rfl | split)
@[simp] theorem Tile.setG_context (x : Tile) (r : Reg) (v : Word) (p : Bool) : (x.setG r v p).context = x.context := by
  unfold Tile.setG Tile.markPoison Tile.setStat
  repeat (first | rfl | split)
@[simp] theorem Tile.setG_args (x : Tile) (r : Reg) (v : Word) (p : Bool) : (x.setG r v p).args = x.args := by
  unfold Tile.setG Tile.markPoison Tile.setStat
  repeat (first | rfl | split)
@[simp] theorem Tile.setG_seed (x : Tile) (r : Reg) (v : Word) (p : Bool) : (x.setG r v p).seed = x.seed := by
  unfold Tile.setG Tile.markPoison Tile.setStat
  repeat (first | rfl | split)
@[simp] theorem Tile.setG_cycle (x : Tile) (r : Reg) (v : Word) (p : Bool) : (x.setG r v p).cycle = x.cycle := by
  unfold Tile.setG Tile.markPoison Tile.setStat
  repeat (first | rfl | split)
@[simp] theorem Tile.setG_unitCycles (x : Tile) (r : Reg) (v : Word) (p : Bool) : (x.setG r v p).unitCycles = x.unitCycles := by
  unfold Tile.setG Tile.markPoison Tile.setStat
  repeat (first | rfl | split)
@[simp] theorem Tile.setG_lfsr (x : Tile) (r : Reg) (v : Word) (p : Bool) : (x.setG r v p).lfsr = x.lfsr := by
  unfold Tile.setG Tile.markPoison Tile.setStat
  repeat (first | rfl | split)
@[simp] theorem Tile.setG_carry (x : Tile) (r : Reg) (v : Word) (p : Bool) : (x.setG r v p).carry = x.carry := by
  unfold Tile.setG Tile.markPoison Tile.setStat
  repeat (first | rfl | split)
@[simp] theorem Tile.setG_lc (x : Tile) (r : Reg) (v : Word) (p : Bool) : (x.setG r v p).lc = x.lc := by
  unfold Tile.setG Tile.markPoison Tile.setStat
  repeat (first | rfl | split)
@[simp] theorem Tile.setG_scratch (x : Tile) (r : Reg) (v : Word) (p : Bool) : (x.setG r v p).scratch = x.scratch := by
  unfold Tile.setG Tile.markPoison Tile.setStat
  repeat (first | rfl | split)
@[simp] theorem Tile.setG_poison (x : Tile) (r : Reg) (v : Word) (p : Bool) : (x.setG r v p).poison = x.poison := by
  unfold Tile.setG Tile.markPoison Tile.setStat
  repeat (first | rfl | split)
@[simp] theorem Tile.setG_full (x : Tile) (r : Reg) (v : Word) (p : Bool) : (x.setG r v p).full = x.full := by
  unfold Tile.setG Tile.markPoison Tile.setStat
  repeat (first | rfl | split)
@[simp] theorem Tile.setG_stable (x : Tile) (r : Reg) (v : Word) (p : Bool) : (x.setG r v p).stable = x.stable := by
  unfold Tile.setG Tile.markPoison Tile.setStat
  repeat (first | rfl | split)
@[simp] theorem Tile.setG_stableSrc (x : Tile) (r : Reg) (v : Word) (p : Bool) : (x.setG r v p).stableSrc = x.stableSrc := by
  unfold Tile.setG Tile.markPoison Tile.setStat
  repeat (first | rfl | split)
@[simp] theorem Tile.setG_reservation (x : Tile) (r : Reg) (v : Word) (p : Bool) : (x.setG r v p).reservation = x.reservation := by
  unfold Tile.setG Tile.markPoison Tile.setStat
  repeat (first | rfl | split)
@[simp] theorem Tile.setG_scFails (x : Tile) (r : Reg) (v : Word) (p : Bool) : (x.setG r v p).scFails = x.scFails := by
  unfold Tile.setG Tile.markPoison Tile.setStat
  repeat (first | rfl | split)
@[simp] theorem Tile.setG_scGranule (x : Tile) (r : Reg) (v : Word) (p : Bool) : (x.setG r v p).scGranule = x.scGranule := by
  unfold Tile.setG Tile.markPoison Tile.setStat
  repeat (first | rfl | split)
@[simp] theorem Tile.setG_held (x : Tile) (r : Reg) (v : Word) (p : Bool) : (x.setG r v p).held = x.held := by
  unfold Tile.setG Tile.markPoison Tile.setStat
  repeat (first | rfl | split)
@[simp] theorem Tile.setG_released (x : Tile) (r : Reg) (v : Word) (p : Bool) : (x.setG r v p).released = x.released := by
  unfold Tile.setG Tile.markPoison Tile.setStat
  repeat (first | rfl | split)
@[simp] theorem Tile.setG_fencePending (x : Tile) (r : Reg) (v : Word) (p : Bool) : (x.setG r v p).fencePending = x.fencePending := by
  unfold Tile.setG Tile.markPoison Tile.setStat
  repeat (first | rfl | split)
@[simp] theorem Tile.setG_fullFence (x : Tile) (r : Reg) (v : Word) (p : Bool) : (x.setG r v p).fullFence = x.fullFence := by
  unfold Tile.setG Tile.markPoison Tile.setStat
  repeat (first | rfl | split)
@[simp] theorem Tile.setG_observe (x : Tile) (r : Reg) (v : Word) (p : Bool) : (x.setG r v p).observe = x.observe := by
  unfold Tile.setG Tile.markPoison Tile.setStat
  repeat (first | rfl | split)
@[simp] theorem Tile.setG_lastFiles (x : Tile) (r : Reg) (v : Word) (p : Bool) : (x.setG r v p).lastFiles = x.lastFiles := by
  unfold Tile.setG Tile.markPoison Tile.setStat
  repeat (first | rfl | split)
@[simp] theorem Tile.setG_ckpt0 (x : Tile) (r : Reg) (v : Word) (p : Bool) : (x.setG r v p).ckpt0 = x.ckpt0 := by
  unfold Tile.setG Tile.markPoison Tile.setStat
  repeat (first | rfl | split)
@[simp] theorem Tile.setG_ckpt1 (x : Tile) (r : Reg) (v : Word) (p : Bool) : (x.setG r v p).ckpt1 = x.ckpt1 := by
  unfold Tile.setG Tile.markPoison Tile.setStat
  repeat (first | rfl | split)
@[simp] theorem Tile.setG_validHalf (x : Tile) (r : Reg) (v : Word) (p : Bool) : (x.setG r v p).validHalf = x.validHalf := by
  unfold Tile.setG Tile.markPoison Tile.setStat
  repeat (first | rfl | split)
@[simp] theorem Tile.setG_ckptLost (x : Tile) (r : Reg) (v : Word) (p : Bool) : (x.setG r v p).ckptLost = x.ckptLost := by
  unfold Tile.setG Tile.markPoison Tile.setStat
  repeat (first | rfl | split)
@[simp] theorem Tile.setG_afterCommit (x : Tile) (r : Reg) (v : Word) (p : Bool) : (x.setG r v p).afterCommit = x.afterCommit := by
  unfold Tile.setG Tile.markPoison Tile.setStat
  repeat (first | rfl | split)
@[simp] theorem Tile.setG_matQueue (x : Tile) (r : Reg) (v : Word) (p : Bool) : (x.setG r v p).matQueue = x.matQueue := by
  unfold Tile.setG Tile.markPoison Tile.setStat
  repeat (first | rfl | split)
@[simp] theorem Tile.setG_mmaRunning (x : Tile) (r : Reg) (v : Word) (p : Bool) : (x.setG r v p).mmaRunning = x.mmaRunning := by
  unfold Tile.setG Tile.markPoison Tile.setStat
  repeat (first | rfl | split)
@[simp] theorem Tile.setG_accOps (x : Tile) (r : Reg) (v : Word) (p : Bool) : (x.setG r v p).accOps = x.accOps := by
  unfold Tile.setG Tile.markPoison Tile.setStat
  repeat (first | rfl | split)
@[simp] theorem Tile.setG_moves (x : Tile) (r : Reg) (v : Word) (p : Bool) : (x.setG r v p).moves = x.moves := by
  unfold Tile.setG Tile.markPoison Tile.setStat
  repeat (first | rfl | split)
@[simp] theorem Tile.setG_micas (x : Tile) (r : Reg) (v : Word) (p : Bool) : (x.setG r v p).micas = x.micas := by
  unfold Tile.setG Tile.markPoison Tile.setStat
  repeat (first | rfl | split)
@[simp] theorem Tile.setG_pend (x : Tile) (r : Reg) (v : Word) (p : Bool) : (x.setG r v p).pend = x.pend := by
  unfold Tile.setG Tile.markPoison Tile.setStat
  repeat (first | rfl | split)
@[simp] theorem Tile.setG_dcache (x : Tile) (r : Reg) (v : Word) (p : Bool) : (x.setG r v p).dcache = x.dcache := by
  unfold Tile.setG Tile.markPoison Tile.setStat
  repeat (first | rfl | split)
@[simp] theorem Tile.setG_miss (x : Tile) (r : Reg) (v : Word) (p : Bool) : (x.setG r v p).miss = x.miss := by
  unfold Tile.setG Tile.markPoison Tile.setStat
  repeat (first | rfl | split)
@[simp] theorem Tile.setG_icache (x : Tile) (r : Reg) (v : Word) (p : Bool) : (x.setG r v p).icache = x.icache := by
  unfold Tile.setG Tile.markPoison Tile.setStat
  repeat (first | rfl | split)
@[simp] theorem Tile.setG_plru (x : Tile) (r : Reg) (v : Word) (p : Bool) : (x.setG r v p).plru = x.plru := by
  unfold Tile.setG Tile.markPoison Tile.setStat
  repeat (first | rfl | split)
@[simp] theorem Tile.setG_iplru (x : Tile) (r : Reg) (v : Word) (p : Bool) : (x.setG r v p).iplru = x.iplru := by
  unfold Tile.setG Tile.markPoison Tile.setStat
  repeat (first | rfl | split)
@[simp] theorem Tile.setG_ifetch (x : Tile) (r : Reg) (v : Word) (p : Bool) : (x.setG r v p).ifetch = x.ifetch := by
  unfold Tile.setG Tile.markPoison Tile.setStat
  repeat (first | rfl | split)
@[simp] theorem Tile.setG_dctl (x : Tile) (r : Reg) (v : Word) (p : Bool) : (x.setG r v p).dctl = x.dctl := by
  unfold Tile.setG Tile.markPoison Tile.setStat
  repeat (first | rfl | split)
@[simp] theorem Tile.setG_ictl (x : Tile) (r : Reg) (v : Word) (p : Bool) : (x.setG r v p).ictl = x.ictl := by
  unfold Tile.setG Tile.markPoison Tile.setStat
  repeat (first | rfl | split)
@[simp] theorem Tile.setG_gated (x : Tile) (r : Reg) (v : Word) (p : Bool) : (x.setG r v p).gated = x.gated := by
  unfold Tile.setG Tile.markPoison Tile.setStat
  repeat (first | rfl | split)
@[simp] theorem Tile.setG_waitSeq (x : Tile) (r : Reg) (v : Word) (p : Bool) : (x.setG r v p).waitSeq = x.waitSeq := by
  unfold Tile.setG Tile.markPoison Tile.setStat
  repeat (first | rfl | split)
@[simp] theorem Tile.setG_waitAddr (x : Tile) (r : Reg) (v : Word) (p : Bool) : (x.setG r v p).waitAddr = x.waitAddr := by
  unfold Tile.setG Tile.markPoison Tile.setStat
  repeat (first | rfl | split)
@[simp] theorem Tile.setG_owned (x : Tile) (r : Reg) (v : Word) (p : Bool) : (x.setG r v p).owned = x.owned := by
  unfold Tile.setG Tile.markPoison Tile.setStat
  repeat (first | rfl | split)
@[simp] theorem Tile.setG_segs (x : Tile) (r : Reg) (v : Word) (p : Bool) : (x.setG r v p).segs = x.segs := by
  unfold Tile.setG Tile.markPoison Tile.setStat
  repeat (first | rfl | split)
@[simp] theorem Tile.setG_retireAsked (x : Tile) (r : Reg) (v : Word) (p : Bool) : (x.setG r v p).retireAsked = x.retireAsked := by
  unfold Tile.setG Tile.markPoison Tile.setStat
  repeat (first | rfl | split)
@[simp] theorem Tile.setG_deficit (x : Tile) (r : Reg) (v : Word) (p : Bool) : (x.setG r v p).deficit = x.deficit := by
  unfold Tile.setG Tile.markPoison Tile.setStat
  repeat (first | rfl | split)
@[simp] theorem Tile.setG_rotateAsked (x : Tile) (r : Reg) (v : Word) (p : Bool) : (x.setG r v p).rotateAsked = x.rotateAsked := by
  unfold Tile.setG Tile.markPoison Tile.setStat
  repeat (first | rfl | split)
@[simp] theorem Tile.setG_healthy (x : Tile) (r : Reg) (v : Word) (p : Bool) : (x.setG r v p).healthy = x.healthy := by
  unfold Tile.setG Tile.markPoison Tile.setStat
  repeat (first | rfl | split)
@[simp] theorem Tile.setG_lastTest (x : Tile) (r : Reg) (v : Word) (p : Bool) : (x.setG r v p).lastTest = x.lastTest := by
  unfold Tile.setG Tile.markPoison Tile.setStat
  repeat (first | rfl | split)

/-! ## setV -/

@[simp] theorem Tile.setV_role (x : Tile) (r : VReg) (v : BitVec 2048) (p : Bool) : (x.setV r v p).role = x.role := by
  unfold Tile.setV Tile.markPoison Tile.setStat
  repeat (first | rfl | split)
@[simp] theorem Tile.setV_run (x : Tile) (r : VReg) (v : BitVec 2048) (p : Bool) : (x.setV r v p).run = x.run := by
  unfold Tile.setV Tile.markPoison Tile.setStat
  repeat (first | rfl | split)
@[simp] theorem Tile.setV_task (x : Tile) (r : VReg) (v : BitVec 2048) (p : Bool) : (x.setV r v p).task = x.task := by
  unfold Tile.setV Tile.markPoison Tile.setStat
  repeat (first | rfl | split)
@[simp] theorem Tile.setV_logical (x : Tile) (r : VReg) (v : BitVec 2048) (p : Bool) : (x.setV r v p).logical = x.logical := by
  unfold Tile.setV Tile.markPoison Tile.setStat
  repeat (first | rfl | split)
@[simp] theorem Tile.setV_isProtected (x : Tile) (r : VReg) (v : BitVec 2048) (p : Bool) : (x.setV r v p).isProtected = x.isProtected := by
  unfold Tile.setV Tile.markPoison Tile.setStat
  repeat (first | rfl | split)
@[simp] theorem Tile.setV_g (x : Tile) (r : VReg) (v : BitVec 2048) (p : Bool) : (x.setV r v p).g = x.g := by
  unfold Tile.setV Tile.markPoison Tile.setStat
  repeat (first | rfl | split)
@[simp] theorem Tile.setV_p (x : Tile) (r : VReg) (v : BitVec 2048) (p : Bool) : (x.setV r v p).p = x.p := by
  unfold Tile.setV Tile.markPoison Tile.setStat
  repeat (first | rfl | split)
@[simp] theorem Tile.setV_gPoison (x : Tile) (r : VReg) (v : BitVec 2048) (p : Bool) : (x.setV r v p).gPoison = x.gPoison := by
  unfold Tile.setV Tile.markPoison Tile.setStat
  repeat (first | rfl | split)
@[simp] theorem Tile.setV_pPoison (x : Tile) (r : VReg) (v : BitVec 2048) (p : Bool) : (x.setV r v p).pPoison = x.pPoison := by
  unfold Tile.setV Tile.markPoison Tile.setStat
  repeat (first | rfl | split)
@[simp] theorem Tile.setV_accs (x : Tile) (r : VReg) (v : BitVec 2048) (p : Bool) : (x.setV r v p).accs = x.accs := by
  unfold Tile.setV Tile.markPoison Tile.setStat
  repeat (first | rfl | split)
@[simp] theorem Tile.setV_pc (x : Tile) (r : VReg) (v : BitVec 2048) (p : Bool) : (x.setV r v p).pc = x.pc := by
  unfold Tile.setV Tile.markPoison Tile.setStat
  repeat (first | rfl | split)
@[simp] theorem Tile.setV_gridFirst (x : Tile) (r : VReg) (v : BitVec 2048) (p : Bool) : (x.setV r v p).gridFirst = x.gridFirst := by
  unfold Tile.setV Tile.markPoison Tile.setStat
  repeat (first | rfl | split)
@[simp] theorem Tile.setV_gridCount (x : Tile) (r : VReg) (v : BitVec 2048) (p : Bool) : (x.setV r v p).gridCount = x.gridCount := by
  unfold Tile.setV Tile.markPoison Tile.setStat
  repeat (first | rfl | split)
@[simp] theorem Tile.setV_vein (x : Tile) (r : VReg) (v : BitVec 2048) (p : Bool) : (x.setV r v p).vein = x.vein := by
  unfold Tile.setV Tile.markPoison Tile.setStat
  repeat (first | rfl | split)
@[simp] theorem Tile.setV_context (x : Tile) (r : VReg) (v : BitVec 2048) (p : Bool) : (x.setV r v p).context = x.context := by
  unfold Tile.setV Tile.markPoison Tile.setStat
  repeat (first | rfl | split)
@[simp] theorem Tile.setV_args (x : Tile) (r : VReg) (v : BitVec 2048) (p : Bool) : (x.setV r v p).args = x.args := by
  unfold Tile.setV Tile.markPoison Tile.setStat
  repeat (first | rfl | split)
@[simp] theorem Tile.setV_seed (x : Tile) (r : VReg) (v : BitVec 2048) (p : Bool) : (x.setV r v p).seed = x.seed := by
  unfold Tile.setV Tile.markPoison Tile.setStat
  repeat (first | rfl | split)
@[simp] theorem Tile.setV_cycle (x : Tile) (r : VReg) (v : BitVec 2048) (p : Bool) : (x.setV r v p).cycle = x.cycle := by
  unfold Tile.setV Tile.markPoison Tile.setStat
  repeat (first | rfl | split)
@[simp] theorem Tile.setV_unitCycles (x : Tile) (r : VReg) (v : BitVec 2048) (p : Bool) : (x.setV r v p).unitCycles = x.unitCycles := by
  unfold Tile.setV Tile.markPoison Tile.setStat
  repeat (first | rfl | split)
@[simp] theorem Tile.setV_lfsr (x : Tile) (r : VReg) (v : BitVec 2048) (p : Bool) : (x.setV r v p).lfsr = x.lfsr := by
  unfold Tile.setV Tile.markPoison Tile.setStat
  repeat (first | rfl | split)
@[simp] theorem Tile.setV_carry (x : Tile) (r : VReg) (v : BitVec 2048) (p : Bool) : (x.setV r v p).carry = x.carry := by
  unfold Tile.setV Tile.markPoison Tile.setStat
  repeat (first | rfl | split)
@[simp] theorem Tile.setV_lc (x : Tile) (r : VReg) (v : BitVec 2048) (p : Bool) : (x.setV r v p).lc = x.lc := by
  unfold Tile.setV Tile.markPoison Tile.setStat
  repeat (first | rfl | split)
@[simp] theorem Tile.setV_scratch (x : Tile) (r : VReg) (v : BitVec 2048) (p : Bool) : (x.setV r v p).scratch = x.scratch := by
  unfold Tile.setV Tile.markPoison Tile.setStat
  repeat (first | rfl | split)
@[simp] theorem Tile.setV_poison (x : Tile) (r : VReg) (v : BitVec 2048) (p : Bool) : (x.setV r v p).poison = x.poison := by
  unfold Tile.setV Tile.markPoison Tile.setStat
  repeat (first | rfl | split)
@[simp] theorem Tile.setV_full (x : Tile) (r : VReg) (v : BitVec 2048) (p : Bool) : (x.setV r v p).full = x.full := by
  unfold Tile.setV Tile.markPoison Tile.setStat
  repeat (first | rfl | split)
@[simp] theorem Tile.setV_stable (x : Tile) (r : VReg) (v : BitVec 2048) (p : Bool) : (x.setV r v p).stable = x.stable := by
  unfold Tile.setV Tile.markPoison Tile.setStat
  repeat (first | rfl | split)
@[simp] theorem Tile.setV_stableSrc (x : Tile) (r : VReg) (v : BitVec 2048) (p : Bool) : (x.setV r v p).stableSrc = x.stableSrc := by
  unfold Tile.setV Tile.markPoison Tile.setStat
  repeat (first | rfl | split)
@[simp] theorem Tile.setV_reservation (x : Tile) (r : VReg) (v : BitVec 2048) (p : Bool) : (x.setV r v p).reservation = x.reservation := by
  unfold Tile.setV Tile.markPoison Tile.setStat
  repeat (first | rfl | split)
@[simp] theorem Tile.setV_scFails (x : Tile) (r : VReg) (v : BitVec 2048) (p : Bool) : (x.setV r v p).scFails = x.scFails := by
  unfold Tile.setV Tile.markPoison Tile.setStat
  repeat (first | rfl | split)
@[simp] theorem Tile.setV_scGranule (x : Tile) (r : VReg) (v : BitVec 2048) (p : Bool) : (x.setV r v p).scGranule = x.scGranule := by
  unfold Tile.setV Tile.markPoison Tile.setStat
  repeat (first | rfl | split)
@[simp] theorem Tile.setV_held (x : Tile) (r : VReg) (v : BitVec 2048) (p : Bool) : (x.setV r v p).held = x.held := by
  unfold Tile.setV Tile.markPoison Tile.setStat
  repeat (first | rfl | split)
@[simp] theorem Tile.setV_released (x : Tile) (r : VReg) (v : BitVec 2048) (p : Bool) : (x.setV r v p).released = x.released := by
  unfold Tile.setV Tile.markPoison Tile.setStat
  repeat (first | rfl | split)
@[simp] theorem Tile.setV_fencePending (x : Tile) (r : VReg) (v : BitVec 2048) (p : Bool) : (x.setV r v p).fencePending = x.fencePending := by
  unfold Tile.setV Tile.markPoison Tile.setStat
  repeat (first | rfl | split)
@[simp] theorem Tile.setV_fullFence (x : Tile) (r : VReg) (v : BitVec 2048) (p : Bool) : (x.setV r v p).fullFence = x.fullFence := by
  unfold Tile.setV Tile.markPoison Tile.setStat
  repeat (first | rfl | split)
@[simp] theorem Tile.setV_observe (x : Tile) (r : VReg) (v : BitVec 2048) (p : Bool) : (x.setV r v p).observe = x.observe := by
  unfold Tile.setV Tile.markPoison Tile.setStat
  repeat (first | rfl | split)
@[simp] theorem Tile.setV_lastFiles (x : Tile) (r : VReg) (v : BitVec 2048) (p : Bool) : (x.setV r v p).lastFiles = x.lastFiles := by
  unfold Tile.setV Tile.markPoison Tile.setStat
  repeat (first | rfl | split)
@[simp] theorem Tile.setV_ckpt0 (x : Tile) (r : VReg) (v : BitVec 2048) (p : Bool) : (x.setV r v p).ckpt0 = x.ckpt0 := by
  unfold Tile.setV Tile.markPoison Tile.setStat
  repeat (first | rfl | split)
@[simp] theorem Tile.setV_ckpt1 (x : Tile) (r : VReg) (v : BitVec 2048) (p : Bool) : (x.setV r v p).ckpt1 = x.ckpt1 := by
  unfold Tile.setV Tile.markPoison Tile.setStat
  repeat (first | rfl | split)
@[simp] theorem Tile.setV_validHalf (x : Tile) (r : VReg) (v : BitVec 2048) (p : Bool) : (x.setV r v p).validHalf = x.validHalf := by
  unfold Tile.setV Tile.markPoison Tile.setStat
  repeat (first | rfl | split)
@[simp] theorem Tile.setV_ckptLost (x : Tile) (r : VReg) (v : BitVec 2048) (p : Bool) : (x.setV r v p).ckptLost = x.ckptLost := by
  unfold Tile.setV Tile.markPoison Tile.setStat
  repeat (first | rfl | split)
@[simp] theorem Tile.setV_afterCommit (x : Tile) (r : VReg) (v : BitVec 2048) (p : Bool) : (x.setV r v p).afterCommit = x.afterCommit := by
  unfold Tile.setV Tile.markPoison Tile.setStat
  repeat (first | rfl | split)
@[simp] theorem Tile.setV_matQueue (x : Tile) (r : VReg) (v : BitVec 2048) (p : Bool) : (x.setV r v p).matQueue = x.matQueue := by
  unfold Tile.setV Tile.markPoison Tile.setStat
  repeat (first | rfl | split)
@[simp] theorem Tile.setV_mmaRunning (x : Tile) (r : VReg) (v : BitVec 2048) (p : Bool) : (x.setV r v p).mmaRunning = x.mmaRunning := by
  unfold Tile.setV Tile.markPoison Tile.setStat
  repeat (first | rfl | split)
@[simp] theorem Tile.setV_accOps (x : Tile) (r : VReg) (v : BitVec 2048) (p : Bool) : (x.setV r v p).accOps = x.accOps := by
  unfold Tile.setV Tile.markPoison Tile.setStat
  repeat (first | rfl | split)
@[simp] theorem Tile.setV_moves (x : Tile) (r : VReg) (v : BitVec 2048) (p : Bool) : (x.setV r v p).moves = x.moves := by
  unfold Tile.setV Tile.markPoison Tile.setStat
  repeat (first | rfl | split)
@[simp] theorem Tile.setV_micas (x : Tile) (r : VReg) (v : BitVec 2048) (p : Bool) : (x.setV r v p).micas = x.micas := by
  unfold Tile.setV Tile.markPoison Tile.setStat
  repeat (first | rfl | split)
@[simp] theorem Tile.setV_pend (x : Tile) (r : VReg) (v : BitVec 2048) (p : Bool) : (x.setV r v p).pend = x.pend := by
  unfold Tile.setV Tile.markPoison Tile.setStat
  repeat (first | rfl | split)
@[simp] theorem Tile.setV_dcache (x : Tile) (r : VReg) (v : BitVec 2048) (p : Bool) : (x.setV r v p).dcache = x.dcache := by
  unfold Tile.setV Tile.markPoison Tile.setStat
  repeat (first | rfl | split)
@[simp] theorem Tile.setV_miss (x : Tile) (r : VReg) (v : BitVec 2048) (p : Bool) : (x.setV r v p).miss = x.miss := by
  unfold Tile.setV Tile.markPoison Tile.setStat
  repeat (first | rfl | split)
@[simp] theorem Tile.setV_icache (x : Tile) (r : VReg) (v : BitVec 2048) (p : Bool) : (x.setV r v p).icache = x.icache := by
  unfold Tile.setV Tile.markPoison Tile.setStat
  repeat (first | rfl | split)
@[simp] theorem Tile.setV_plru (x : Tile) (r : VReg) (v : BitVec 2048) (p : Bool) : (x.setV r v p).plru = x.plru := by
  unfold Tile.setV Tile.markPoison Tile.setStat
  repeat (first | rfl | split)
@[simp] theorem Tile.setV_iplru (x : Tile) (r : VReg) (v : BitVec 2048) (p : Bool) : (x.setV r v p).iplru = x.iplru := by
  unfold Tile.setV Tile.markPoison Tile.setStat
  repeat (first | rfl | split)
@[simp] theorem Tile.setV_ifetch (x : Tile) (r : VReg) (v : BitVec 2048) (p : Bool) : (x.setV r v p).ifetch = x.ifetch := by
  unfold Tile.setV Tile.markPoison Tile.setStat
  repeat (first | rfl | split)
@[simp] theorem Tile.setV_dctl (x : Tile) (r : VReg) (v : BitVec 2048) (p : Bool) : (x.setV r v p).dctl = x.dctl := by
  unfold Tile.setV Tile.markPoison Tile.setStat
  repeat (first | rfl | split)
@[simp] theorem Tile.setV_ictl (x : Tile) (r : VReg) (v : BitVec 2048) (p : Bool) : (x.setV r v p).ictl = x.ictl := by
  unfold Tile.setV Tile.markPoison Tile.setStat
  repeat (first | rfl | split)
@[simp] theorem Tile.setV_gated (x : Tile) (r : VReg) (v : BitVec 2048) (p : Bool) : (x.setV r v p).gated = x.gated := by
  unfold Tile.setV Tile.markPoison Tile.setStat
  repeat (first | rfl | split)
@[simp] theorem Tile.setV_waitSeq (x : Tile) (r : VReg) (v : BitVec 2048) (p : Bool) : (x.setV r v p).waitSeq = x.waitSeq := by
  unfold Tile.setV Tile.markPoison Tile.setStat
  repeat (first | rfl | split)
@[simp] theorem Tile.setV_waitAddr (x : Tile) (r : VReg) (v : BitVec 2048) (p : Bool) : (x.setV r v p).waitAddr = x.waitAddr := by
  unfold Tile.setV Tile.markPoison Tile.setStat
  repeat (first | rfl | split)
@[simp] theorem Tile.setV_owned (x : Tile) (r : VReg) (v : BitVec 2048) (p : Bool) : (x.setV r v p).owned = x.owned := by
  unfold Tile.setV Tile.markPoison Tile.setStat
  repeat (first | rfl | split)
@[simp] theorem Tile.setV_segs (x : Tile) (r : VReg) (v : BitVec 2048) (p : Bool) : (x.setV r v p).segs = x.segs := by
  unfold Tile.setV Tile.markPoison Tile.setStat
  repeat (first | rfl | split)
@[simp] theorem Tile.setV_retireAsked (x : Tile) (r : VReg) (v : BitVec 2048) (p : Bool) : (x.setV r v p).retireAsked = x.retireAsked := by
  unfold Tile.setV Tile.markPoison Tile.setStat
  repeat (first | rfl | split)
@[simp] theorem Tile.setV_deficit (x : Tile) (r : VReg) (v : BitVec 2048) (p : Bool) : (x.setV r v p).deficit = x.deficit := by
  unfold Tile.setV Tile.markPoison Tile.setStat
  repeat (first | rfl | split)
@[simp] theorem Tile.setV_rotateAsked (x : Tile) (r : VReg) (v : BitVec 2048) (p : Bool) : (x.setV r v p).rotateAsked = x.rotateAsked := by
  unfold Tile.setV Tile.markPoison Tile.setStat
  repeat (first | rfl | split)
@[simp] theorem Tile.setV_healthy (x : Tile) (r : VReg) (v : BitVec 2048) (p : Bool) : (x.setV r v p).healthy = x.healthy := by
  unfold Tile.setV Tile.markPoison Tile.setStat
  repeat (first | rfl | split)
@[simp] theorem Tile.setV_lastTest (x : Tile) (r : VReg) (v : BitVec 2048) (p : Bool) : (x.setV r v p).lastTest = x.lastTest := by
  unfold Tile.setV Tile.markPoison Tile.setStat
  repeat (first | rfl | split)

/-! ## setP -/

@[simp] theorem Tile.setP_role (x : Tile) (r : PReg) (v : Word) (p : Bool) : (x.setP r v p).role = x.role := by
  unfold Tile.setP Tile.markPoison Tile.setStat
  repeat (first | rfl | split)
@[simp] theorem Tile.setP_run (x : Tile) (r : PReg) (v : Word) (p : Bool) : (x.setP r v p).run = x.run := by
  unfold Tile.setP Tile.markPoison Tile.setStat
  repeat (first | rfl | split)
@[simp] theorem Tile.setP_task (x : Tile) (r : PReg) (v : Word) (p : Bool) : (x.setP r v p).task = x.task := by
  unfold Tile.setP Tile.markPoison Tile.setStat
  repeat (first | rfl | split)
@[simp] theorem Tile.setP_logical (x : Tile) (r : PReg) (v : Word) (p : Bool) : (x.setP r v p).logical = x.logical := by
  unfold Tile.setP Tile.markPoison Tile.setStat
  repeat (first | rfl | split)
@[simp] theorem Tile.setP_isProtected (x : Tile) (r : PReg) (v : Word) (p : Bool) : (x.setP r v p).isProtected = x.isProtected := by
  unfold Tile.setP Tile.markPoison Tile.setStat
  repeat (first | rfl | split)
@[simp] theorem Tile.setP_g (x : Tile) (r : PReg) (v : Word) (p : Bool) : (x.setP r v p).g = x.g := by
  unfold Tile.setP Tile.markPoison Tile.setStat
  repeat (first | rfl | split)
@[simp] theorem Tile.setP_v (x : Tile) (r : PReg) (v : Word) (p : Bool) : (x.setP r v p).v = x.v := by
  unfold Tile.setP Tile.markPoison Tile.setStat
  repeat (first | rfl | split)
@[simp] theorem Tile.setP_gPoison (x : Tile) (r : PReg) (v : Word) (p : Bool) : (x.setP r v p).gPoison = x.gPoison := by
  unfold Tile.setP Tile.markPoison Tile.setStat
  repeat (first | rfl | split)
@[simp] theorem Tile.setP_vPoison (x : Tile) (r : PReg) (v : Word) (p : Bool) : (x.setP r v p).vPoison = x.vPoison := by
  unfold Tile.setP Tile.markPoison Tile.setStat
  repeat (first | rfl | split)
@[simp] theorem Tile.setP_accs (x : Tile) (r : PReg) (v : Word) (p : Bool) : (x.setP r v p).accs = x.accs := by
  unfold Tile.setP Tile.markPoison Tile.setStat
  repeat (first | rfl | split)
@[simp] theorem Tile.setP_pc (x : Tile) (r : PReg) (v : Word) (p : Bool) : (x.setP r v p).pc = x.pc := by
  unfold Tile.setP Tile.markPoison Tile.setStat
  repeat (first | rfl | split)
@[simp] theorem Tile.setP_gridFirst (x : Tile) (r : PReg) (v : Word) (p : Bool) : (x.setP r v p).gridFirst = x.gridFirst := by
  unfold Tile.setP Tile.markPoison Tile.setStat
  repeat (first | rfl | split)
@[simp] theorem Tile.setP_gridCount (x : Tile) (r : PReg) (v : Word) (p : Bool) : (x.setP r v p).gridCount = x.gridCount := by
  unfold Tile.setP Tile.markPoison Tile.setStat
  repeat (first | rfl | split)
@[simp] theorem Tile.setP_vein (x : Tile) (r : PReg) (v : Word) (p : Bool) : (x.setP r v p).vein = x.vein := by
  unfold Tile.setP Tile.markPoison Tile.setStat
  repeat (first | rfl | split)
@[simp] theorem Tile.setP_context (x : Tile) (r : PReg) (v : Word) (p : Bool) : (x.setP r v p).context = x.context := by
  unfold Tile.setP Tile.markPoison Tile.setStat
  repeat (first | rfl | split)
@[simp] theorem Tile.setP_args (x : Tile) (r : PReg) (v : Word) (p : Bool) : (x.setP r v p).args = x.args := by
  unfold Tile.setP Tile.markPoison Tile.setStat
  repeat (first | rfl | split)
@[simp] theorem Tile.setP_seed (x : Tile) (r : PReg) (v : Word) (p : Bool) : (x.setP r v p).seed = x.seed := by
  unfold Tile.setP Tile.markPoison Tile.setStat
  repeat (first | rfl | split)
@[simp] theorem Tile.setP_cycle (x : Tile) (r : PReg) (v : Word) (p : Bool) : (x.setP r v p).cycle = x.cycle := by
  unfold Tile.setP Tile.markPoison Tile.setStat
  repeat (first | rfl | split)
@[simp] theorem Tile.setP_unitCycles (x : Tile) (r : PReg) (v : Word) (p : Bool) : (x.setP r v p).unitCycles = x.unitCycles := by
  unfold Tile.setP Tile.markPoison Tile.setStat
  repeat (first | rfl | split)
@[simp] theorem Tile.setP_lfsr (x : Tile) (r : PReg) (v : Word) (p : Bool) : (x.setP r v p).lfsr = x.lfsr := by
  unfold Tile.setP Tile.markPoison Tile.setStat
  repeat (first | rfl | split)
@[simp] theorem Tile.setP_carry (x : Tile) (r : PReg) (v : Word) (p : Bool) : (x.setP r v p).carry = x.carry := by
  unfold Tile.setP Tile.markPoison Tile.setStat
  repeat (first | rfl | split)
@[simp] theorem Tile.setP_lc (x : Tile) (r : PReg) (v : Word) (p : Bool) : (x.setP r v p).lc = x.lc := by
  unfold Tile.setP Tile.markPoison Tile.setStat
  repeat (first | rfl | split)
@[simp] theorem Tile.setP_scratch (x : Tile) (r : PReg) (v : Word) (p : Bool) : (x.setP r v p).scratch = x.scratch := by
  unfold Tile.setP Tile.markPoison Tile.setStat
  repeat (first | rfl | split)
@[simp] theorem Tile.setP_poison (x : Tile) (r : PReg) (v : Word) (p : Bool) : (x.setP r v p).poison = x.poison := by
  unfold Tile.setP Tile.markPoison Tile.setStat
  repeat (first | rfl | split)
@[simp] theorem Tile.setP_full (x : Tile) (r : PReg) (v : Word) (p : Bool) : (x.setP r v p).full = x.full := by
  unfold Tile.setP Tile.markPoison Tile.setStat
  repeat (first | rfl | split)
@[simp] theorem Tile.setP_stable (x : Tile) (r : PReg) (v : Word) (p : Bool) : (x.setP r v p).stable = x.stable := by
  unfold Tile.setP Tile.markPoison Tile.setStat
  repeat (first | rfl | split)
@[simp] theorem Tile.setP_stableSrc (x : Tile) (r : PReg) (v : Word) (p : Bool) : (x.setP r v p).stableSrc = x.stableSrc := by
  unfold Tile.setP Tile.markPoison Tile.setStat
  repeat (first | rfl | split)
@[simp] theorem Tile.setP_reservation (x : Tile) (r : PReg) (v : Word) (p : Bool) : (x.setP r v p).reservation = x.reservation := by
  unfold Tile.setP Tile.markPoison Tile.setStat
  repeat (first | rfl | split)
@[simp] theorem Tile.setP_scFails (x : Tile) (r : PReg) (v : Word) (p : Bool) : (x.setP r v p).scFails = x.scFails := by
  unfold Tile.setP Tile.markPoison Tile.setStat
  repeat (first | rfl | split)
@[simp] theorem Tile.setP_scGranule (x : Tile) (r : PReg) (v : Word) (p : Bool) : (x.setP r v p).scGranule = x.scGranule := by
  unfold Tile.setP Tile.markPoison Tile.setStat
  repeat (first | rfl | split)
@[simp] theorem Tile.setP_held (x : Tile) (r : PReg) (v : Word) (p : Bool) : (x.setP r v p).held = x.held := by
  unfold Tile.setP Tile.markPoison Tile.setStat
  repeat (first | rfl | split)
@[simp] theorem Tile.setP_released (x : Tile) (r : PReg) (v : Word) (p : Bool) : (x.setP r v p).released = x.released := by
  unfold Tile.setP Tile.markPoison Tile.setStat
  repeat (first | rfl | split)
@[simp] theorem Tile.setP_fencePending (x : Tile) (r : PReg) (v : Word) (p : Bool) : (x.setP r v p).fencePending = x.fencePending := by
  unfold Tile.setP Tile.markPoison Tile.setStat
  repeat (first | rfl | split)
@[simp] theorem Tile.setP_fullFence (x : Tile) (r : PReg) (v : Word) (p : Bool) : (x.setP r v p).fullFence = x.fullFence := by
  unfold Tile.setP Tile.markPoison Tile.setStat
  repeat (first | rfl | split)
@[simp] theorem Tile.setP_observe (x : Tile) (r : PReg) (v : Word) (p : Bool) : (x.setP r v p).observe = x.observe := by
  unfold Tile.setP Tile.markPoison Tile.setStat
  repeat (first | rfl | split)
@[simp] theorem Tile.setP_lastFiles (x : Tile) (r : PReg) (v : Word) (p : Bool) : (x.setP r v p).lastFiles = x.lastFiles := by
  unfold Tile.setP Tile.markPoison Tile.setStat
  repeat (first | rfl | split)
@[simp] theorem Tile.setP_ckpt0 (x : Tile) (r : PReg) (v : Word) (p : Bool) : (x.setP r v p).ckpt0 = x.ckpt0 := by
  unfold Tile.setP Tile.markPoison Tile.setStat
  repeat (first | rfl | split)
@[simp] theorem Tile.setP_ckpt1 (x : Tile) (r : PReg) (v : Word) (p : Bool) : (x.setP r v p).ckpt1 = x.ckpt1 := by
  unfold Tile.setP Tile.markPoison Tile.setStat
  repeat (first | rfl | split)
@[simp] theorem Tile.setP_validHalf (x : Tile) (r : PReg) (v : Word) (p : Bool) : (x.setP r v p).validHalf = x.validHalf := by
  unfold Tile.setP Tile.markPoison Tile.setStat
  repeat (first | rfl | split)
@[simp] theorem Tile.setP_ckptLost (x : Tile) (r : PReg) (v : Word) (p : Bool) : (x.setP r v p).ckptLost = x.ckptLost := by
  unfold Tile.setP Tile.markPoison Tile.setStat
  repeat (first | rfl | split)
@[simp] theorem Tile.setP_afterCommit (x : Tile) (r : PReg) (v : Word) (p : Bool) : (x.setP r v p).afterCommit = x.afterCommit := by
  unfold Tile.setP Tile.markPoison Tile.setStat
  repeat (first | rfl | split)
@[simp] theorem Tile.setP_matQueue (x : Tile) (r : PReg) (v : Word) (p : Bool) : (x.setP r v p).matQueue = x.matQueue := by
  unfold Tile.setP Tile.markPoison Tile.setStat
  repeat (first | rfl | split)
@[simp] theorem Tile.setP_mmaRunning (x : Tile) (r : PReg) (v : Word) (p : Bool) : (x.setP r v p).mmaRunning = x.mmaRunning := by
  unfold Tile.setP Tile.markPoison Tile.setStat
  repeat (first | rfl | split)
@[simp] theorem Tile.setP_accOps (x : Tile) (r : PReg) (v : Word) (p : Bool) : (x.setP r v p).accOps = x.accOps := by
  unfold Tile.setP Tile.markPoison Tile.setStat
  repeat (first | rfl | split)
@[simp] theorem Tile.setP_moves (x : Tile) (r : PReg) (v : Word) (p : Bool) : (x.setP r v p).moves = x.moves := by
  unfold Tile.setP Tile.markPoison Tile.setStat
  repeat (first | rfl | split)
@[simp] theorem Tile.setP_micas (x : Tile) (r : PReg) (v : Word) (p : Bool) : (x.setP r v p).micas = x.micas := by
  unfold Tile.setP Tile.markPoison Tile.setStat
  repeat (first | rfl | split)
@[simp] theorem Tile.setP_pend (x : Tile) (r : PReg) (v : Word) (p : Bool) : (x.setP r v p).pend = x.pend := by
  unfold Tile.setP Tile.markPoison Tile.setStat
  repeat (first | rfl | split)
@[simp] theorem Tile.setP_dcache (x : Tile) (r : PReg) (v : Word) (p : Bool) : (x.setP r v p).dcache = x.dcache := by
  unfold Tile.setP Tile.markPoison Tile.setStat
  repeat (first | rfl | split)
@[simp] theorem Tile.setP_miss (x : Tile) (r : PReg) (v : Word) (p : Bool) : (x.setP r v p).miss = x.miss := by
  unfold Tile.setP Tile.markPoison Tile.setStat
  repeat (first | rfl | split)
@[simp] theorem Tile.setP_icache (x : Tile) (r : PReg) (v : Word) (p : Bool) : (x.setP r v p).icache = x.icache := by
  unfold Tile.setP Tile.markPoison Tile.setStat
  repeat (first | rfl | split)
@[simp] theorem Tile.setP_plru (x : Tile) (r : PReg) (v : Word) (p : Bool) : (x.setP r v p).plru = x.plru := by
  unfold Tile.setP Tile.markPoison Tile.setStat
  repeat (first | rfl | split)
@[simp] theorem Tile.setP_iplru (x : Tile) (r : PReg) (v : Word) (p : Bool) : (x.setP r v p).iplru = x.iplru := by
  unfold Tile.setP Tile.markPoison Tile.setStat
  repeat (first | rfl | split)
@[simp] theorem Tile.setP_ifetch (x : Tile) (r : PReg) (v : Word) (p : Bool) : (x.setP r v p).ifetch = x.ifetch := by
  unfold Tile.setP Tile.markPoison Tile.setStat
  repeat (first | rfl | split)
@[simp] theorem Tile.setP_dctl (x : Tile) (r : PReg) (v : Word) (p : Bool) : (x.setP r v p).dctl = x.dctl := by
  unfold Tile.setP Tile.markPoison Tile.setStat
  repeat (first | rfl | split)
@[simp] theorem Tile.setP_ictl (x : Tile) (r : PReg) (v : Word) (p : Bool) : (x.setP r v p).ictl = x.ictl := by
  unfold Tile.setP Tile.markPoison Tile.setStat
  repeat (first | rfl | split)
@[simp] theorem Tile.setP_gated (x : Tile) (r : PReg) (v : Word) (p : Bool) : (x.setP r v p).gated = x.gated := by
  unfold Tile.setP Tile.markPoison Tile.setStat
  repeat (first | rfl | split)
@[simp] theorem Tile.setP_waitSeq (x : Tile) (r : PReg) (v : Word) (p : Bool) : (x.setP r v p).waitSeq = x.waitSeq := by
  unfold Tile.setP Tile.markPoison Tile.setStat
  repeat (first | rfl | split)
@[simp] theorem Tile.setP_waitAddr (x : Tile) (r : PReg) (v : Word) (p : Bool) : (x.setP r v p).waitAddr = x.waitAddr := by
  unfold Tile.setP Tile.markPoison Tile.setStat
  repeat (first | rfl | split)
@[simp] theorem Tile.setP_owned (x : Tile) (r : PReg) (v : Word) (p : Bool) : (x.setP r v p).owned = x.owned := by
  unfold Tile.setP Tile.markPoison Tile.setStat
  repeat (first | rfl | split)
@[simp] theorem Tile.setP_segs (x : Tile) (r : PReg) (v : Word) (p : Bool) : (x.setP r v p).segs = x.segs := by
  unfold Tile.setP Tile.markPoison Tile.setStat
  repeat (first | rfl | split)
@[simp] theorem Tile.setP_retireAsked (x : Tile) (r : PReg) (v : Word) (p : Bool) : (x.setP r v p).retireAsked = x.retireAsked := by
  unfold Tile.setP Tile.markPoison Tile.setStat
  repeat (first | rfl | split)
@[simp] theorem Tile.setP_deficit (x : Tile) (r : PReg) (v : Word) (p : Bool) : (x.setP r v p).deficit = x.deficit := by
  unfold Tile.setP Tile.markPoison Tile.setStat
  repeat (first | rfl | split)
@[simp] theorem Tile.setP_rotateAsked (x : Tile) (r : PReg) (v : Word) (p : Bool) : (x.setP r v p).rotateAsked = x.rotateAsked := by
  unfold Tile.setP Tile.markPoison Tile.setStat
  repeat (first | rfl | split)
@[simp] theorem Tile.setP_healthy (x : Tile) (r : PReg) (v : Word) (p : Bool) : (x.setP r v p).healthy = x.healthy := by
  unfold Tile.setP Tile.markPoison Tile.setStat
  repeat (first | rfl | split)
@[simp] theorem Tile.setP_lastTest (x : Tile) (r : PReg) (v : Word) (p : Bool) : (x.setP r v p).lastTest = x.lastTest := by
  unfold Tile.setP Tile.markPoison Tile.setStat
  repeat (first | rfl | split)

/-! ## Reads after the named updates -/

@[simp] theorem State.emit_sent (s : State) (x : Sent) : (s.emit x).sent = s.sent ++ [x] := rfl
@[simp] theorem State.used_free (s : State) : s.used.free = s.free + 1 := rfl
@[simp] theorem State.bump_nextId (s : State) : s.bump.nextId = s.nextId + 1 := rfl
@[simp] theorem State.retireTo_free (s : State) (t pc : Nat) : (s.retireTo t pc).free = s.free + 1 := rfl
@[simp] theorem State.retire_free (s : State) (t : Nat) (w : Bool) : (s.retire t w).free = s.free + 1 := rfl
@[simp] theorem State.setTile_tile_self (s : State) (t : Nat) (x : Tile) : (s.setTile t x).tile t = x := by
  simp [State.tile, State.setTile]
theorem State.setTile_tile (s : State) (t u : Nat) (x : Tile) : (s.setTile t x).tile u = if u = t then x else s.tile u := by
  simp [State.tile, State.setTile, tblGet_tblPut]
@[simp] theorem State.modTile_tile_self (s : State) (t : Nat) (f : Tile → Tile) : (s.modTile t f).tile t = f (s.tile t) := by
  simp [State.modTile]
theorem State.modTile_tile (s : State) (t u : Nat) (f : Tile → Tile) :
    (s.modTile t f).tile u = if u = t then f (s.tile t) else s.tile u := by
  simp [State.modTile, State.setTile_tile]
@[simp] theorem State.emit_tile (s : State) (x : Sent) (t : Nat) : (s.emit x).tile t = s.tile t := rfl
@[simp] theorem State.used_tile (s : State) (t : Nat) : s.used.tile t = s.tile t := rfl
@[simp] theorem State.bump_tile (s : State) (t : Nat) : s.bump.tile t = s.tile t := rfl
@[simp] theorem State.modQuarry_quarry_self (s : State) (q : Nat) (f : Quarry → Quarry) : (s.modQuarry q f).quarry q = f (s.quarry q) := by
  simp [State.quarry, State.modQuarry]
theorem State.modQuarry_quarry (s : State) (q r : Nat) (f : Quarry → Quarry) :
    (s.modQuarry q f).quarry r = if r = q then f (s.quarry q) else s.quarry r := by
  simp [State.quarry, State.modQuarry, tblGet_tblPut]
theorem State.modQPower_qpower (s : State) (q r : Nat) (f : QPower → QPower) :
    (s.modQPower q f).qpower r = if r = q then f (s.qpower q) else s.qpower r := by
  simp [State.qpower, State.modQPower, tblGet_tblPut]
@[simp] theorem State.setTask_task_self (s : State) (k : Nat) (x : Task) : (s.setTask k x).task? k = some x := by
  simp [State.task?, State.setTask]
theorem State.setTask_task_ne (s : State) {k j : Nat} (x : Task) (h : j ≠ k) : (s.setTask k x).task? j = s.task? j := by
  simp [State.task?, State.setTask, tblFind_tblPut_ne _ _ h]
@[simp] theorem State.setQueue_queue_self (s : State) (q : Nat) (x : WorkQueue) : (s.setQueue q x).queue? q = some x := by
  simp [State.queue?, State.setQueue]
theorem State.setQueue_queue_ne (s : State) {q r : Nat} (x : WorkQueue) (h : r ≠ q) : (s.setQueue q x).queue? r = s.queue? r := by
  simp [State.queue?, State.setQueue, tblFind_tblPut_ne _ _ h]
@[simp] theorem State.setObj_obj_self (s : State) (n : Nat) (o : Obj) : (s.setObj n o).obj n = o := by
  simp [State.obj, State.setObj]
theorem State.setObj_obj_ne (s : State) {n m : Nat} (o : Obj) (h : m ≠ n) : (s.setObj n o).obj m = s.obj m := by
  simp [State.obj, State.setObj, tblGet_tblPut_ne _ _ _ h]

/-- A named task's change leaves every other part of the state alone. -/
theorem State.modTask_frame (s : State) (k : Nat) (f : Task → Task) :
    ∃ ts, s.modTask k f = { s with tasks := ts } := by
  unfold State.modTask
  split
  · exact ⟨_, rfl⟩
  · exact ⟨s.tasks, rfl⟩

/-- A named queue's change leaves every other part of the state alone. -/
theorem State.modQueue_frame (s : State) (q : Nat) (f : WorkQueue → WorkQueue) :
    ∃ qs, s.modQueue q f = { s with queues := qs } := by
  unfold State.modQueue
  split
  · exact ⟨_, rfl⟩
  · exact ⟨s.queues, rfl⟩

/-! ## Registers of a tile -/

@[simp] theorem Tile.gr_zero (x : Tile) : x.gr 0 = 0 := rfl

/-- A scalar write is read back but for g0; every other register keeps its value. -/
theorem Tile.setG_gr (x : Tile) (r q : Reg) (v : Word) (p : Bool) :
    (x.setG r v p).gr q = if q = 0 then 0 else if q = r then v else x.gr q := by
  unfold Tile.setG Tile.gr Tile.markPoison Tile.setStat
  by_cases hq : q = 0
  · simp [hq]
  · by_cases hr : r = 0
    · subst hr; simp [hq]
    · have h : ∀ y : Tile, y.g = tblPut x.g r.val v → tblGet 0 y.g q.val = if q = r then v else tblGet 0 x.g q.val := by
        intro y hy
        rw [hy, tblGet_tblPut]
        simp [Fin.ext_iff]
      cases p <;> simp [hq, hr, tblGet_tblPut, Fin.ext_iff]

theorem Tile.setG_gp (x : Tile) (r q : Reg) (v : Word) (p : Bool) :
    (x.setG r v p).gp q = if q = 0 then false else if q = r then p else x.gp q := by
  unfold Tile.setG Tile.gp Tile.markPoison Tile.setStat
  by_cases hq : q = 0
  · simp [hq]
  · by_cases hr : r = 0
    · subst hr; simp [hq]
    · have hb : (q != 0) = true := by simpa using hq
      cases p <;> simp only [hb, hr, hq] <;> simp [Fin.ext_iff]

theorem Tile.setV_vr (x : Tile) (r q : VReg) (v : BitVec 2048) (p : Bool) : (x.setV r v p).vr q = if q = r then v else x.vr q := by
  unfold Tile.setV Tile.vr Tile.markPoison Tile.setStat
  cases p <;> simp [tblGet_tblPut, Fin.ext_iff]

theorem Tile.setV_vp (x : Tile) (r q : VReg) (v : BitVec 2048) (p : Bool) : (x.setV r v p).vp q = if q = r then p else x.vp q := by
  unfold Tile.setV Tile.vp Tile.markPoison Tile.setStat
  cases p <;> simp [Fin.ext_iff]

theorem Tile.setP_pr (x : Tile) (r q : PReg) (v : Word) (p : Bool) : (x.setP r v p).pr q = if q = r then v else x.pr q := by
  unfold Tile.setP Tile.pr Tile.markPoison Tile.setStat
  cases p <;> simp [tblGet_tblPut, Fin.ext_iff]

theorem Tile.setP_pp (x : Tile) (r q : PReg) (v : Word) (p : Bool) : (x.setP r v p).pp q = if q = r then p else x.pp q := by
  unfold Tile.setP Tile.pp Tile.markPoison Tile.setStat
  cases p <;> simp [Fin.ext_iff]

/-! ## Issue and retirement -/

/-- Where a tile issues an instruction whose fetch passes and whose registers are there, the instruction's own part runs. -/
theorem State.issue_of_ready (s : State) (t : Nat) (wide : Bool) (regs : List Reg) (f : State → State)
    (hi : (s.tile t).canIssue = true) (hf : s.fetch t wide = .good) (hb : (s.tile t).busy regs = false) :
    s.issue t wide regs f = f s := by
  simp [State.issue, hi, hf, hb]

/-- The retired tile: its program counter and counts move. -/
theorem State.retireTo_tile_self (s : State) (t pc : Nat) :
    (s.retireTo t pc).tile t =
      { s.tile t with
        pc := pc % 2 ^ 64, iplru := (s.tile t).codeTouched (s.tile t).pc, cycle := ((s.tile t).cycle + s.openNat) % 2 ^ 64
        unitCycles := if (s.tile t).isProtected then ((s.tile t).unitCycles + s.openNat) % 2 ^ 64 else (s.tile t).unitCycles } := by
  simp [State.retireTo]

theorem State.retireTo_tile_ne (s : State) {t u : Nat} (pc : Nat) (h : u ≠ t) : (s.retireTo t pc).tile u = s.tile u := by
  simp [State.retireTo, State.modTile_tile, h]

end Sys2Proof.Machine
end

