-- ==== Sys2Proof/Laws/Vector.lean ====
section
/-! SUPPORT. Laws of vector and predicate registers put together from lanes and bits. -/

namespace Sys2Proof.Machine

theorem ofLanes_fold (f : Nat → Word32) (n j : Nat) (hj : j < 2048) :
    ((List.range n).foldl (fun a i => a ||| ((f i).setWidth 2048 <<< (32 * i))) (0 : BitVec 2048)).getLsbD j =
      if j / 32 < n then (f (j / 32)).getLsbD (j % 32) else false := by
  induction n with
  | zero => simp
  | succ n ih =>
    rw [List.range_succ, List.foldl_append, List.foldl_cons, List.foldl_nil, BitVec.getLsbD_or, ih, BitVec.getLsbD_shiftLeft,
      BitVec.getLsbD_setWidth]
    by_cases h : j / 32 < n
    · have h1 : j < 32 * n := by omega
      have h2 : j / 32 < n + 1 := by omega
      simp [h, h1, h2]
    · by_cases h3 : j / 32 = n
      · have h4 : ¬ j < 32 * n := by omega
        have h5 : j - 32 * n = j % 32 := by omega
        have h6 : j % 32 < 2048 := by omega
        subst h3
        simp [hj, h4, h5, h6]
      · have h7 : ¬ j / 32 < n + 1 := by omega
        have h8 : (f n).getLsbD (j - 32 * n) = false := BitVec.getLsbD_of_ge _ _ (by omega)
        simp [h, h7, h8]

/-- Lane `i` of a register put together from lanes is lane `i`. -/
theorem lane_ofLanes (f : Nat → Word32) (i : Nat) (hi : i < 64) : lane (ofLanes f) i = f i := by
  apply BitVec.eq_of_getLsbD_eq
  intro k hk
  have h1 : 32 * i + k < 2048 := by omega
  have h2 : (32 * i + k) / 32 = i := by omega
  have h3 : (32 * i + k) % 32 = k := by omega
  have h4 : (32 * i + k) / 32 < 64 := by omega
  rw [lane, BitVec.getLsbD_setWidth, BitVec.getLsbD_ushiftRight, ofLanes, ofLanes_fold f 64 _ h1, if_pos h4, h2, h3]
  simp [hk]

theorem ofBits_fold (f : Nat → Bool) (n j : Nat) (hj : j < 64) :
    ((List.range n).foldl (fun a i => a ||| (if f i then 1#64 <<< i else 0)) (0 : Word)).getLsbD j = (decide (j < n) && f j) := by
  induction n with
  | zero => simp
  | succ n ih =>
    rw [List.range_succ, List.foldl_append, List.foldl_cons, List.foldl_nil, BitVec.getLsbD_or, ih]
    have h : (if f n then 1#64 <<< n else (0 : Word)).getLsbD j = (decide (j = n) && f j) := by
      by_cases hf : f n
      · simp only [hf, if_true, BitVec.getLsbD_shiftLeft, BitVec.getLsbD_one]
        by_cases hn : j = n
        · subst hn; simp [hj, hf]
        · by_cases hl : j < n
          · simp [hl, hn]
          · have : ¬ j - n = 0 := by omega
            simp [hn, this]
      · by_cases hn : j = n
        · subst hn; simp [hf]
        · simp [hf, hn]
    rw [h]
    by_cases h1 : j < n
    · have : j < n + 1 := by omega
      simp [h1, this]
    · by_cases h2 : j = n
      · subst h2; simp
      · have : ¬ j < n + 1 := by omega
        simp [h1, h2, this]

/-- Bit `i` of a predicate put together from bits is bit `i`. -/
theorem getLsbD_ofBits (f : Nat → Bool) (i : Nat) (hi : i < 64) : (ofBits f).getLsbD i = f i := by
  rw [ofBits, ofBits_fold f 64 i hi]
  simp [hi]

/-- A masked vector result, lane by lane (R174). -/
theorem lane_merge (x : Tile) (c : VecCtl) (vd : VReg) (f : Nat → Word32) (i : Nat) (hi : i < 64) :
    lane (x.merge c vd f) i = if x.active c i then f i else if c.pz then 0 else lane (x.vr vd) i :=
  lane_ofLanes _ i hi

end Sys2Proof.Machine
end

