-- ==== Sys2Proof/Laws/Tile.lean ====
section
/-! SUPPORT. What the shared operations of tile instructions do, in the terms of claims: results, transfers of control, masked lanes. -/

namespace Sys2Proof.Machine

/-- A command whose words spell it has its own effect. -/
theorem spelled_of (s : State) (t : Nat) (i : Instr) (r : State) (h : (s.tile t).canIssue = true) (hs : s.spells t i) :
    s.spelled t i r = r := by simp [State.spelled, h, hs.1, hs.2]

/-- Words that are no instruction trap (R160, R161). -/
theorem spelled_illegal (s : State) (t : Nat) (i : Instr) (r : State) (h : (s.tile t).canIssue = true)
    (hf : s.fetch t (wideWord (s.codeWord t (s.tile t).pc)) = .good) (hs : s.spelling t i = .illegal) :
    s.spelled t i r = s.trap t .illegalInsn none := by simp [State.spelled, h, hf, hs]

/-- A scalar result and retirement is `wroteG`. -/
theorem wroteG_of (s : State) (t : Nat) (rd : Reg) (v : Word) (p : Bool) :
    s.wroteG ((s.modTile t (fun x => x.setG rd v p)).retire t false) t rd v p 0 ((s.tile t).pc + 4) := by
  refine ⟨?_, ?_, ?_, ?_, ?_, ?_, ?_, ?_, ?_⟩
  · intro q
    simp only [State.retire, State.retireTo_tile_self, State.modTile_tile_self]
    exact Tile.setG_gr _ rd q v p
  · intro q
    simp only [State.retire, State.retireTo_tile_self, State.modTile_tile_self]
    exact Tile.setG_gp _ rd q v p
  · simp only [State.retire, State.retireTo_tile_self, State.modTile_tile_self]
    unfold Tile.setG Tile.markPoison Tile.setStat
    by_cases h : rd = 0 <;> cases p <;> simp [h]
  · simp [State.retire, State.retireTo_tile_self]
  · simp [State.retire, State.retireTo_tile_self, Tile.keepsV]
  · simp [State.retire, State.retireTo_tile_self, Tile.keepsP]
  · simp only [State.retire, State.retireTo_tile_self, State.modTile_tile_self, Tile.sameButRegs]
    unfold Tile.setG Tile.markPoison Tile.setStat
    by_cases h : rd = 0 <;> cases p <;> simp [h]
  · rfl
  · intro q hq
    simp only [State.retire]
    rw [State.retireTo_tile_ne _ _ hq]
    simp [State.modTile_tile, hq]

/-- A register-form operation on an issuing tile. -/
theorem aluRR_wroteG (s : State) (t : Nat) (rd ra rb : Reg) (op : Word → Word → Word) (v : Word)
    (h : s.issues t false [rd, ra, rb]) (hv : op ((s.tile t).gr ra) ((s.tile t).gr rb) = v) :
    s.wroteG (s.aluRR t rd ra rb op) t rd v ((s.tile t).gp ra || (s.tile t).gp rb) 0 ((s.tile t).pc + 4) := by
  subst hv
  rw [State.aluRR, State.issue_of_ready s t false _ _ h.1 h.2.1 h.2.2]
  exact wroteG_of s t rd _ _

/-- An operation on one register on an issuing tile. -/
theorem aluR_wroteG (s : State) (t : Nat) (rd ra : Reg) (op : Word → Word) (v : Word)
    (h : s.issues t false [rd, ra]) (hv : op ((s.tile t).gr ra) = v) :
    s.wroteG (s.aluR t rd ra op) t rd v ((s.tile t).gp ra) 0 ((s.tile t).pc + 4) := by
  subst hv
  rw [State.aluR, State.issue_of_ready s t false _ _ h.1 h.2.1 h.2.2]
  exact wroteG_of s t rd _ _

/-- A retirement alone is `wentTo`. -/
theorem wentTo_retireTo (s : State) (t pc : Nat) : s.wentTo (s.retireTo t pc) t pc := by
  refine ⟨?_, rfl, fun q hq => State.retireTo_tile_ne s pc hq⟩
  simp [State.retireTo_tile_self]

/-- A tile that has broken its reservation holds none. -/
theorem reservationGone_clear (s : State) (t pc : Nat) : ((s.clearReservation t).retireTo t pc).reservationGone t := by
  refine ⟨?_, ?_, ?_⟩
  · rw [State.retireTo_tile_self]; simp [State.clearReservation, State.tile, State.modTile, State.setTile]
  · intro r hr
    have : r ∈ s.homes.resv.filter (fun r => r.tile != t) := hr
    simpa using (List.mem_filter.mp this).2
  · rw [State.retireTo_tile_self]
    intro p hp
    simp only [State.clearReservation, State.tile, State.modTile, State.setTile, tblGet_tblPut_self] at hp
    obtain ⟨q, hq, rfl⟩ := List.mem_map.mp hp
    by_cases h : q.kind = .reserve <;> simp [h]

/-- A conditional branch on an issuing tile. -/
theorem branch_goes (s : State) (t : Nat) (ra rb : Reg) (off : BitVec 13) (h : s.issues t false [ra, rb]) (c : Word → Word → Bool) (C : Prop)
   (hc : c ((s.tile t).gr ra) ((s.tile t).gr rb) = true ↔ C) :
   let x := s.tile t
   let target := (((x.pc : Int) + 4 * off.toInt) % 2 ^ 64).toNat
   let u := s.branch t ra rb off c
   (¬ C → s.wentTo u t (x.pc + 4)) ∧ (C → x.pc < target → s.wentTo u t target) ∧
        (C → target ≤ x.pc → (u.tile t).pc = target ∧ u.reservationGone t ∧ (u.tile t).g = x.g ∧ u.mem = s.mem ∧
          ∀ q, q ≠ t → u.tile q = s.tile q) := by
  intro x target u
  have hu : u = if c ((s.tile t).gr ra) ((s.tile t).gr rb) then s.goto t target else s.retire t false := by
    show s.branch t ra rb off c = _
    rw [State.branch, State.issue_of_ready s t false _ _ h.1 h.2.1 h.2.2]
    rfl
  refine ⟨fun hn => ?_, fun hC hlt => ?_, fun hC hle => ?_⟩
  · rw [hu, if_neg (by rw [hc]; exact hn)]; exact wentTo_retireTo _ _ _
  · rw [hu, if_pos (hc.mpr hC)]
    have : ¬ target ≤ (s.tile t).pc := by have : (s.tile t).pc < target := hlt; omega
    simp only [State.goto, this, decide_false]
    exact wentTo_retireTo _ _ _
  · have e : u = (s.clearReservation t).retireTo t target := by
      rw [hu, if_pos (hc.mpr hC)]
      have : target ≤ (s.tile t).pc := hle
      simp [State.goto, this]
    rw [e]
    have ht : target < 2 ^ 64 := by
      have := Int.emod_lt_of_pos ((x.pc : Int) + 4 * off.toInt) (by norm_num : (0:Int) < 2 ^ 64)
      show (((x.pc : Int) + 4 * off.toInt) % 2 ^ 64).toNat < 2^64
      omega
    refine ⟨?_, reservationGone_clear s t target, ?_, rfl, ?_⟩
    · rw [State.retireTo_tile_self]; exact Nat.mod_eq_of_lt ht
    · rw [State.retireTo_tile_self]; simp [State.clearReservation, State.tile, State.modTile, State.setTile, x]
    · intro q hq
      rw [State.retireTo_tile_ne _ _ hq]
      simp [State.clearReservation, State.tile, State.modTile, State.setTile, tblGet_tblPut_ne _ _ _ hq]

/-- A valid vector instruction on an issuing tile runs with the vector unit ungated. -/
theorem vec_of_ready (s : State) (t : Nat) (regs : List Reg) (f : State → State) (h : s.issues t true regs) :
   s.vec t true regs f = f (s.modTile t (fun x => { x with gated := setDel x.gated 2 })) := by
  rw [State.vec, State.issue_of_ready s t true _ _ h.1 h.2.1 h.2.2]; rfl

/-- A vector result and retirement is `wroteV`. -/
theorem wroteV_of (s : State) (t : Nat) (vd : VReg) (v : BitVec 2048) (p : Bool) (st : BitVec 7) (x : Tile)
   (hx : ∃ g, (∀ a ∈ g, a ∈ (s.tile t).gated) ∧ x = { s.tile t with gated := g, astat := (s.tile t).astat ||| st }) (s0 : State) (n : Nat)
   (hs : s0 = { (s.setTile t x) with free := n }) :
   s.wroteV ((s0.modTile t (fun x => x.setV vd v p)).retire t true) t vd v p st := by
  obtain ⟨g, hg, rfl⟩ := hx
  have ht : s0.tile t = { s.tile t with gated := g, astat := (s.tile t).astat ||| st } := by
    rw [hs]; simp [State.tile, State.setTile]
  refine ⟨?_, ?_, ?_, ?_, ?_, ?_, ?_, ?_, ?_⟩
  · intro q
    simp only [State.retire, State.retireTo_tile_self, State.modTile_tile_self, ht]
    exact Tile.setV_vr _ vd q v p
  · intro q
    simp only [State.retire, State.retireTo_tile_self, State.modTile_tile_self, ht]
    exact Tile.setV_vp _ vd q v p
  · simp only [State.retire, State.retireTo_tile_self, State.modTile_tile_self, ht]
    unfold Tile.setV Tile.markPoison Tile.setStat
    cases p <;> simp
  · simp [State.retire, State.retireTo_tile_self, ht]
  · simp [State.retire, State.retireTo_tile_self, ht, Tile.keepsG]
  · simp [State.retire, State.retireTo_tile_self, ht, Tile.keepsP]
  · simp only [State.retire, State.retireTo_tile_self, State.modTile_tile_self, Tile.sameButRegs, ht]
    unfold Tile.setV Tile.markPoison Tile.setStat
    cases p <;> simpa using hg
  · subst hs; rfl
  · intro q hq
    simp only [State.retire]
    rw [State.retireTo_tile_ne _ _ hq, State.modTile_tile, if_neg hq, hs]
    simp [State.tile, State.setTile, tblGet_tblPut_ne _ _ _ hq]

theorem mem_setDel (m : NSet) (a b : Nat) (h : b ∈ setDel m a) : b ∈ m := List.mem_of_mem_filter h

/-- An integer lane operation on an issuing tile. -/
theorem vint_wroteV (s : State) (t : Nat) (vd va : VReg) (vb : VSrc) (c : VecCtl) (op : Word32 → Word32 → Word32) (f : Word32 → Word32 → Word32)
    (h : s.issues t true (VSrc.regs vb)) (hc : VecCtl.plainInt c) (hf : ∀ a b, op a b = f a b) :
    let x := s.tile t
    ∃ v, x.lanesAre c vd (fun i => f (lane (x.vr va) i) (x.src2 vb i)) v ∧
      s.wroteV (s.vint t vd va vb c op) t vd v (x.mergePoison c vd (x.vp va || x.src2Poison vb)) 0 := by
  have hn : noFp c = true := by
    obtain ⟨⟨h1, h2, h3⟩, h4⟩ := hc
    cases hp : c.pen <;> simp_all [noFp, noCvt, VecCtl.predOk]
  refine ⟨_, fun i hi => lane_merge _ c vd _ i hi, ?_⟩
  rw [State.vint, hn, vec_of_ready s t _ _ h]
  have : f = op := by funext a b; exact (hf a b).symm
  subst this
  have := wroteV_of s t vd ((s.tile t).merge c vd (fun i => f (lane ((s.tile t).vr va) i) ((s.tile t).src2 vb i)))
     ((s.tile t).mergePoison c vd ((s.tile t).vp va || (s.tile t).src2Poison vb)) 0
     { s.tile t with gated := setDel (s.tile t).gated 2 } ⟨setDel (s.tile t).gated 2, fun a ha => mem_setDel _ _ _ ha, by simp⟩
     (s.modTile t (fun x => { x with gated := setDel x.gated 2 })) s.free rfl
  convert this using 1
  unfold State.wide State.modTile
  congr 2
  simp [Tile.merge, Tile.mergePoison, Tile.vr, Tile.src2, Tile.src2Poison, Tile.vp, Tile.gr, Tile.gp, Tile.active, Tile.pr, Tile.pp]

end Sys2Proof.Machine
end

