-- ==== Sys2Proof/Machine/ConfigSpace.lean ====
section
/-! DEFINITION. Configuration space as the host reads it, field by field (R272, R399 to R404, R406, R407, R413 to R416, R421). The opcode table has
no command for a configuration read, since one changes nothing (assumption 59). -/

namespace Sys2Proof.Machine

/-- The fields of configuration space that the spec gives a value or a home in the state. -/
inductive ConfigField where
  -- the header (R400)
  | vendorId | deviceId | memorySpaceEnable | busMasterEnable | ioSpaceEnable | interruptDisable | revisionId | classCode | headerType
  | bar (i : Fin 3) | barIs64 (i : Fin 3) | barPrefetchable (i : Fin 3) | subsystemIds | capabilitiesPointer | interruptPin
  -- PCI Express capability (R402, R415)
  | portType | maxPayloadSupported | extendedTag | l0sLatency | l1Latency | flrCapable | timeoutRanges | timeoutDisable | atomic32 | atomic64
  | tphCompleter | tenBitTag | maxPayload | maxReadRequest | timeoutValue | timeoutOff | aspmSupport | l1ExitLatency | aspmL1Enable
  -- options that are absent (R399)
  | cas128 | atomicRequester | relaxedOrdering | idBasedOrdering | ecrcGenerate | ecrcCheck | tphRequester | d1Support | d2Support | l1Substates
  -- DVSECs (R401)
  | cxlDvsecId | locatorDvsecId | locatorEntries | locatorBar | locatorOffset
  -- DVSEC for CXL Devices (R403)
  | cacheCapable | ioCapable | memCapable | hdmCount | writebackCapable | viralCapable | cacheSize | rangeSize | memoryInfoValid | memoryActive
  | mediaType | memoryClass | memoryActiveTimeout | cacheEnable | memEnable | cacheInvalid
  -- MSI-X and MSI (R413, R414)
  | msixTableSize | msixTableOffset | msixPbaOffset | msixBir | msixEnable | functionMask | msiCapable | msi64 | msiMaskCapable | msiEnable
  | msiVectors | msiAddress | msiData | msiMask | msiPending
  -- Power Management (R416)
  | powerState | noSoftReset | pmeSupport | pmeEnable
  -- ATS, PRI, PASID (R272, R276, R290)
  | invalidateQueueDepth | pageAligned | globalInvalidate | atsEnable | priCapacity | priAllocation | priEnable | prgPasidRequired | pasidWidth
  | pasidExecute | pasidPrivileged
  -- Device Serial Number, Resizable BAR, AER (R401, R407, R421)
  | serialNumber | barSizes | barSize | aerCorrectable | aerUncorrectable | aerSeverity | aerHeader
deriving DecidableEq, Repr

/-- A set of bit numbers as a word. -/
def bitsOf (m : NSet) : Nat := m.foldl (fun x i => x + 2 ^ i) 0

/-- What a configuration read shows of a field. -/
def State.configField (s : State) : ConfigField → Nat
  | .vendorId => 0x1F5A
  | .deviceId => 0x0740
  | .memorySpaceEnable => b2n s.host.mse
  | .busMasterEnable => b2n s.host.bme
  | .ioSpaceEnable => 0
  | .interruptDisable => 1
  | .revisionId => Config.stepping.toNat
  | .classCode => 0x120000
  | .headerType => 0
  | .bar i => nth 0 s.host.bars i.val
  | .barIs64 _ => 1
  | .barPrefetchable i => b2n (i.val == 2)
  | .subsystemIds => Config.subsystem.toNat
  | .capabilitiesPointer => 0x40
  | .interruptPin => 0
  | .portType => 0
  | .maxPayloadSupported => 2
  | .extendedTag => 1
  | .l0sLatency => 7
  | .l1Latency => 5
  | .flrCapable => 1
  | .timeoutRanges => 7
  | .timeoutDisable => 1
  | .atomic32 => 1
  | .atomic64 => 1
  | .tphCompleter => 3
  | .tenBitTag => 1
  | .maxPayload => s.host.maxPayload.toNat
  | .maxReadRequest => s.host.maxReadRequest.toNat
  | .timeoutValue => s.host.timeoutValue.toNat
  | .timeoutOff => b2n s.host.timeoutOff
  | .aspmSupport => 2
  | .cas128 | .atomicRequester | .relaxedOrdering | .idBasedOrdering | .ecrcGenerate | .ecrcCheck | .tphRequester | .d1Support | .d2Support
  | .l1Substates => 0
  | .cxlDvsecId => 0x0000
  | .locatorDvsecId => 0x0008
  | .locatorEntries => 1
  | .locatorBar => 0
  | .locatorOffset => 0x800000
  | .l1ExitLatency => 3
  | .aspmL1Enable => b2n s.host.aspmL1
  | .cacheCapable => 1
  | .ioCapable => 1
  | .memCapable => 1
  | .hdmCount => 1
  | .writebackCapable => 1
  | .viralCapable => 0
  | .cacheSize => 32 * 2 ^ 20
  | .rangeSize => 2 ^ 40
  | .memoryInfoValid => 1
  | .memoryActive => 1
  | .mediaType => 0
  | .memoryClass => 0
  | .memoryActiveTimeout => 0
  | .cacheEnable => b2n s.host.cacheEn
  | .memEnable => b2n s.host.memEn
  | .cacheInvalid => b2n s.host.cacheInvalid
  | .msixTableSize => 0x7FF
  | .msixTableOffset => 0x80000
  | .msixPbaOffset => 0x90000
  | .msixBir => 0
  | .msixEnable => b2n s.host.msixEn
  | .functionMask => b2n s.host.functionMask
  | .msiCapable => 5
  | .msi64 => 1
  | .msiMaskCapable => 1
  | .msiEnable => b2n s.host.msiEn
  | .msiVectors => s.host.msiLog2
  | .msiAddress => s.host.msiAddr.toNat
  | .msiData => s.host.msiData.toNat
  | .msiMask => s.host.msiMask.toNat
  | .msiPending => bitsOf s.host.msiPending
  | .powerState => if s.host.d3hot then 3 else 0
  | .noSoftReset => 1
  | .pmeSupport => 2 ^ 0 + 2 ^ 3 + 2 ^ 4
  | .pmeEnable => b2n s.host.pmeEn
  | .invalidateQueueDepth => 32
  | .pageAligned => 1
  | .globalInvalidate => 0
  | .atsEnable => b2n s.host.atsEn
  | .priCapacity => 512
  | .priAllocation => s.host.priAlloc
  | .priEnable => b2n s.host.priEn
  | .prgPasidRequired => 1
  | .pasidWidth => 20
  | .pasidExecute => 0
  | .pasidPrivileged => 0
  | .serialNumber => Config.serialNumber.toNat
  | .barSizes => bitsOf [20, 21, 22, 23, 24]
  | .barSize => 2 ^ s.host.bar4Log2
  | .aerCorrectable => bitsOf s.host.aerCorrectable
  | .aerUncorrectable => bitsOf s.host.aerUncorrectable
  | .aerSeverity => bitsOf s.host.aerSevere
  | .aerHeader => (s.host.aerHeader.map (·.words)).getD 0

/-- The fields of the component registers that the spec gives a value or a home in the state (R404). Their offsets in the block at BAR0
0x080_0000 follow capability pointers of CXL 3.1 that no rule gives (assumption 49). -/
inductive ComponentField where
  | decoderCount | decoderBase | decoderSize | interleaveWays | committed | errorNotCommitted | lockOnCommit | backInvalidate | biDecoder | ras
deriving DecidableEq, Repr

/-- What they show. -/
def State.componentField (s : State) : ComponentField → Nat
  | .decoderCount => 1
  | .decoderBase => s.host.hdm.getD 0
  | .decoderSize => if s.host.hdm.isSome then 2 ^ 40 else 0
  | .interleaveWays => 0
  | .committed => b2n s.host.hdm.isSome
  | .errorNotCommitted => b2n s.host.hdmError
  | .lockOnCommit => b2n s.host.hdmLock
  | .backInvalidate => 1
  | .biDecoder => 1
  | .ras => 1

/-- Where a capability lies in configuration space (R401). -/
def capabilityOffsets : List (String × Nat) :=
  [("Power Management", 0x040), ("MSI", 0x048), ("MSI-X", 0x060), ("PCI Express", 0x070), ("AER", 0x100), ("Device Serial Number", 0x148),
    ("Resizable BAR", 0x158), ("ATS", 0x168), ("PRI", 0x170), ("PASID", 0x180), ("DOE", 0x188), ("DVSEC for CXL Devices", 0x1A0),
    ("Register Locator DVSEC", 0x1E0)]

end Sys2Proof.Machine
end

