-- ==== Sys2Proof/Tests/Slice0.lean ====
section
/-! SUPPORT. The author's own tests: ill-formed terms that each check refuses, one small step of each kind with a result computed by hand
from the spec, and for every statement a concrete state and operands that meet its hypotheses. -/

namespace Sys2Proof.Tests

open Sys2Proof Sys2Proof.Machine

/-! ## Small states -/

/-- Segment slot 0: 16 MiB of device memory from LOCAL address 0, all rights. Slot 1: the next 16 MiB, tagged. Slot 2: 16 MiB for Mica. -/
def segs : Tbl Segment := [(0, ⟨0, 0, 0, 8, true, true, true, false, 0, false, false, false, false⟩),
  (1, ⟨2 ^ 24, 0, 2 ^ 24, 8, true, true, false, false, 0, true, false, false, false⟩),
  (2, ⟨2 ^ 25, 0, 2 ^ 25, 8, true, true, false, false, 0, false, true, false, false⟩)]

def vein : Vein := { tileFirst := 0, tileCount := 4, flintFirst := 0, flintCount := 16, queueQuota := 4, contextQuota := 4, dcache := 0, qcWays := 2
                     ckptUnits := 256, protect := true, prio := 4, classOrder := 0, watchdog := 1000, deadline := 1000, ranges := [⟨0, 64, false, 0⟩] }

/-- Tile 0 runs a launch of task 1 of context 0 in a protected unit; its program counter is 0x1000. -/
def tile : Tile := { role := .mapped, run := .running, task := some 1, isProtected := true, gridCount := 1, context := some 0, pc := 0x1000, lfsr := 1
                     owned := [0, 1, 2], segs := segs, healthy := true }

def task : Task := { mkTask (some 0) 0 0 0 0 with phase := .running, body := .nop, segs := segs }

/-- A structured block with one vein, one context, and owner tags that let its context pass. -/
def base : State :=
  { blk := { booted := true, perst := false, quartz := some 0, state := .structured, ref := 2 ^ 32 * 10000000 }
    own := { st := .held, kind := .sideband, eid := 5, epoch := 7, leaseEnd := 20000000 }
    strata := { inForce := true, str := { veins := [(0, vein)], quarries := 255, tileMap := [(0, 0)] } }
    ctxs := [(0, ⟨0, 3, segs, none⟩)]
    tasks := [(1, task)]
    tiles := [(0, tile), (1, { role := .spare, healthy := true })]
    mem := { tags := (List.range 24).map (fun g => (g, 0x8000#16)) }
    host := { linkUp := true, mse := true, bme := true }
    nextId := 100
    qry := (List.range 8).map (fun q => (q, { present := true, engines := [0, 1, 2, 3], copySpare := true, pllSpareLeft := true, tsvSpares := 2 })) }

/-- `base` with another tile 0. -/
def withTile (x : Tile) : State := { base with tiles := [(0, x), (1, { role := .spare, healthy := true })] }

/-- `base` with a scalar register of tile 0 set. -/
def withReg (r : Reg) (v : Word) : State := withTile (tile.setG r v false)

def ctl : VecCtl := { pg := 0, pen := false, pz := false, ftz := false, rmode := 0, sat := false }

/-! ## Hypotheses of the statements about tiles -/

theorem test_issues_narrow : base.issues 0 false [1, 2, 3] := by unfold State.issues; decide
theorem test_issues_wide : base.issues 0 true [1, 2, 3] := by unfold State.issues; decide
/-- A word put together from its fields, each by its lowest bit and its value, as the tables of chapter 05 lay them out. -/
def word (l : List (Nat × Nat)) : Nat := l.foldl (fun n f => n + f.2 * 2 ^ f.1) 0
/-- A wide word: class 0xF, its group, and its fields (R160, R173). -/
def wide (group : Nat) (l : List (Nat × Nat)) : Nat := word ([(0, 0xF), (19, group)] ++ l)
/-- A state with one word or a wide one at 0x1000, where tile 0 stands. -/
def placed (s : State) (w : Nat) : State :=
  { s with mem := { s.mem with bytes := ((leBytes 8 w).zipIdx.map (fun b => (0x1000 + b.2, b.1))).filter (fun e => e.2 != 0) ++ s.mem.bytes } }
def coded (w0 w1 : Nat) : State := placed base (w0 + 2 ^ 32 * w1)
/-- The words of a command stand where its tile does, and it may issue. -/
def ready (s : State) (e : Nat × Instr) : Bool :=
  let u := placed s e.1
  (u.tile 0).canIssue && decide (u.fetch 0 (wideWord e.1) = .good) && decide (u.spelling 0 e.2 = .same)
    && decide (u.fetch 0 (wideWord (u.codeWord 0 (u.tile 0).pc)) = .good)
theorem test_spells_words : (coded 0xC410 0).spells 0 (.add 0 1 2 3) ∧ (coded 0x2000000F 0x823).spelling 0 (.add 0 1 2 3) = .illegal ∧
    (coded 0xF 0x2000823).spells 0 (.fadd 0 3 1 (.vec 2) { ctl with ftz := true }) ∧ (coded 0xC410 0).spelling 0 (.sub 0 1 2 3) = .other ∧
    (coded 0xC410 0).fetch 0 (wideWord ((coded 0xC410 0).codeWord 0 ((coded 0xC410 0).tile 0).pc)) = .good ∧
    (coded 0x2000000F 0x823).fetch 0 (wideWord ((coded 0x2000000F 0x823).codeWord 0 ((coded 0x2000000F 0x823).tile 0).pc)) = .good ∧
    isTileEvent (.sub 0 1 2 3) = false := by unfold State.spells; decide
/-- Placing words changes no more than them. -/
theorem placed_only (s : State) (w : Nat) : placed s w = { s with mem := { s.mem with bytes := (placed s w).mem.bytes } } := rfl

/-- An instruction of every kind that a scalar statement is about. -/
theorem test_spells_scalar : ([(word [(4, 1), (9, 2), (14, 3)], Instr.add 0 1 2 3), (word [(4, 1), (9, 2), (14, 3), (19, 0x14)], .div 0 1 2 3),
    (word [(4, 1), (9, 2), (19, 0x18)], .clz 0 1 2), (word [(0, 1), (4, 1), (9, 2), (19, 0x1FFF)], .addi 0 1 2 0x1FFF),
    (word [(0, 1), (4, 1), (9, 2), (14, 5), (19, 63)], .slli 0 1 2 63), (word [(0, 1), (4, 1), (9, 2), (14, 5), (19, 64)], .slli 0 1 2 64),
    (word [(0, 2), (4, 1), (9, 2), (14, 7)], .shins 0 1 2 7), (word [(0, 3), (4, 1), (9, 2), (14, 3), (19, 0x1FFF)], .bne 0 2 3 0x1FFF),
    (word [(0, 4), (4, 1), (9, 2)], .jal 0 1 2), (word [(0, 5), (4, 1), (9, 2), (19, 4)], .jalr 0 1 2 4),
    (word [(0, 6), (4, 1), (9, 2), (14, 3 + 16)], .load 0 1 2 ⟨3, false, false, true⟩ 0 .good (.corrected 0)),
    (word [(0, 7), (4, 2 + 16), (9, 2), (14, 3)], .store 0 3 2 ⟨2, false, false, true⟩ 0 .good),
    (word [(0, 8), (4, 1), (9, 2), (23, 1), (26, 1)], .lr 0 1 2 ⟨true, false, false, true⟩ .clean .good),
    (word [(0, 8), (4, 1), (9, 2), (14, 3), (19, 1), (23, 1), (26, 1)], .sc 0 1 2 3 ⟨true, false, false, true⟩ .good),
    (word [(0, 8), (4, 1), (9, 2), (14, 3), (19, 4), (23, 1), (26, 1)], .amoCas 0 1 2 3 ⟨true, false, false, true⟩ .clean .good),
    (word [(0, 9), (19, 1)], .ldfence 0), (word [(0, 9), (19, 2)], .stfence 0), (word [(0, 9), (19, 3)], .fullfence 0 .good),
    (word [(0, 0xA), (4, 1), (19, 0x20)], .csrr 0 1 0x20), (word [(0, 0xA), (9, 2), (19, 0x31), (31, 1)], .csrw 0 2 0x31),
    (word [(0, 0xB), (19, 0), (23, 5)], .commit 0 5), (word [(0, 0xB), (19, 1), (23, 5)], .yield 0 5), (word [(0, 0xB), (19, 2)], .halt 0 .good),
    (word [(0, 0xB), (19, 3), (23, 0x1FF)], .trap 0 0x1FF)] : List (Nat × Instr)).all (ready base) = true := by decide +kernel
/-- The same of the vector and predicate instructions. -/
theorem test_spells_vector : ([(wide 0 [(32, 3), (37, 1), (42, 2)], Instr.fadd 0 3 1 (.vec 2) ctl), (wide 0 [(24, 0x80), (9, 7), (32, 3), (37, 1)], .fadd 0 3 1 (.scal 7) ctl),
    (wide 0 [(24, 3), (32, 3), (37, 1), (42, 2), (47, 4)], .ffma 0 3 1 (.vec 2) 4 ctl), (wide 0 [(24, 9), (32, 3), (37, 1)], .fsqrt 0 3 1 ctl),
    (wide 0 [(24, 0x11), (32, 5), (37, 1), (42, 2)], .fclt 0 5 1 (.vec 2) ctl), (wide 1 [(24, 0x10), (32, 5), (37, 1), (42, 2)], .vceq 0 5 1 (.vec 2) ctl),
    (wide 4 [(24, 3), (32, 1), (37, 2), (42, 3)], .pandn 0 1 2 3 ctl), (wide 4 [(24, 5), (9, 2), (32, 1)], .pfromg 0 1 2 ctl),
    (wide 4 [(24, 6), (4, 1), (37, 2)], .ptog 0 1 2), (wide 4 [(24, 7), (4, 1), (37, 2)], .pcnt 0 1 2),
    (wide 1 [(32, 3), (37, 1), (42, 2)], .vadd 0 3 1 (.vec 2) ctl), (wide 1 [(24, 0x20), (32, 3), (37, 1), (42, 2)], .vsel 0 3 1 (.vec 2) ctl),
    (wide 1 [(24, 0x21), (9, 2), (32, 3)], .vbcast 0 3 2 ctl), (wide 1 [(24, 0x22), (32, 3)], .vlane 0 3 ctl),
    (wide 1 [(24, 0x23), (4, 1), (14, 2), (37, 5)], .vext 0 1 2 5), (wide 3 [(24, 1), (32, 3), (37, 1), (42, 2)], .vperm 0 3 1 2 ctl),
    (wide 3 [(24, 2), (4, 1), (37, 5)], .vredFadd 0 1 5 ctl), (wide 3 [(24, 4), (4, 1), (37, 5)], .vredAdd 0 1 5 ctl),
    (wide 3 [(24, 5), (4, 1), (37, 5)], .vredMax 0 1 5 ctl), (wide 3 [(4, 0), (14, 6), (32, 3), (37, 1)], .vcvt 0 3 1 0 6 ctl),
    (wide 2 [(9, 2), (32, 3)], .vld 0 3 2 ctl .clean), (wide 2 [(24, 1), (9, 2), (32, 3)], .vst 0 3 2 ctl),
    (wide 2 [(24, 3), (9, 2), (14, 4), (32, 3)], .vsts 0 3 2 4 ctl), (wide 2 [(24, 4), (9, 2), (32, 3), (37, 1)], .vgather 0 3 1 2 ctl .clean)]
      : List (Nat × Instr)).all (ready base) = true := by decide +kernel
/-- The same of the units' and the synchronisation instructions. -/
theorem test_spells_units : ([(wide 8 [(9, 1), (14, 2), (34, 1), (38, 1)], Instr.mma 0 1 2 ⟨0, 1, 1, 0, 0, 0, 0⟩),
    (wide 8 [(24, 2), (32, 3), (40, 0x8000)], .accAnchor 0 3 false 0x8000), (wide 8 [(24, 3), (9, 1), (32, 3), (34, 1)], .accLoad 0 1 3 true .clean),
    (wide 8 [(24, 4), (9, 1), (32, 3)], .accStore 0 1 3), (wide 8 [(24, 6), (32, 15)], .accWait 0 15),
    (wide 8 [(24, 5), (9, 1), (32, 0), (43, 0), (49, 63)], .accCvt 0 1 0 ⟨0, 0, 0, false, false, false, 0, 63⟩),
    (wide 0x10 [(9, 2), (14, 3), (32, 1)], .feFill 0 2 3 ⟨true, false, 0, 0, 0⟩ .good), (wide 0x10 [(24, 1), (4, 1), (9, 2), (32, 1)], .feTake 0 1 2 ⟨true, false, 0, 0, 0⟩ .clean),
    (wide 0x10 [(24, 2), (4, 1), (9, 2), (32, 1), (33, 1), (34, 5)], .fePeek 0 1 2 ⟨true, true, 5, 0, 0⟩ .clean),
    (wide 0x10 [(24, 8), (9, 2), (14, 3)], .sigAdd 0 2 3 ⟨false, false, 0, 0, 0⟩ .good), (wide 0x10 [(24, 9), (9, 2), (14, 3), (37, 4)], .sigSub 0 2 3 ⟨false, false, 0, 4, 0⟩ .good),
    (wide 0x10 [(24, 0xC), (4, 1), (9, 2)], .barArrive 0 1 2 ⟨false, false, 0, 0, 0⟩ .good), (wide 0x10 [(9, 2), (14, 3)], .feFill 0 2 3 ⟨false, false, 0, 0, 0⟩ .good),
    (wide 0x10 [(24, 0xA), (4, 1), (9, 2), (14, 3), (42, 2)], .sigWait 0 1 2 3 ⟨false, false, 0, 0, 2⟩),
    (wide 0x10 [(24, 0xD), (9, 2), (14, 3)], .barWait 0 2 3 ⟨false, false, 0, 0, 0⟩), (wide 0x10 [(24, 0x10), (9, 5), (14, 3)], .lcWait 0 5 3)]
      : List (Nat × Instr)).all (ready base) = true := by decide +kernel

theorem test_issues_none : base.issues 0 false [] ∧ base.issues 0 true [] ∧ base.issues 0 true [1, 2, 0, 0, 0] := by unfold State.issues; decide

/-- ControlTransfers: both targets of `jalr`, forward and backward branches. -/
theorem test_hyp_ControlTransfers : ready (withReg 2 0x2000) (word [(0, 5), (4, 1), (9, 2)], .jalr 0 1 2 0) = true ∧
    ready (withReg 2 0x2000) (word [(0, 5), (4, 1), (9, 2), (19, 2)], .jalr 0 1 2 2) = true ∧
    (withReg 2 0x2000).issues 0 false [1, 2] ∧ (((withReg 2 0x2000).tile 0).gr 2 + wrap64 (0#13).toInt).toNat % 4 = 0 ∧
      (((withReg 2 0x2000).tile 0).gr 2 + wrap64 (2#13).toInt).toNat % 4 ≠ 0 ∧ ((withReg 2 0x2000).tile 0).gr 1 = 0 := by
  unfold State.issues; decide

theorem test_hyp_vector : VecCtl.plainFp ctl ∧ VecCtl.plainInt ctl ∧ base.issues 0 true (VSrc.regs (.vec 1)) ∧ base.issues 0 true (VSrc.regs (.scal 3)) := by
  unfold VecCtl.plainInt VecCtl.plainFp State.issues; decide

/-- Reductions, VectorPermute: some lane is active. -/
theorem test_hyp_Reductions : VecCtl.plainFp ctl ∧ ctl.pz = false ∧ (List.range 64).filter (fun i => tile.active ctl i) ≠ [] := by unfold VecCtl.plainFp; decide

theorem test_hyp_Conversion : (vcvtFormat 0).isSome = true ∧ (vcvtFormat 6).isSome = true ∧ ctl.rmode = 0 := by decide

/-- VectorMemory: the first and the last lane that lie in scratch. -/
theorem test_hyp_VectorMemory :
    (∀ i ∈ (List.range 64).filter (fun i => tile.active ctl i), tile.laneAddr 0 (fun i => BitVec.ofNat 64 (4 * i)) i % 4 = 0 ∧
      base.inScratch 0 (tile.laneAddr 0 (fun i => BitVec.ofNat 64 (4 * i)) i) 4 = true ∧
      tile.meetsStable (tile.laneAddr 0 (fun i => BitVec.ofNat 64 (4 * i)) i) 4 = false) ∧
      base.conflict 0 [⟨0, 4⟩] [⟨0, 4⟩] = false := by decide

/-- ScratchAccesses: the last word of scratch. -/
theorem test_hyp_ScratchAccesses : base.inScratch 0 (base.scratchSize 0 - 8) 8 = true ∧ (base.scratchSize 0 - 8) % 8 = 0 ∧
    base.inScratch 0 (base.scratchSize 0 - 7) 8 = false ∧ tile.meetsStable (base.scratchSize 0 - 8) 8 = false ∧
    base.conflict 0 [⟨0, 8⟩] [⟨0, 8⟩] = false := by decide

def sync (l : Bool) : SyncCtl := ⟨l, false, 0, 0, 0⟩

/-- LocalWords: an empty word and a full one. -/
theorem test_hyp_LocalWords : SyncCtl.plain (sync true) true ∧ base.inScratch 0 0 8 = true ∧ setHas tile.full 0 = false ∧
    setHas ({ tile with full := [0] } : Tile).full 0 = true ∧ base.conflict 0 [⟨0, 8⟩] [⟨0, 8⟩] = false ∧ base.issues 0 true [1, 2, 0] := by
  unfold SyncCtl.plain State.issues; decide

/-- HeldEffectsAndFences: an object of the block, one of another device, a tagged word. -/
theorem test_hyp_HeldEffects : tile.isProtected = true ∧ SyncCtl.plain (sync false) false ∧ base.objOk 0 2 = true ∧ base.objOk 0 3 = false ∧
    (∃ g, findSeg tile.segs (2 ^ 24) = some g ∧ g.w = true ∧ g.tagged = true ∧ g.device = base.fab.self) ∧ isHostVa (2 ^ 24) = false ∧
    tile.heldBytes + (Effect.sig none 2 false 1).cost ≤ 2 ^ 18 := by
  refine ⟨by decide, by unfold SyncCtl.plain; decide, by decide, by decide, ⟨_, rfl, by decide, by decide, by decide⟩, by decide, by decide⟩

/-- OutsideAccesses: g2 holds the foot of the tagged segment. -/
def outside (pr : Bool) : State := withTile { (tile.setG 2 0x1000000#64 false) with isProtected := pr }
theorem test_hyp_OutsideAccesses : ∀ pr : Bool, let s := outside pr
    let x := s.tile 0
    isHostVa (2 ^ 24) = false ∧ (∃ g, findSeg x.segs (2 ^ 24) = some g ∧ g.r = true ∧ g.w = true ∧ g.isDevice = false ∧ g.device = s.fab.self ∧
      g.tagged = true ∧ g.local' (2 ^ 24) = 2 ^ 24) ∧ x.acquiring = false ∧ (x.gr 2 + wrap64 (0#13).toInt).toNat = 2 ^ 24 ∧ (x.gr 2).toNat = 2 ^ 24 ∧
      s.issues 0 false [1, 2, 3] ∧ s.issues 0 true [1, 2, 3, 0] ∧ x.heldBytes + (16 + roundUp 8 16) ≤ 2 ^ 18 ∧ x.pend = [] ∧ x.held = [] ∧
      x.released = [] ∧ x.moves = [] ∧ x.miss = none ∧ x.dcache = [] ∧ x.unitDone = true ∧ s.carryCause 0 x.lastFiles = none := by
  intro pr; cases pr <;> (unfold State.issues; exact ⟨by decide, ⟨_, rfl, by decide⟩, by decide⟩)
theorem test_spells_outside : ∀ pr : Bool, ([(word [(0, 6), (4, 1), (9, 2), (14, 3)], Instr.load 0 1 2 ⟨3, false, false, false⟩ 0 .good .clean),
    (word [(0, 7), (4, 3), (9, 2), (14, 3)], .store 0 3 2 ⟨3, false, false, false⟩ 0 .good), (word [(0, 8), (4, 1), (9, 2), (23, 1)], .lr 0 1 2 ⟨true, false, false, false⟩ .clean .good),
    (word [(0, 8), (4, 1), (9, 2), (14, 3), (19, 2), (23, 1)], .amoAdd 0 1 2 3 ⟨true, false, false, false⟩ .clean .good),
    (wide 0x10 [(24, 1), (4, 1), (9, 2)], .feTake 0 1 2 ⟨false, false, 0, 0, 0⟩ .clean), (wide 0x10 [(24, 2), (4, 1), (9, 2)], .fePeek 0 1 2 ⟨false, false, 0, 0, 0⟩ .clean),
    (wide 0x10 [(24, 2), (4, 1), (9, 2), (33, 1), (34, 5)], .fePeek 0 1 2 ⟨false, true, 5, 0, 0⟩ .clean)] : List (Nat × Instr)).all (ready (outside pr)) = true := by
  decide +kernel
theorem test_hyp_OutsideAccesses_object : (withTile { tile with isProtected := false }).objOk 0 2 = true := by decide

def loading : PendOp := ⟨9, .load, 4, 0, 8, true, [], false, [(8, 0, 8)], [], false, false, 0x1000, 0⟩

/-- A tile with a dirty line, and without. -/
def dirtied : Tile := { tile with isProtected := false, dcache := [⟨false, 8, true, [], [], 0, none⟩] }
theorem test_hyp_Parity : ¬ dirtied.readsGood .dataBad ∧ dirtied.readsGood .good ∧ tile.readsGood .tagBad ∧
    ready (withTile dirtied) (word [(0, 9), (19, 3)], .fullfence 0 .dataBad) = true ∧ ready (withTile dirtied) (word [(0, 0xB), (19, 2)], .halt 0 .tagBad) = true ∧
    0 ∈ base.veinTiles 0 := by
  unfold Tile.readsGood; decide
theorem test_hyp_Fences : tile.storing = false ∧ ready (withTile { tile with isProtected := false }) (word [(0, 9), (19, 3)], .fullfence 0 .good) = true ∧
    ready (withTile { tile with pend := [loading] }) (word [(0, 9), (19, 1)], .ldfence 0) = true ∧
    ready (withTile { tile with pend := [loading] }) (word [(0, 9), (19, 3)], .fullfence 0 .good) = true ∧
    (∀ p ∈ tile.pend, p.kind = .ack) ∧ (∀ m ∈ tile.moves, m.ctl.outbound = true) ∧ tile.pend = [] ∧ tile.released = [] ∧ (∀ p ∈ ({ tile with pend := [loading] } : Tile).pend, p.kind ≠ .ack) ∧
    (withTile { tile with pend := [loading] }).issues 0 false [] ∧ (withTile { tile with isProtected := false }).issues 0 false [] := by
  unfold State.issues; decide

theorem test_hyp_Waits : base.objOk 0 0 = true ∧ tile.acquiring = false ∧ tile.writesOut = false ∧ tblGet 0 tile.lc 3 < 1 := by decide

theorem test_hyp_UnitEnds : tile.unitDone = true ∧ (∀ h ∈ tile.held, h.retranslate = false) ∧ tile.storing = false ∧
    ready (withTile { tile with isProtected := false }) (word [(0, 0xB), (19, 0), (23, 5)], .commit 0 5) = true ∧
    ready (withTile { tile with isProtected := false }) (word [(0, 0xB), (19, 1), (23, 5)], .yield 0 5) = true ∧
    ready (withTile { tile with isProtected := false }) (word [(0, 0xB), (19, 2)], .halt 0 .good) = true ∧ base.carryCause 0 0 = none ∧ base.issues 0 false [] := by unfold State.issues; decide

/-- MatrixUnit: an `mma` of two half-precision operands at the foot of scratch; a queue with one product; a file that is awaited. -/
def mmaHalf : MmaCtl := ⟨0, 1, 1, 0, 0, 0, 0⟩
def product : MmaOp := ⟨mmaHalf, false, 0, 0x4000, 0, 0, 0, 0x1000⟩
def accStore0 : AccOp := ⟨5, 0, .store, [], [⟨0, 67600⟩], 1⟩
theorem test_hyp_MatrixUnit : pairOk 1 1 false = true ∧ hasScales 1 = false ∧ mmaHalf.gsa = 0 ∧ mmaHalf.gmd = 0 ∧
    (∀ r ∈ product.reads, r.len ≠ 0 → r.base % 64 = 0 ∧ base.inScratch 0 r.base r.len = true) ∧ base.conflict 0 product.reads [] = false ∧
    tile.matQueue.length < 4 ∧ ({ tile with matQueue := [.mma product] } : Tile).matQueue = .mma product :: [] ∧ tile.mmaRunning = none ∧
    tile.fileRuns product.m.acc = false ∧ tile.fileFree 0 = true ∧ ({ tile with accOps := [accStore0] } : Tile).fileFree 0 = false ∧
    ({ tile with mmaRunning := some product } : Tile).mmaRunning = some product ∧ tile.onlyProducts ∧
    (∃ r ∈ product.reads, r.len ≠ 0 ∧ r.base / 8 ≤ r.base / 8 ∧ r.base / 8 ≤ (r.base + r.len - 1) / 8) ∧
    ({ tile with matQueue := [.mma product, .mma product, .mma product, .mma product] } : Tile).matQueue.length = 4 ∧
    ∃ o ∈ ({ tile with accOps := [accStore0] } : Tile).accOps, o.slot = 5 :=
  ⟨by decide, by decide, by decide, by decide, by decide, by decide, by decide, rfl, by decide, by decide, by decide, by decide, rfl, (fun _ h => by cases h), by decide, rfl,
    accStore0, by decide, by decide⟩

/-- TermSums: a term on, above and below the grid; two terms whose sums stay in range. -/
theorem test_hyp_TermSums : ((({} : AccEntry).term 0 (.fin false 1 0)).term 0 (.fin true 3 (-1))).ovf = false ∧
    ((({} : AccEntry).term 0 (.fin true 3 (-1))).term 0 (.fin false 1 0)).ovf = false := by decide

/-- AccumulatorFiles: an image at the foot of scratch; a conversion of the last row. -/
theorem test_hyp_AccumulatorFiles : tile.fileFree 0 = true ∧ base.inScratch 0 0 67600 = true ∧ tile.meetsStable 0 67600 = false ∧
    base.conflict 0 [] [⟨0, 67600⟩] = false ∧ base.conflict 0 [⟨0, 67600⟩] [] = false ∧ cvtTarget 0 = some fmtFP32 ∧ mxTarget 0 = false ∧
    (63#6).toNat + (0#6).toNat ≤ 63 ∧ base.inScratch 0 0 (8 * 32 * 1) = true ∧ base.conflict 0 [] [⟨0, 256⟩, ⟨0, 0⟩] = false := by decide

/-- TensorMoves: a move of one run of sixteen 32-bit elements at device-virtual 2 MiB, and one of none. -/
def moveMem (n : Byte) : Mem := [(2, 0x20), (9, 4), (0xC, n), (0x10, 1), (0x12, 1), (0x14, 1)]
def moving (n : Byte) : State := withTile { tile with scratch := moveMem n }
def inbound : TmoveCtl := ⟨0, false, false, 0, 0, 0, false, false⟩
def outbound : TmoveCtl := ⟨0, false, true, 0, 0, 0, false, false⟩
theorem test_hyp_TensorMoves : ready (moving 16) (wide 0xC [], .tmove 0 0 inbound .clean noDramFinding .good) = true ∧
    ready (moving 16) (wide 0xC [(36, 1)], .tmove 0 0 outbound .clean noDramFinding .good) = true ∧ tile.moves.length < 16 ∧ tile.deviceOut = false ∧
    tile.observing = false ∧ tile.storing = false ∧ tile.heldBytes + 1 * runCost 64 ≤ 2 ^ 18 ∧
    (moving 16).issues 0 true [0] ∧ (moving 16).inScratch 0 0 64 = true ∧ (moving 16).conflict 0 [⟨0, 64⟩] [] = false ∧
      let d := readDesc (moveMem 16) 0
      d.reservedOk = true ∧ nth 0 d.size 0 = 16 ∧ d.runs = [(0x200000, 0x400)] ∧ countOk 16 0 = true ∧ runBytes 16 0 = 64 ∧
      (∀ v ∈ d.size.drop 1, v ≠ 0) ∧
      (∀ q ∈ d.runs, (moving 16).inScratch 0 q.2 64 = true ∧ tile.meetsStable q.2 64 = false) := by
  unfold State.issues; decide
theorem test_hyp_TensorMoves_parts :
    ∀ out : Bool, ∀ p ∈ (moving 16).moveParts 0 [(0x200000, 0x400)] 64 out, p.dst = some (.device 0x200000 true) ∧
      (moving 16).rangePass (some 0) 0x200000 p.len = true ∧ (moving 16).hostHeld 0x200000 p.len false = [] ∧
      ∀ i, i < p.len → (moving 16).inFlight 0 (.device (0x200000 + i) true) = false ∧ tile.ownByte (.device (0x200000 + i) true) = none := by decide
theorem test_hyp_TensorMoves_none : nth 0 (readDesc (moveMem 0) 0).size 0 = 0 ∧ (readDesc (moveMem 0) 0).reservedOk = true := by decide
def ended : Move := ⟨3, inbound, 0x400, [16, 1, 1, 1], [0, 0, 0], 0x1000, 0, List.replicate 64 (7, false), [], [], [], false⟩
theorem test_hyp_MoveCompletion : ({ tile with moves := [ended] } : Tile).moves.find? (fun m => m.slot == 3) = some ended ∧ ended.hosts = [] ∧ ended.gets = [] ∧
    ended.overlay = [] ∧ ended.ctl.srcFmt = ended.ctl.dstFmt ∧ tile.isProtected = true ∧
    ended.buf.length = runBytes (nth 0 ended.size 0) ended.ctl.srcFmt.toNat *
      (⟨0, ended.local', ended.size, [0, 0, 0], ended.localStride, true⟩ : MoveDesc).runs.length := by decide

/-- MicaCommands: one row of 64 FP8 weights in stack 0, activations at scratch 0x100, the result at 0x200 or, for the other, in device memory. -/
def micaMem (flags : Byte) : Mem :=
  [(3, 2), (0x11, 1), (0x21, 2), (0x28, 1), (0x2C, 1), (0x34, 64), (0x38, 1), (0x39, 3), (0x3A, 3), (0x3C, flags)]
def micaBlock (flags : Byte) : MicaBlock := parseMica (memRead (micaMem flags) 0 64)
def micaState (flags : Byte) : State := withTile { tile with scratch := micaMem flags }
theorem test_hyp_MicaIssue : ready (micaState 3) (wide 0xD [(32, 6)], .micaGemv 0 0 6 .clean .good) = true ∧
    ready (micaState 1) (wide 0xD [(32, 6)], .micaGemv 0 0 6 .clean .good) = true ∧ tile.micas.length < 4 ∧ (micaBlock 3).outLocal = true ∧ (micaState 3).micaCause (some 0) segs (micaBlock 3) = none ∧
    (micaBlock 1).outLocal = false ∧ (micaState 1).micaCause (some 0) segs (micaBlock 1) = none ∧ (micaBlock 3).members = [0] ∧
    (∀ q ∈ (micaBlock 3).members, (tblGet [] base.mica.queue q).length < 16) ∧
    (micaState 3).conflict 0 (micaBlock 3).localReads (micaBlock 3).localWrites = false := by decide
def micaCmd : MicaCmd := mkMica (micaBlock 3) 0 segs (some 0) (some 1) 2 []
def micaRun : State :=
  { micaState 3 with mica := { cmds := [(7, { micaCmd with started := [0] })], running := [(0, 7)] } }
def micaDone : State := { micaState 3 with mica := { cmds := [(7, { micaCmd with done := [0] })] } }
def micaWait : State := { micaState 3 with mica := { cmds := [(7, micaCmd)], queue := [(0, [7])] } }
theorem test_hyp_MicaStreaming : tblFind micaWait.mica.cmds 7 = some micaCmd ∧ tblGet [] micaWait.mica.queue 0 = 7 :: [] ∧ tblFind micaWait.mica.running 0 = none ∧
    micaCmd.started = [] ∧ micaCmd.ahead = 0 ∧ micaCmd.issuer = some 0 ∧ (∀ p ∈ (micaWait.tile 0).pend, p.reads = true ∨ micaCmd.limit ≤ p.id) ∧
    (∀ e ∈ micaWait.tiles, e.2.released = []) ∧ micaWait.sourcesHeld = false ∧
    (∀ r ∈ micaCmd.block.outerReads, ∀ p ∈ micaCmd.device r.1 r.2, micaWait.hostHeld p.1 p.2 false = []) ∧ micaWait.micaRefused micaCmd = none ∧
    0 < micaCmd.block.m ∧ tblGet 0 micaCmd.nextTerm 0 < micaCmd.block.terms ∧
    tblFind micaRun.mica.running (nth 8 micaCmd.block.members (micaCmd.block.memberOf 0)) = some 7 ∧
    micaRun.recent (tblGet [] micaRun.mica.residue (0 * 1024 + 5)) = [] ∧ base.flt.log = [] := by decide
theorem test_hyp_MicaCompletion : (∀ q ∈ micaCmd.block.members, setHas ({ micaCmd with done := [0] } : MicaCmd).done q = true) ∧ micaCmd.tile = some 0 ∧
    micaCmd.block.outLocal = true ∧ (base.task? 1).isSome = true := by decide

/-- Launches. -/
def launchTask : Task := { task with body := .launch ⟨0x1000, 0, 1, 1, 0, 0, 0, 0, []⟩, phase := .dispatched, tiles := [0] }
def launching : State := { base with tasks := [(1, launchTask)], tiles := [(0, { role := .mapped, healthy := true }), (1, { role := .spare, healthy := true })] }
theorem test_hyp_LaunchStart : launching.task? 1 = some launchTask ∧ launchTask.tiles ≠ [] ∧ launching.launchHeld launchTask.vein = false ∧
    launching.heldBack 1 launchTask = false ∧ launching.served 0 = some 0 ∧ (launching.tile 0).task = none ∧ (launching.tile 0).role = .mapped := by decide
def filling : State := withTile { tile with run := .filling, stable := some ⟨0x400, 64⟩, stableSrc := 0x200000 }
theorem test_hyp_StableRegion : (filling.tile 0).run = .filling ∧ (filling.tile 0).stable = some ⟨0x400, 64⟩ ∧
    (∀ p ∈ filling.stableParts 0, p.2.2.2 = true ∧ filling.hostHeld p.2.1 p.2.2.1 false = []) ∧ filling.stableParts 0 ≠ [] := by decide
theorem test_hyp_UnitEvents : (∀ h ∈ tile.released, h.asks = false) ∧ ({ tile with run := .committing, afterCommit := 1 } : Tile).afterCommit = 1 ∧ tile.afterCommit ≠ 1 ∧ tile.retireAsked = false ∧
    tile.rotateAsked = false ∧ (∀ p ∈ tile.pend, p.kind = .ack) ∧ ({ tile with unitCycles := 50000 } : Tile).canIssue = true ∧
    tile.idleUnit .matrix = true ∧ tile.role = .mapped := by decide

/-- TileReplay: a spare in the tile's quarry; a checkpoint; a wait past its watchdog of 1,000 ticks, and one of an unbounded object. -/
def ckpt : Checkpoint := { pc := 0x2000 }
theorem test_hyp_TileReplay : ({ tile with run := .replaying, ckpt0 := some ckpt } : Tile).stable = none ∧
    ({ tile with run := .replaying, ckpt0 := some ckpt } : Tile).afterCommit = 0 ∧ tile.ckptLost = false ∧ base.spareFor (quarryOf 0) = some 1 ∧
    ({ tile with run := .replaying, ckpt0 := some ckpt } : Tile).validCkpt = some ckpt ∧
    (withTile { tile with run := .replaying, ckpt0 := some ckpt }).stillDrains 0 = false := by decide
def waiter (w : WaitRef) : Waiter := ⟨w, 4, some 2, none, false, .ge 5, 1000⟩
def waiting (unb : Bool) (w : WaitRef) : State :=
  { withTile { tile with run := .waiting .sigWait, waitSeq := some (4, 0) } with
    flint := { objs := [(2, { state := 1, unbounded := unb })], waiters := [waiter w] } }
theorem test_hyp_Watchdog : waiter (.tile 0) ∈ (waiting false (.tile 0)).flint.waiters ∧ (waiting false (.tile 0)).vein? 0 = some vein ∧
    1000 + vein.watchdog ≤ (waiting false (.tile 0)).now ∧ ((waiting false (.tile 0)).objView 2).unbounded = false ∧
    ((waiting true (.tile 0)).objView 2).unbounded = true ∧
    (∀ e ∈ (waiting false (.task 1)).flint.waiters, e.who = .task 1 → e = waiter (.task 1)) ∧ (waiting false (.task 1)).task? 1 = some task := by decide

/-- A wait on a tile-local word past its watchdog, and one on a local counter. -/
def waitingHere (k : WaitKind) : State := withTile { tile with run := .waiting k, waitSeq := some (0, 5), waitAddr := some 8 }
theorem test_hyp_WatchdogHere : ∀ k ∈ [WaitKind.feTake, .fePeek, .lcWait], (∀ e ∈ (waitingHere k).flint.waiters, e.who ≠ .tile 0) ∧
    ((waitingHere k).tile 0).run = .waiting k ∧ ((waitingHere k).tile 0).waitSeq = some (0, 5) ∧
    (waitingHere k).vein? ((waitingHere k).tile 0).vein = some vein ∧ 5 + vein.watchdog ≤ (waitingHere k).now := by decide

/-! ## Hypotheses of the statements about memory, homes and snoops -/

theorem not_owned {x : SectSt} (h : x = .i) : ∀ o, x ≠ .m o := by intro o e; rw [h] at e; cases e

theorem unowned_of {s : State} {a n : Nat} (h : ∀ x ∈ sectorsOf a n, s.sectSt x = .i) : s.unowned a n := fun x hx => not_owned (h x hx)

/-- CacheControl: each kind of cache, enabled and disabled, invalidated and not. -/
def cacheOff (inv : Bool) : State := withTile { tile with dctl := ⟨false, inv⟩ }
theorem test_hyp_CacheControl : base.cacheCtl (.tileData 0) = some ⟨true, true⟩ ∧ (cacheOff true).cacheCtl (.tileData 0) = some ⟨false, true⟩ ∧
    (cacheOff false).cacheCtl (.tileData 0) = some ⟨false, false⟩ ∧ (cacheOff false).noFold .notInvalidated 0 0 ∧
    base.cacheCtl (.quarryCache 7) = some ⟨true, true⟩ ∧ (base.cacheCtl (.copyEngine 7 3)).isSome = true ∧ privNo (.quartzData 1) = some 3 ∧ base.cacheCtl (.quartzData 1) = none ∧
    privNo (.sequencer 31) = some 1055 ∧ base.cacheCtl (.sequencer 31) = none := by unfold State.noFold; decide

/-- The answers of a miss on sector 1 of device memory and of the host's two lines; an instruction line; an offer with room and without. -/
def missing (l n : Nat) : State :=
  { withTile { tile with miss := some ⟨9, n, 0x80, [l], none, none⟩ } with
    rsps := [(9, { dst := .tile 0, task := none, st := .ok })], homes := { dir := [(0, ⟨[0], [.i, .m 0, .i, .i]⟩)] } }
def upLine (a : Nat) : UpReq := ⟨.tile 0, none, .rdShared, 3, a, 64, [], false, false, true, none, none⟩
def missingHost : State := { missing 3 2 with rsps := [], host := { base.host with up := [(9, upLine 0x80), (10, upLine 0xC0)] } }
def codeLine : State := withTile { tile with icache := [⟨false, 0x1000 / 128, false, [], [], 0, none⟩] }
def offering : State := { base with pkts := [(9, ⟨.tile 0, some 0, .offer 1, none, false, false, 0⟩)] }
def offeringFull : State := { offering with qc := { queue := [(offering.qcSlice 1, List.replicate 24 (77, 0))] } }
theorem test_hyp_CacheFill : ((missing 2 1).tile 0).miss = some ⟨9, 1, 0x80, [2], none, none⟩ ∧ (∃ r, tblFind (missing 2 1).rsps 9 = some r ∧ r.st = .ok) ∧
    (missing 2 1).sectSt (2 / 2 * (missing 2 1).lineSize 0 / 128) = .m 0 ∧
    (missingHost.tile 0).miss = some ⟨9, 2, 0x80, [3], none, none⟩ ∧ (∀ i, i < 2 → ∃ r, tblFind missingHost.host.up (9 + i) = some r ∧ r.sent = true) ∧
    (∀ e ∈ missingHost.host.up, e.2.sent = true ∧ e.2.va = none) ∧ base.sourcesHeld = false ∧
    (List.replicate 128 (7 : Byte)).length = missingHost.lineSize 0 ∧
    tile.role = .mapped ∧ tile.task.isSome = true ∧ tile.ictl.enabled = true ∧ (∀ y ∈ tile.icache, y.line ≠ 0x1000 / 128) ∧
    base.fetchWord 0 (0x1000 / 4 * 4) = .good ∧ (∃ g, findSeg tile.segs 0x1000 = some g ∧ g.device = base.fab.self) ∧
    (∃ y ∈ (codeLine.tile 0).icache, y.line = 0x1000 / 128) ∧ codeLine.noFold .cacheParity (quarryOf 0) 0 ∧
    (offering.pkts.find? (fun e => decide (e.2.src = .tile 0) && decide (e.2.req = .offer 1))).isSome = true ∧
    offering.qcWaysFor (offering.qcPlace 1) (offering.tile 0).vein ≠ [] ∧ (tblGet [] offering.qc.queue (offering.qcSlice 1)).length < 24 ∧
    24 ≤ (tblGet [] offeringFull.qc.queue (offeringFull.qcSlice 1)).length ∧ (∀ q ∈ tblGet [] offeringFull.qc.queue (offeringFull.qcSlice 1), q.1 ≠ 1) ∧
    tblFind offeringFull.qc.lines 1 = none ∧ (tblGet ({} : CacheCtl) offering.qc.ctl (offering.stackOf (1 * 128))).enabled = true := by
  refine ⟨by decide, ⟨_, rfl, rfl⟩, by decide, by decide, ?_, by decide, by decide, by rw [List.length_replicate]; decide, by decide, by decide, by decide, by decide, by decide,
    ⟨_, rfl, rfl⟩, ⟨_, List.mem_singleton.mpr rfl, rfl⟩, (fun _ h => by cases h), by decide, by decide, by decide, by decide, by decide, by decide, by decide⟩
  intro i hi
  match i, hi with
  | 0, _ => exact ⟨_, rfl, rfl⟩
  | 1, _ => exact ⟨_, rfl, rfl⟩
theorem test_hyp_WaySpare : base.noFold .waySpare 7 63 ∧
    (let s : State := { base with qc := { worn := [(7 * 64 + 63) * 32 + 31] } }
     setHas s.qc.worn ((7 * 64 + 63) * 32 + 31) = true ∧ setHas s.qc.spared (7 * 64 + 63) = false ∧
       setHas ({ s.qc with spared := [7 * 64 + 63] } : QCache).spared (7 * 64 + 63) = true ∧
       setHas ({ s.qc with spared := [7 * 64 + 63] } : QCache).worn ((7 * 64 + 63) * 32 + 31) = true) ∧
    (let s : State := { base with homes := { dirWorn := [(7 * 64 + 63) * 32 + 11] } }
     setHas s.homes.dirWorn ((7 * 64 + 63) * 32 + 11) = true ∧ setHas s.homes.dirSpared (7 * 64 + 63) = false) := by unfold State.noFold; decide

/-- DramErrors: the last codeword of the address space; a row copy that is ready; a bank copy. -/
def copied : State := { base with qry := [(0, { (base.quarry 0) with rowCopies := [rowKey 1023 5], bankCopies := [1023] })] }
theorem test_hyp_DramErrors : base.blk.booted = true ∧ 2 ^ 40 - 1 < 2 ^ 40 ∧ base.present (base.stackOf ((2 ^ 40 - 1) / 32 * 32)) = true ∧
    base.noFold .dramCe (base.stackOf ((2 ^ 40 - 1) / 32 * 32)) (base.bankOf ((2 ^ 40 - 1) / 32 * 32)) ∧
    (∃ w ∈ [2 ^ 40 - 8], w / 32 = (2 ^ 40 - 1) / 32 * 32 / 32 ∧ setHas base.mem.poison (w / 8) = false) ∧
    setHas (copied.quarry 0).rowCopies (rowKey 1023 5) = true ∧ 0 < (copied.quarry 0).rowsLeft 1023 ∧ copied.noFold .rowRepair 0 1023 ∧
    setHas (copied.quarry 0).bankCopies 1023 = true ∧ 0 < (copied.quarry 0).banksLeft (1023 / 64) ∧ tblFind copied.mica.running 0 = none ∧
    copied.noFold .bankReplace 0 1023 ∧ copied.present 0 = true ∧
    (let s : State := { base with qry := [(0, { (base.quarry 0) with bankSpares := [(15, 0)] })] }
     s.present 0 = true ∧ (s.quarry 0).banksLeft (1023 / 64) = 0 ∧ setHas (s.quarry 0).bankNone 1023 = false) := by
  refine ⟨by decide, by decide, by decide, by unfold State.noFold; decide, ⟨_, List.mem_singleton.mpr rfl, by decide, by decide⟩, ?_⟩
  unfold State.noFold; decide

/-- OwnerTags: granule 30 leaves 0x0000; a request of context 1 on a granule of context 0. -/
def retagging : State := { base with mem := { base.mem with changes := [(30, 0x8000)] } }
theorem test_hyp_OwnerTags : tblFind retagging.mem.changes 30 = some 0x8000 ∧ retagging.granBusy 30 = false ∧
    (∀ e ∈ retagging.homes.dir, e.1 / 4096 ≠ 30) ∧ retagging.tagOf 30 = 0 ∧ (0x8000#16) ≠ 0 := by decide
def asking (src : Src) (c : Option Nat) (r : Req) : State := { base with pkts := [(9, ⟨src, c, r, none, false, false, 0⟩)] }
def packet (src : Src) (c : Option Nat) (r : Req) : Packet := ⟨src, c, r, none, false, false, 0⟩
theorem test_hyp_Refused : ∀ r ∈ [Req.read 0 8 true, .read 0 8 false, .readOwn 0 8, .write 0 [1, 2] false none, .lr 0 true, .sc 0 true 5 false,
      .amo 0 true 0 0 1 false],
    let s := asking (.tile 0) (some 1) r
    let p := packet (.tile 0) (some 1) r
    tblFind s.pkts 9 = some p ∧ r.range.isSome = true ∧ p.begun = false ∧ s.ordHeld 9 p = false ∧
      s.turnOf 9 p (r.range.getD (0, 0)).1 (r.range.getD (0, 0)).2 = .goes ∧
      s.rangePass (some 1) (r.range.getD (0, 0)).1 (r.range.getD (0, 0)).2 = false ∧
      s.noFold .granuleRefused (s.stackOf 0) (Src.tile 0).code := by unfold State.noFold; decide

/-- HomeAccesses: every request of its two statements is servable; the reservation of an `lr`'s tile and of an `sc`'s. -/
def asked (r : Req) : State := asking (.tile 0) (some 0) r
theorem test_hyp_HomeAccesses : HomeFinding.clean ⟨.clean, [], .clean, .clean⟩ ∧
    (∀ r ∈ [Req.read 0 8 true, .read 0 8 false, .readOwn 0 8, .write 0 [1, 2] false none, .lr 0 true, .sc 0 false 5 false, .amo 0 true 0 0 1 false],
      (asked r).servable 9 (packet (.tile 0) (some 0) r) (r.range.getD (0, 0)).1 (r.range.getD (0, 0)).2) ∧
    (asked (.read 0 8 true)).unowned 0 8 ∧ sectorsOf 0 8 = [0] ∧ (Src.tile 0).agent = some 0 ∧
    (asked (.read 0 8 true)).dirFits 0 = true ∧ ((asked (.read 0 8 true)).dirEntry 0).sectors.length = 4 ∧
    (asked (.readOwn 0 8)).sectorLines 0 0 = [] ∧ (asked (.readOwn 0 8)).wayBack 0 = none := by
  refine ⟨by unfold HomeFinding.clean; decide, ?_, unowned_of (by decide), by decide, by decide, rfl, by decide, by decide, by decide⟩
  unfold State.servable State.homesSettled; decide
def reserving : PendOp := { loading with kind := .reserve, waits := [(9, 0, 8)] }
theorem test_hyp_Reservation : (∃ q ∈ ((withTile { tile with pend := [reserving] }).tile 0).pend, q.kind = .reserve ∧ ∃ z ∈ q.waits, z.1 = 9) ∧
    ({ base with homes := { resv := [⟨0, 0, 3⟩] } } : State).scHolds (.tile 0) 0 = true ∧ base.scHolds (.tile 0) 0 = false :=
  ⟨⟨reserving, by decide, by decide, _, List.mem_singleton.mpr rfl, rfl⟩, by decide, by decide⟩

/-- Snoops: tile 0 has to answer for sector 1, and has answered; another agent is still to answer, or none. -/
def snooping (k : Snoop) (l : NSet) (a : Tbl SnoopAnswer) : State := { base with homes := { txns := [(4, ⟨0, 1, k, l, a, [], 0⟩)] } }
theorem test_hyp_Snoops : (∀ k ∈ [Snoop.inv, .shr, .cur], ∃ x, tblFind (snooping k [0] []).homes.txns 4 = some x ∧ setHas x.waiting 0 = true ∧
      x.snoop = k ∧ tblFind x.answers 0 = none ∧ x.since + 1000 ≤ (snooping k [0] []).now) ∧
    (∃ x, tblFind (snooping .inv [0, 1] [(0, .ackI)]).homes.txns 4 = some x ∧ tblFind x.answers 0 = some .ackI ∧ setDel x.waiting 0 ≠ []) ∧
    (∃ x, tblFind (snooping .inv [0] [(0, .ackI)]).homes.txns 4 = some x ∧ setDel x.waiting 0 = [] ∧ x.crossing = [] ∧ x.pkt = 0) ∧
    (snooping .inv [0] [(0, .ackI)]).wayBack 1 = none ∧ (snooping .inv [0] []).sourcesHeld = false ∧ (snooping .inv [0] []).homes.biWait.contains 4 = false ∧ 4 < base.nextId ∧ 0 < 416 := by
  refine ⟨?_, ⟨_, rfl, by decide, by decide⟩, ⟨_, rfl, by decide, by decide, by decide⟩, by decide, by decide, by decide, by decide, by decide⟩
  intro k _; exact ⟨_, rfl, rfl, rfl, rfl, (by decide : 0 + 1000 ≤ base.now)⟩
def queueOf : WorkQueue := ⟨0, 0, 4, 4, 0x100000, 0, true, 0, 0, 0, false, false, [], [], none, none⟩
def readyTask : Task := { task with queue := some 3, phase := .ready }
theorem test_hyp_SnoopTimeout : ({ snooping .inv [0] [] with tasks := [(1, readyTask)] } : State).task? 1 = some readyTask ∧ readyTask.queue.isSome = true ∧
    readyTask.vein = (base.tile 0).vein ∧ setHas base.blk.veinDown (base.tile 0).vein = false ∧ readyTask.phase = .ready := by decide

/-- WriteBacksAndResponses. -/
def backing : State := asking (.tile 0) none (.writeBack 1 [(0, 5)] [])
def stashing : State := { base with pkts := [(9, packet (.sequencer 1) none (.stash 1 1 false))] }
/-- Tile 0 keeps a data cache, and sector 1 is shared with it. -/
def stashed : State :=
  { base with
    strata := { base.strata with str := { base.strata.str with veins := [(0, { vein with dcache := 1 })] } }
    pkts := [(9, packet (.sequencer 1) none (.stash 1 0 true))], homes := { dir := [(0, ⟨[0], [.i, .s, .i, .i]⟩)] } }
theorem test_hyp_Stash : stashed.pkts.find? (fun e => e.2.req.isStash 1 0) = some (9, packet (.sequencer 1) none (.stash 1 0 true)) ∧
    stashed.sourcesHeld = false ∧ (∀ l ∈ stashed.sectorLines 0 1, l.dirty = false) ∧ (stashed.tile 0).role = .mapped ∧ (stashed.tile 0).dctl.enabled = true ∧ stashed.carve 0 ≠ 0 ∧ stashed.lineSize 0 = 128 ∧
    (stashed.tile 0).task = some 1 ∧ (stashed.tile 0).context = some 0 ∧ stashed.tagOf (granOf (128 * 1)) = BitVec.ofNat 16 (0x8000 + 0) ∧
    (stashed.granVein (granOf (128 * 1))).map (·.1) = some (stashed.tile 0).vein ∧ stashed.micaGran (granOf (128 * 1)) = false ∧
    stashed.sectorLines 0 1 = [] ∧ stashed.cleanVictim 0 1 = true ∧ stashed.sectSt 1 = .s ∧ setHas (stashed.dirEntry (128 * 1)).presence 0 = true := by decide
def dropping : State := asking (.tile 0) none (.drop 1)
def locked : State := { base with homes := { locks := [(5, 0, 0), (6, 1, base.now)] } }
theorem test_hyp_WriteBacks : tblFind backing.pkts 9 = some (packet (.tile 0) none (.writeBack 1 [(0, 5)] [])) ∧
    backing.ordHeld 9 (packet (.tile 0) none (.writeBack 1 [(0, 5)] [])) = false ∧ backing.wayBack 1 = some (9, [(0, 5)], []) ∧
    (∀ y ∈ backing.homes.txns, y.2.sector ≠ 1) ∧ backing.lockedFor (some 0) (128 * 1) 128 = false ∧ backing.qcQueued (backing.qcSlice 1) < 32 ∧
    stashing.pkts.find? (fun e => e.2.req.isStash 1 1) = some (9, packet (.sequencer 1) none (.stash 1 1 false)) ∧
    (∀ y ∈ stashing.pkts, y.1 < 9 → ∀ z w, y.2.req ≠ .stash z 1 w) ∧ (stashing.tile 1).role ≠ .mapped ∧
    dropping.pkts.find? (fun e => decide (e.2.src = .tile 0) && decide (e.2.req = .drop 1)) = some (9, packet (.tile 0) none (.drop 1)) ∧
    dropping.ordHeld 9 (packet (.tile 0) none (.drop 1)) = false ∧
    (∀ i, i < 4 → dropping.sectorLines 0 (1 / 4 * 4 + i) = [] ∧ dropping.sectSt (1 / 4 * 4 + i) ≠ .m 0) ∧
    (∃ l ∈ locked.homes.locks, l.1 = 5 ∧ l.2.2 + 1000 ≤ locked.now) ∧ (∃ l ∈ locked.homes.locks, l.1 ≠ 5 ∨ locked.now < l.2.2 + 1000) := by
  refine ⟨by decide, by decide, by decide, by decide, by decide, by decide, by decide, ?_, by decide, by decide, by decide, by decide, by decide, by decide⟩
  intro y hy h; cases hy with
  | head => exact absurd h (by decide)
  | tail _ h => cases h
def acking : PendOp := { loading with kind := .ack, waits := [(9, 0, 0)], size := 0, buf := [] }
def loadRsp (n : Nat) : Rsp := { dst := .tile 0, task := some 1, st := .ok, data := List.replicate n 7 }
theorem test_hyp_MemoryResponse :
    (let s := { withTile { tile with pend := [{ loading with waits := [(9, 0, 8)] }] } with rsps := [(9, loadRsp 8)] }
     tblFind s.rsps 9 = some (loadRsp 8) ∧ s.rspHeld (loadRsp 8) = false ∧ (s.tile 0).keeps 9 = false ∧ (s.tile 0).released = [] ∧ (s.tile 0).run = .running ∧
       (s.tile 0).pend.find? (fun p => p.waits.any (fun w => w.1 == 9)) = some { loading with waits := [(9, 0, 8)] } ∧ loading.size = 8 ∧
       loading.overlay = [] ∧ (loadRsp 8).marks = [] ∧ loading.poisoned = false ∧ (loadRsp 8).data.length = loading.size) ∧
    (let s := { withTile { tile with pend := [acking] } with rsps := [(9, loadRsp 0)] }
     (s.tile 0).pend.find? (fun p => p.waits.any (fun w => w.1 == 9)) = some acking ∧ acking.id = 9 ∧ (s.tile 0).task = some 1 ∧
       s.task? 1 = some task ∧ (loadRsp 0).task = some 1 ∧ task.phase = .running) := by decide

/-- HostCoherence: a write upstream whose GO is due; a request through the decoder; the host's transaction. -/
def upWrite : UpReq := ⟨.tile 0, none, .itoMWr, 3, 0x80, 64, [], false, false, true, none, none⟩
def decoding : State := { base with host := { base.host with hdm := some 0x10000000000, memEn := true } }
theorem test_hyp_HostCoherence : base.host.linkUp = true ∧
    tblFind ({ base with host := { base.host with up := [(9, upWrite)] } } : State).host.up 9 = some upWrite ∧ tile.released = [] ∧
    decoding.host.d3wake = false ∧ decoding.host.waiting = [] ∧ decoding.blk.state ≠ .sleep ∧ decoding.host.d3hot = false ∧
    ({ decoding with host := { decoding.host with d3wake := true } } : State).hdmLocal 0x1FFFFFFFFF0 = some (2 ^ 40 - 16) ∧
    ({ decoding with host := { decoding.host with d3hot := true } } : State).host.d3hot = true ∧
    ({ decoding with blk := { decoding.blk with state := .sleep } } : State).hdmLocal 0x1FFFFFFFFF0 = some (2 ^ 40 - 16) ∧
    decoding.hdmLocal 0x1FFFFFFFFF0 = some (2 ^ 40 - 16) ∧ decoding.host.linkUp = true ∧ decoding.host.memEn = true ∧ 2 ^ 40 - 16 + 16 ≤ 2 ^ 40 ∧
    (∃ x, tblFind (snooping .cur [416] []).homes.txns 4 = some x ∧ x.waiting = [416] ∧ x.crossing = [] ∧ x.pkt = 0 ∧ x.snoop = .cur) ∧
    (snooping .cur [416] []).homes.biWait.contains 4 = false ∧ (snooping .cur [416] []).pkts = [] :=
  ⟨by decide, by decide, by decide, by decide, by decide, by decide, by decide, by decide, by decide, by decide, by decide, by decide, by decide, by decide,
    ⟨_, rfl, by decide, by decide, by decide, by decide⟩, by decide, rfl⟩

/-! ## Hypotheses of the statements about Flint, queues and commands -/

/-- `base` with an object and the packet of tile 0 for it. -/
def flinting (o : Obj) (r : Req) : State := { asked r with flint := { objs := [(2, o)] } }
def counter : Obj := { state := 1, value := 2 ^ 32 - 1 }
def root : Obj := { state := 1, barrier := true, value := 1, limit := 2 }
def node : Obj := { root with hasParent := true, parentObject := 3 }
def parent : Obj := { root with childCount := 1, childList := 0 }

/-- FlintObjects: an add that overflows and one that does not, a subtract that underflows and one that does not; a FREE object refuses. -/
theorem test_hyp_FlintCounters : ∀ r ∈ [Req.flintAdd 2 1, .flintAdd 2 0, .flintSub 2 (2 ^ 32 - 1), .flintSub 2 (2 ^ 32)],
    (flinting counter r).flintServable 9 (packet (.tile 0) (some 0) r) 2 ∧ (flinting {} r).flintRefused (packet (.tile 0) (some 0) r) 2 = true := by
  unfold State.flintServable; decide

/-- Arrivals before the last, the last at a root and at a node; releases of a leaf node, of one with children, and of one not waiting. -/
theorem test_hyp_FlintBarriers :
    (∀ o ∈ [root, { root with limit := 3 }, node], (flinting o (.flintArrive 2)).flintServable 9 (packet (.tile 0) (some 0) (.flintArrive 2)) 2 ∧
      (o.hasParent && o.pendingUp) = false ∧ ((flinting o (.flintArrive 2)).flint.waiters.map (·.seq)).Nodup) ∧
    root.value + 1 < ({ root with limit := 3 } : Obj).limit ∧ root.limit ≤ root.value + 1 ∧ node.limit ≤ node.value + 1 ∧
    node.parentDevice = base.fab.self ∧
    (∀ o ∈ [{ node with pendingUp := true }, { parent with hasParent := true, pendingUp := true }, root],
      (flinting o (.flintRelease 2)).flintServable 9 (packet (.tile 0) (some 0) (.flintRelease 2)) 2) ∧
    base.noFold .flintFault (2 / 2048) 2 := by unfold State.flintServable State.noFold; decide

/-- The list of one child, object 4 of this device; a list that no segment holds. -/
def reading (l : Nat) : State :=
  { base with flint := { objs := [(2, { parent with hasParent := true, pendingUp := true, childList := l })], childReads := [2] }, mem := { base.mem with bytes := [(2, 4)] } }
theorem test_hyp_ChildList :
    (∀ l ∈ [0, 2 ^ 40], setHas (reading l).flint.childReads 2 = true ∧ ((reading l).obj 2).state = 1 ∧ ((reading l).flint.waiters.map (·.seq)).Nodup ∧
      (reading l).hostClear (.flintHome 2) 0 segs ((reading l).obj 2).childList 8 false = true) ∧
    (reading 0).childList ((reading 0).obj 2) = some [(0, 4)] ∧ (reading (2 ^ 40)).childList ((reading (2 ^ 40)).obj 2) = none ∧
    (let s : State := { reading 0 with flint := { objs := [(2, { parent with value := 2 })], childReads := [2] } }
     (s.obj 2).hasParent = false ∧ (s.obj 2).state = 1 ∧ s.childList (s.obj 2) = some [(0, 4)] ∧ ∀ c ∈ [((0 : Nat), 4)], c.1 = s.fab.self) := by decide

/-- FlintWaits. -/
def awaiting : PendOp := { loading with kind := .wait, waits := [] }
theorem test_hyp_WaitRegister : ∀ o ∈ [{ counter with abandoned := true }, counter, { counter with value := 0 }],
    let s := { flinting o (.flintWait 2 (.ge 5)) with tiles := [(0, { tile with pend := [awaiting] })] }
    s.flintRefused (packet (.tile 0) (some 0) (.flintWait 2 (.ge 5))) 2 = false ∧ setHas s.flint.childReads 2 = false ∧
      (s.tile 0).pend.any (fun p => p.id == 9) = true ∧ (s.obj 2).state = 1 ∧ ((s.obj 2).holds (.ge 5) = decide (5 ≤ o.value)) := by decide
def woken (w : WaitRef) : State :=
  { withTile { tile with run := .waiting .sigWait, pend := [awaiting] } with
    flint := { wakes := [(6, ⟨w, 9, 7, false, false⟩)] }, tasks := [(1, { task with phase := .waiting, waitSeq := some (9, 0) })] }
theorem test_hyp_FlintWake : ((woken (.tile 0)).tile 0).pend.find? (fun p => p.id == 9) = some awaiting ∧ awaiting.kind = .wait ∧
    ((woken (.tile 0)).tile 0).run = .waiting .sigWait ∧ ((woken (.tile 0)).tile 0).role = .mapped ∧
    (∃ x, (woken (.task 1)).task? 1 = some x ∧ x.waitSeq.map (·.1) = some 9 ∧ x.phase = .waiting) :=
  ⟨by decide, by decide, by decide, by decide, _, rfl, by decide, by decide⟩
def evicted : State := { base with ctxs := [(0, ⟨0, 3, segs, some ⟨0, 0⟩⟩)], flint := { objs := [(2, { counter with state := 2 })] } }
def mirrored (l : NSet) : State := { base with flint := { objs := [(2, counter)], mirror := [(2, counter)], unmirrored := l } }
theorem test_hyp_Restore : (∃ x, evicted.ctx? 0 = some x ∧ x.evicted = some ⟨0, 0⟩ ∧ x.vein = 0) ∧ evicted.vein? 0 = some vein ∧ (evicted.obj 2).state = 2 ∧
    (evicted.obj 2).owner = 0 ∧ vein.flintFirst ≤ 2 ∧ 2 < vein.flintFirst + vein.flintCount ∧
    (∀ l ∈ [[], [0]], setHas (mirrored l).flint.moved 0 = false) ∧ setHas (mirrored []).flint.unmirrored 0 = false ∧
    tblSorted (mirrored []).flint.mirror = true ∧ (mirrored []).noFold .flintTakeover 0 0 ∧ setHas (mirrored [0]).flint.unmirrored 0 = true ∧
    (∀ e ∈ (mirrored [0]).flint.objs, e.2.state ≠ 2) ∧ 2 / 2048 = 0 ∧ ((mirrored [0]).obj 2).state = 1 := by
  refine ⟨⟨_, rfl, by decide, by decide⟩, ?_⟩; unfold State.noFold; decide

/-- FullEmptyAndWindows: words that are empty and full, with waiters; the windows. -/
def feState (src : Src) (r : Req) (full : Bool) : State :=
  { asking src (some 0) r with
    tiles := [(0, { tile with pend := [awaiting] })], mem := { base.mem with full := if full then [0] else [] }
    flint := { waiters := [⟨.tile 1, 4, none, some 0, true, .ge 0, 0⟩] } }
theorem test_hyp_FullEmpty : ∀ full : Bool, ∀ r ∈ [Req.feFill 0 5 false, .feTake 0, .fePeek 0 false, .fePeek 0 true],
    let s := feState (.tile 0) r full
    s.servable 9 (packet (.tile 0) (some 0) r) 0 8 ∧ s.feFull 0 = full ∧ s.holdsWait (.tile 0) 9 = true ∧ (Src.tile 0) ≠ .hostPort := by
  unfold State.servable State.homesSettled; decide
theorem test_hyp_FullEmpty_unowned : (feState (.tile 0) (.feTake 0) true).unowned 0 8 := unowned_of (by decide)
theorem test_hyp_Windows : base.hostTakes ∧ base.hostQuiet = true ∧ ({ base with flint := { objs := [(2, counter)] } } : State).obj 2 = counter ∧
    counter.state = 1 ∧ counter.abandoned = false ∧ base.hostHeld (base.flint.takeBase * 2 ^ 19 + 8 * 65535) 8 false = [] := by
  unfold State.hostTakes; decide

/-- Doorbells: of a queue of 16 entries the lowest and the highest tail, one past it, a queue that is not there; in SLEEP. -/
def queued (q : WorkQueue) : State := { base with queues := [(3, q)] }
def asleep : State := { queued queueOf with blk := { base.blk with state := .sleep } }
def owner : Who := .sideband 5 7
def admin : AdminQueue := { log2 := 4, enabled := true, baseWritten := true }
theorem test_hyp_Doorbells : base.portTake = .taken ∧ base.hostQuiet = true ∧ (queued queueOf).queue? 3 = some queueOf ∧ base.blk.state ≠ .halted ∧
    15 < 2 ^ queueOf.log2 ∧ ¬ 16 < 2 ^ queueOf.log2 ∧ base.blk.state ≠ .sleep ∧ base.flt.selfTest = false ∧ 15 ≠ queueOf.tail ∧ queueOf.ownStall = false ∧
    asleep.blk.state = .sleep ∧ asleep.portTake = .taken ∧ base.queue? 3 = none ∧ base.ownerMay owner ∧ ({} : AdminQueue).open' = true ∧
    admin.open' = true ∧ admin.baseWritten = true ∧ 15 < 2 ^ admin.log2 ∧ 15 ≠ admin.tail ∧ ({ admin with head := 1 } : AdminQueue).open' = false := by
  unfold State.ownerMay; decide

/-- EntriesDispatched: an entry to fetch; a stalled head; NOP entries that are not owned, well formed and malformed. -/
def rung (stall : Bool) : State := queued { queueOf with tail := 1, ownStall := stall, bells := [⟨1, 5, 0⟩] }
theorem test_hyp_EntryFetch : (rung false).nextQueue = some 3 ∧ (rung true).fetchable 3 { queueOf with tail := 1, bells := [⟨1, 5, 0⟩] } = true := by decide
def fetching : Task := mkTask (some 3) 0 0 0 5
def entryMem (b0 b3 : Byte) : Mem := [(0x100000, b0), (0x100003, b3)]
def entryState (b0 b3 : Byte) : State :=
  { queued { queueOf with tail := 1, order := [8] } with tasks := [(8, fetching)], mem := { base.mem with bytes := (entryMem b0 b3).filter (fun e => e.2 != 0) } }
theorem test_hyp_EntryFetched (own : Bool) : let s := entryState (if own then 1 else 0) 0
    s.tasks.find? (fun e => decide (e.2.queue = some 3) && decide (e.2.phase = .fetching)) = some (8, fetching) ∧ s.task? 8 = some fetching ∧
      s.adm.running = none ∧ s.reachRing 8 fetching 0 false = .to (.device 0x100000 true) (findSeg segs 0x100000) ∧
      s.rangePass (some 0) 0x100000 256 = true ∧ s.hostHeld 0x100000 64 false = [] ∧ s.hostHeld (0x100000 + 64) 192 false = [] ∧
      s.vein? 0 = some vein ∧ setHas s.blk.veinDown 0 = false := by
  cases own <;> decide
theorem test_hyp_EntryWellFormed : base.malformedAt (some vein) segs (1 :: 0 :: 2 :: List.replicate 253 (0 : Byte)) = none ∧ flagWait 2 = false ∧
    base.budgetOf queueOf 2 0 = none := by decide
theorem test_hyp_EntryMalformed : base.malformedAt (some vein) segs (1 :: 0 :: 0 :: 0x40 :: List.replicate 252 (0 : Byte)) = some 2 := by decide
theorem test_hyp_EntryDispatch : base.host.retry = false ∧ base.blk.state ≠ .halted ∧ base.blk.state ≠ .sleep ∧
    (let s := { queued { queueOf with order := [1] } with tasks := [(1, readyTask)] }
     s.task? 1 = some readyTask ∧ readyTask.queue = some 3 ∧ s.mayDispatch 1 readyTask { queueOf with order := [1] } = true) ∧
    base.ctx? 0 = some ⟨0, 3, segs, none⟩ ∧
    (let x := { readyTask with budget := some 10 }
     x.late = false ∧ x.start + 10 ≤ base.now ∧ flagAbort x.flags = false ∧ flagAbort ({ x with flags := 1 } : Task).flags = true) := by decide

/-- CompletionsAndFlushes. -/
def dueTask (p : Phase) : Task := { task with queue := some 3, index := 15, phase := p }
def completing (p : Phase) : State := { queued { queueOf with order := [1] } with tasks := [(1, dueTask p)] }
theorem test_hyp_Completion : (completing .due).task? 1 = some (dueTask .due) ∧ (completing .due).adm.running = none ∧ (dueTask .due).unseen = [] ∧
    (dueTask .due).budget = none ∧ (∀ e ∈ (completing .due).tiles, e.2.retireAsked = false ∧ e.2.rotateAsked = false) ∧
    (∃ g, (completing .due).reachRing 1 (dueTask .due) 0 true = .to (.device 0x100F00 true) g) ∧
    (completing .due).rangePass (some 0) 0x100F00 64 = true ∧ (completing .due).hostHeld 0x100F00 64 true = [] ∧ (completing .due).lockedFor none 0x100F00 64 = false ∧
    (completing .written).queue? 3 = some { queueOf with order := [1] } ∧ queueOf.intr = true ∧ ({ dueTask .written with sigObj := some 2 } : Task).status ≠ .malformed :=
  ⟨by decide, by decide, by decide, by decide, by decide, ⟨_, rfl⟩, by decide, by decide, by decide, by decide, by decide, by decide⟩
theorem test_hyp_Completion_unowned : (completing .due).unowned 0x100F00 64 := unowned_of (by decide)
def onEngine (b : WorkBody) : Task := { task with queue := some 3, phase := .dispatched, body := b }
def working (b : WorkBody) : State := { queued queueOf with tasks := [(1, onEngine b)] }
theorem test_hyp_Engines : ∀ b ∈ [WorkBody.nop, .timestamp, .flush true true true 0 4096, .flush false true false 0 128, .fence false, .fence true],
    (working b).onEngines 1 (onEngine b) ∧ ((true && true) && (working b).launchRuns 0) = false := by unfold State.onEngines; decide
theorem test_hyp_Fence : (∀ i ∈ [7, 8], base.over i = true) ∧ ({ base with tasks := [(1, readyTask)] } : State).over 1 = false := by decide

theorem test_hyp_Completion_halting : (let s : State := { completing .written with blk := { base.blk with halting := true } }
    s.blk.halting = true ∧ ∀ e ∈ s.tasks, e.1 ≠ 1 → e.2.queue = none) ∧ base.blk.halting = false ∧ base.releasable 0 = true := by decide

/-- WorkCommands. -/
theorem test_hyp_Copies : (∀ b ∈ [WorkBody.copy 0 4096 64 none, .fill 4096 64 [1, 2, 3, 4, 5, 6, 7, 8], .copyInline 4096 [1, 2] none],
      (working b).onEngines 1 (onEngine b)) ∧
    (let s := working (.copyInline 4096 [1, 2] none)
     s.ready (.sequencer 1) 0 4096 2 true = true ∧ s.hostClear (.sequencer 1) 0 segs 4096 2 true = true ∧ isHostVa 4096 = false ∧
       s.rangePass (some 0) 4096 2 = true ∧ ∀ i, i < 2 → ∃ g, s.reach (.sequencer 1) 0 segs (4096 + i) true = .to (.device (4096 + i) true) g) := by
  refine ⟨by unfold State.onEngines; decide, by decide, by decide, by decide, by decide, ?_⟩
  intro i hi
  match i, hi with
  | 0, _ => exact ⟨_, rfl⟩
  | 1, _ => exact ⟨_, rfl⟩
def copying : Task := { onEngine (.copy 0 4096 2 none) with phase := .running, engine := some (0, 0) }
def copyState : State := { queued queueOf with tasks := [(1, copying)] }
theorem test_hyp_CopyComplete : copyState.task? 1 = some copying ∧ copying.unseen = [] ∧ copying.srcLines = [] ∧ copyState.sourcesHeld = false ∧ noDramFinding.dram = .clean ∧ noDramFinding.qcache = .clean ∧
    copyState.copyReady 1 copying (some (0, 2)) 4096 2 none = (copyState, true) ∧
    copyState.copyReady 1 copying none 4096 2 none = (copyState, true) ∧ (∀ e ∈ copyState.fab.ops, e.2.src ≠ .copy 1) ∧
    copyState.inDevice (.copy 1) copying 0 0 2 false ∧ copyState.inDevice (.copy 1) copying 4096 4096 2 true ∧ copyState.unowned 4096 2 := by
  refine ⟨by decide, rfl, rfl, rfl, rfl, rfl, rfl, rfl, by decide, ⟨by decide, by decide, ?_⟩, ⟨by decide, by decide, ?_⟩, unowned_of (by decide)⟩ <;>
  · intro i hi
    match i, hi with
    | 0, _ => exact ⟨_, rfl⟩
    | 1, _ => exact ⟨_, rfl⟩
def conf : ConfigBody := ⟨false, false, false, 0, 5, 0, 0, 0, false, 0, 0⟩
def objState (o : Obj) (b : WorkBody) (w : List Waiter) : State := { working b with flint := { objs := [(2, o)], waiters := w } }
theorem test_hyp_FlintCommands : (working .nop).releasable 0 = true ∧ (working .nop).flintBehind 1 2 = false ∧ (objState counter (.signalFree 2) []).flintBehind 1 2 = false ∧ (base.quarry 0).engines ≠ [] ∧
    ({} : Quarry).engines = [] ∧
    (∀ b ∈ [WorkBody.signalAdd none 2 1, .signalSub (some 3) 2 1, .barrierArrive none 2, .waitObject 2 (.ge 1), .waitWord (2 ^ 24), .signalConfigure 2 conf, .signalFree 2],
      (working b).onEngines 1 (onEngine b)) ∧
    (∃ g, findSeg (onEngine (.waitWord (2 ^ 24))).segs (2 ^ 24) = some g ∧ g.device = base.fab.self ∧ g.r = true) ∧
    ((objState {} (.signalConfigure 2 conf) []).obj 2).state = 0 ∧
    (let s := objState counter (.signalConfigure 2 conf) [waiter (.tile 0)]
     (s.obj 2).state = 1 ∧ (s.obj 2).abandoned = false ∧ (s.obj 2).owner = 0 ∧ (∃ w ∈ s.flint.waiters, w.obj = some 2)) ∧
    ((objState { counter with owner := 1 } (.signalConfigure 2 conf) []).obj 2).owner ≠ 0 := by
  refine ⟨by decide, by decide, by decide, by decide, rfl, by unfold State.onEngines; decide, ⟨_, rfl, by decide, by decide⟩, by decide, ⟨by decide, by decide, by decide, _, List.mem_singleton.mpr rfl, rfl⟩, by decide⟩

/-- AdminCommands. -/
def adminTask (b : AdminBody) : Task := { mkTask none 0 0 0 0 with phase := .dispatched, admin := some b }
def adming (b : AdminBody) : State :=
  { base with tasks := [(1, adminTask b)], adm := { admin with running := some 1 }, tiles := [(0, { role := .mapped, healthy := true }), (1, { role := .spare, healthy := true })] }
theorem test_hyp_AdminTask : ∀ b ∈ [AdminBody.createQueue 3 0 4 0 0 true 0x100000 0, .destroyQueue 3, .resetQueue 3 5, .abortQueue 3, .createContext 1 0 9,
      .destroyContext 0, .evictContext 0 4096, .setSegment 0 9 ⟨2 ^ 26, 0, 2 ^ 26, 1, true, true, false, false, 0, false, false, false, false⟩, .dumpSyncState 0 (2 ^ 26),
      .loadStrata 0 0 0 (2 ^ 26) 4096, .setPowerCap 900, .selfTest 0, .selfTest 1, .assignDeviceNumber 3, .sleep],
    (adming b).onAdminTask 1 (adminTask b) b := by unfold State.onAdminTask; decide
theorem test_hyp_Queues : base.structured = true ∧ ringOk segs 0x100000 (256 * 2 ^ 4) = true ∧ base.queue? 3 = none ∧ ((queued queueOf).queue? 3).isSome = true ∧
    (base.queues.filter (fun e => e.2.vein == 0)).length < vein.queueQuota ∧ queueOf.order = [] ∧ queueOf.head = queueOf.tail ∧
    (∀ e ∈ (adming (.abortQueue 3)).tasks, e.2.queue ≠ some 3) ∧ ({ queueOf with order := [4] } : WorkQueue).order ≠ [] ∧
    tblSorted (adming (.abortQueue 3)).tasks = true := by decide
def evicting : State := { adming (.evictContext 0 4096) with flint := { objs := [(2, counter)] } }
theorem test_hyp_Contexts : base.vein? 0 = some vein ∧ base.ctx? 1 = none ∧ (base.ctxs.filter (fun e => e.2.vein == 0)).length < vein.contextQuota ∧
    base.ctx? 0 = some ⟨0, 3, segs, none⟩ ∧ (∀ e ∈ base.queues, e.2.context ≠ 0) ∧ base.tagOf 23 = BitVec.ofNat 16 (0x8000 + 0) ∧
    (∀ e ∈ base.ctxs, e.1 ≠ 0 → ∀ f ∈ e.2.segs, base.segHasGran f.2 23 = false) ∧ 4096 % 64 = 0 ∧
    inSlots segs (fun g => g.device == base.fab.self && g.w && !g.tagged && !g.mica) 4096 (64 * vein.flintCount) = true ∧
    evicting.ctxBusy 0 = false ∧ (∀ w ∈ evicting.flint.waiters, evicting.waiterOf 0 w = false) ∧
    evicting.hostClear .quartz 0 segs 4096 (64 * vein.flintCount) true = true ∧ 0 < vein.flintCount ∧ tblSorted evicting.flint.objs = true ∧
    (evicting.obj 2).state = 1 ∧ (evicting.obj 2).owner = 0 := by decide
theorem test_hyp_Evict_parts : (∀ i, i < 64 * vein.flintCount → findSeg segs (4096 + i) = some ⟨0, 0, 0, 8, true, true, true, false, 0, false, false, false, false⟩) ∧
    (∀ z, evicting.wayBack z = none) ∧ (∀ n, (evicting.obj n).state ≠ 0 → (evicting.obj n).owner = 0 → vein.flintFirst ≤ n ∧ n < vein.flintFirst + vein.flintCount) := by
  refine ⟨by decide +kernel, fun _ => rfl, ?_⟩
  intro n hn _
  by_cases h : n = 2
  · subst h; decide
  · exfalso; apply hn
    show (tblGet ({} : Obj) [(2, counter)] n).state = 0
    simp [tblGet, Ne.symm h]
def newSeg : Segment := ⟨2 ^ 26, 0, 2 ^ 26, 1, true, true, false, false, 0, false, false, false, false⟩
def segState : State := { adming (.setSegment 0 9 newSeg) with strata := { base.strata with str := { base.strata.str with veins := [(0, { vein with ranges := [⟨0, 64, false, 0⟩] })] } } }
theorem test_hyp_SetSegment : (∀ e ∈ segs, e.1 = 9 ∨ e.2.overlaps newSeg = false) ∧ segState.segGranules newSeg ≠ [] ∧
    (∀ n ∈ segState.segGranules newSeg, segState.granDenied 0 0 newSeg n = false) ∧ newSeg.device = 0 ∧ tblFind segs 9 = none ∧
    (∀ n ∈ segState.segGranules newSeg, segState.tagOf n ≠ segTag 0 newSeg) ∧ segState.mem.changes = [] ∧
    (∀ n ∈ base.segGranules ⟨0, 0, 0, 8, true, true, true, false, 0, false, false, false, false⟩, base.tagOf n = segTag 0 ⟨0, 0, 0, 8, true, true, true, false, 0, false, false, false, false⟩) := by decide

/-- StrataLoads: idle and not; an image that fails; a load that has switched. The image that passes stands at the end. -/
def loadBody : AdminBody := .loadStrata 0 0 0 (2 ^ 26) 0
def staging (sw : Bool) : State :=
  { adming loadBody with
    tasks := [(1, { adminTask loadBody with phase := .running })], ctxs := []
    strata := { base.strata with load := some ⟨1, false, 0, sw, 0, base.strata.str, 0, none⟩ } }
theorem test_hyp_StrataLoads : ({ adming loadBody with ctxs := [] } : State).loadIdle 0 0 = true ∧ (adming loadBody).loadIdle 0 0 = false ∧
    ((staging false).strata.load.map (·.switched)) = some false ∧ ((staging true).strata.load.map (·.switched)) = some true ∧
    ((staging false).task? 1).isSome = true ∧ ((staging false).task? 1).map (·.faults) = some [] ∧ ((staging true).task? 1).map (·.unseen) = some [] ∧
    checkImage base.blk.keys base.blk.revoked 0 0 [] = .bad 3 := by decide
theorem test_hyp_StrataStage (h : HostData) : (staging false).stage 1 0 (2 ^ 26) 0 h = .image (staging false) [] := rfl

/-! ## Hypotheses of the statements about the host, ownership and the fabric -/

/-- Translations: a tile's request for a page; a slot that waits; invalidations that drain and that do not. -/
def xreq : XReq := { stream := .tile 0, pasid := 3, page := 0x7F, write := true, faultIn := true }
def pageSlot : PageSlot := ⟨3, 0x7F, true, [.tile 0], 1, 0, false, false⟩
def xlating : State := { base with host := { base.host with priEn := true, priAlloc := 4 }, xlat := { reqs := [(9, xreq)] } }
def paging : State := { base with xlat := { slots := [(511, pageSlot)], priTimeout := 2 ^ 20 } }
theorem test_hyp_Translations : tblFind xlating.xlat.reqs 9 = some xreq ∧ xreq.slot = none ∧ xlating.host.priEn = true ∧ pageSlot.dead = false ∧ pageSlot.unsent = false ∧ xlating.upstreamOpen = true ∧ xlating.host.bme = true ∧
    ({ paging with host := { paging.host with atsEn := true } } : State).upstreamOpen = true ∧
    paging.slotAsked 511 = false ∧ 9 < xlating.nextId ∧ permits xreq.write true true = true ∧
    permits xreq.write true false = false ∧ xlating.xlat.priStopped = false ∧ (∀ e ∈ xlating.xlat.slots, e.2.serves xreq = false) ∧
    xlating.xlat.slots.length < xlating.slotLimit ∧ (xlating.tile 0).run = .running ∧ (xlating.tile 0).task.isSome = true ∧ xlating.host.up = [] ∧
    tblFind paging.xlat.slots 511 = some pageSlot ∧ permits pageSlot.write true true = true ∧ paging.xlat.slotWait = [] ∧
    pageSlot.since + paging.xlat.priTimeout ≤ paging.now := by decide
def draining (up : Tbl UpReq) : State := { base with host := { base.host with up := up }, xlat := { invals := [(none, 0, [(9, 0x7F)])] } }
theorem test_hyp_Invalidations : base.host.linkUp = true ∧ base.xlat.invals.length < 32 ∧ (∀ e ∈ [(9, 0x7F)], (draining []).useOpen e.1 = false) ∧
    (draining []).releasedUse none = false ∧ (draining [(9, upWrite)]).useOpen 9 = true ∧ 0 + 20000 ≤ base.now ∧ 9 < base.nextId := by decide

/-- Advice. -/
def va63 : Nat := 2 ^ 63
def advising (b : WorkBody) : State := { working b with xlat := { atc := [⟨3, 0, 2 ^ 21, 2 ^ 30, true, true, 1⟩] } }
theorem test_hyp_Advice : (∀ b ∈ [WorkBody.prefetchXlat va63 1 true true, .prefetchXlat (va63 + 2 ^ 21) 1 true true, .adviseWillNeed 0 128,
      .adviseWillNotNeed va63 4096, .adviseWillNotNeed 0 128, .preferDevice va63 2 0, .preferHost va63 (2 ^ 21)], (advising b).onEngines 1 (onEngine b)) ∧
    isHostVa 0 = false ∧ isHostVa va63 = true ∧
    (∀ q ∈ (advising (.adviseWillNeed 0 128)).advisedParts (onEngine (.adviseWillNeed 0 128)) 0 128, base.rangePass (some 0) q.1 q.2 = true) ∧
    ((advising .nop).atcHit ((advising .nop).pasidOf 0) 0 true).isNone = false ∧ ((advising .nop).atcHit ((advising .nop).pasidOf 0) (2 ^ 21) true).isNone = true := by
  unfold State.onEngines; decide
def preferring : State := { advising (.preferDevice va63 2 0) with host := { base.host with cacheEn := true } }
theorem test_hyp_PreferDevice : preferring.placeBusy 0 va63 2 = false ∧ segCover segs (fun g => g.r && g.w && g.device == base.fab.self) 0 2 = true ∧
    preferring.ready (.sequencer 1) 0 va63 2 false = true ∧ preferring.hostClear (.sequencer 1) 0 segs 0 2 true = true ∧
    (∀ i, i < 2 → ∃ pa io g, preferring.reach (.sequencer 1) 0 segs (va63 + i) false = .to (.host pa io) g) ∧
    preferring.answersOf (.sequencer 1) 0 segs va63 2 (.data [1, 2] false) = true ∧
    preferring.inDevice (.sequencer 1) (onEngine (.preferDevice va63 2 0)) 0 0 2 true ∧ preferring.unowned 0 2 := by
  refine ⟨by decide, by decide, by decide, by decide, ?_, by decide, ⟨by decide, by decide, ?_⟩, unowned_of (by decide)⟩
  · intro i hi
    match i, hi with
    | 0, _ => exact ⟨_, _, _, rfl⟩
    | 1, _ => exact ⟨_, _, _, rfl⟩
  · intro i hi
    match i, hi with
    | 0, _ => exact ⟨_, rfl⟩
    | 1, _ => exact ⟨_, rfl⟩
def placedEntry : Placement := ⟨0, va63, 2 ^ 21, 0, true⟩
theorem test_hyp_PreferHost : [placedEntry].find? (fun q => q.context == 0 && q.host == va63 && q.len == 2 ^ 21) = some placedEntry ∧
    (let x := onEngine (.preferHost va63 (2 ^ 21))
     let y : Task := { x with tiles := [0], phase := .running }
     { y with phase := .dispatched } = { x with tiles := y.tiles } ∧ y.phase = .running ∧ y.tiles ≠ []) ∧
    (working .nop).xlat.placed.find? (fun q => q.context == 0 && q.host == va63 && q.len == 2 ^ 21) = none := by decide

/-- HostTraffic: the last bytes of BAR4; a write that a copy engine made; a load. -/
theorem test_hyp_HostTraffic : base.portTake = .taken ∧ base.bar4Takes (2 ^ 36 - 8) 8 = true ∧ base.bar4Takes (2 ^ 36 - 7) 8 = false ∧ base.bar4Takes 0 0 = true ∧
    base.host.timeoutOff = false ∧ base.hostQuiet = true ∧ (2 ^ 36 - 8) % 8 = 0 ∧ base.configOpen ∧ ({ base with host := { base.host with mse := false } } : State).configOpen := by
  unfold State.configOpen; decide
def upIo : UpReq := ⟨.copy 1, some 1, .ioWrite, 3, 0x80, 64, [], false, false, true, none, none⟩
def upRead : UpReq := ⟨.tile 0, some 1, .ioRead, 3, 0x80, 8, [], false, false, true, none, none⟩
theorem test_hyp_UpstreamDone :
    (let s := { copyState with host := { base.host with up := [(9, upIo)] } }
     tblFind s.host.up 9 = some upIo ∧ s.task? 1 = some copying ∧ copying.phase = .running) ∧ (∀ b, copying.body ≠ .launch b) ∧
    (let s := { withTile { tile with pend := [{ loading with waits := [(9, 0, 8)] }] } with host := { base.host with up := [(9, upRead)] } }
     tblFind s.host.up 9 = some upRead ∧ (s.tile 0).keeps 9 = false ∧ (s.tile 0).released = [] ∧
       (s.tile 0).pend.find? (fun p => p.waits.any (fun w => w.1 == 9)) = some { loading with waits := [(9, 0, 8)] } ∧ loading.size = upRead.len) :=
  ⟨by decide, (fun b h => by cases h), by decide⟩

/-- HostConfiguration: the last vector, pending; a block that idles with ASPM enabled. -/
theorem test_hyp_HostConfiguration : base.host.bars.length = 3 ∧ 2047 < 2048 ∧
    (let s : State := { base with host := { base.host with pba := [2047], msixEn := true, aspmL1 := true }, tasks := [] }
     setHas s.host.pba 2047 = true ∧ s.host.bme = true ∧ s.host.msixEn = true ∧ s.host.functionMask = false ∧ s.host.aspmL1 = true ∧
       s.host.linkUp = true ∧ s.idle = true ∧ s.host.inL1 = false) := by decide

/-- Registers: the owner, another writer; the last byte of memory; the ends of the component registers. -/
def hostOwned : State := { base with own := { st := .held, kind := .host, epoch := 7, hostEpoch := 7, leaseEnd := 20000000 } }
theorem test_hyp_Registers : base.blk.quartz.isSome = true ∧ base.hostTakes ∧ base.hostQuiet = true ∧ (base.reg64 0x10018).isSome = true ∧ 0x10018 % 8 = 0 ∧
    base.blk.state ≠ .sleep ∧ [(7 : Byte)].length ≤ 256 ∧ 2 ^ 40 - 1 + [(7 : Byte)].length ≤ 2 ^ 40 ∧ base.isOwner owner = true ∧
    base.isOwner (.sideband 5 6) = false ∧ base.unstructured = false ∧ hostOwned.ownerMay .host ∧ base.ownerMay owner ∧ base.isOwner .host = false ∧
    base.noFold .registerIgnored noQuarry 0x18 ∧ 0x800000 ≤ 0x80FFFF ∧ 0x80FFFF < 0x810000 := by
  unfold State.hostTakes State.ownerMay State.noFold; decide

/-- Ownership: a vacant block with epochs below, at and above; a lease before, at and after its end; a handover. -/
def vacant : State := { base with own := { st := .vacant, epoch := 7 } }
theorem test_hyp_Ownership : vacant.own.st = .vacant ∧ vacant.own.epoch.toNat < (8#32).toNat ∧ (7#32).toNat ≤ vacant.own.epoch.toNat ∧
    ({ vacant with own := { vacant.own with st := .lapsed } } : State).own.st = .lapsed ∧
    base.now < base.own.leaseEnd ∧ ({ base with own := { base.own with leaseEnd := base.now } } : State).own.leaseEnd ≤ base.now ∧
    ({ base with own := { base.own with leaseEnd := base.now } } : State).ownerMay owner ∧ bits (1#64).toNat 0 2 = 1 ∧ bits (0#64).toNat 0 2 = 0 ∧
    base.own.suspended = false ∧ ({ base with own := { base.own with st := .handover, hoEnd := base.now } } : State).own.hoEnd ≤ base.now := by
  unfold State.ownerMay; decide

/-- Resets: a block without work; a boot of quarry 4 alone. -/
def quiet : State := { base with tasks := [], tiles := [(0, { role := .mapped }), (1, { role := .spare })] }
def found : BootFinding := ⟨0x10, [209], false, true, 0, [], 0, [], 0⟩
theorem test_hyp_Resets : State.reset.blk.perst = true ∧ bootPair found = some 4 ∧ (found.trained.getLsbD 0 || found.trained.getLsbD 4) = true ∧
    found.trained.getLsbD (quarryOf 208) = true ∧ quiet.blk.booted = true ∧ quiet.still ∧ quiet.host.linkUp = true ∧ quiet.host.retry = false ∧
    quiet.configOpen ∧ quiet.host.d3hot = false ∧ hostOwned.own.st = .held ∧ hostOwned.own.kind = .host ∧
    (let s : State := { quiet with host := { quiet.host with d3hot := true }, own := { hostOwned.own with suspended := true }, blk := { quiet.blk with state := .sleep } }
     s.configOpen ∧ s.host.d3hot = true ∧ s.own.suspended = true ∧ s.blk.state = .sleep ∧ s.blk.quartz.isSome = true) := by
  unfold State.still State.configOpen; decide

/-- InboundPackets: the first and the last queue pair of an entry, a key mark that differs; packets in turn and not. -/
def dev : DevEntry := ⟨16, 16, 3, 9, true, true, 0⟩
def head (handle seq : Nat) : PacketHead := ⟨2, handle, 9, seq⟩
def ported : State := { base with fab := { assigned := true, tabValid := true, cache := [(2, dev)] } }
def put1 (seq : Nat) (sent : Bool) : InPkt := ⟨head 16 seq, 0, .write 64 [1, 2] false none, false, [false], 3, true, sent, none⟩
def behind : State := { ported with fab := { ported.fab with inbound := [(5, put1 0 true), (6, put1 1 false)] } }
def signalOf : Req := .flintAdd 2 1
theorem test_hyp_InboundPackets : ported.turnedAway = none ∧ ported.peerSt 2 = .normal ∧ ported.fab.tabValid = true ∧ ported.fab.inbound.length < 4032 ∧
    ported.devEntry? 2 = some dev ∧ ported.devEntry? 3 = none ∧ dev.valid = true ∧ dev.inbound = true ∧ dev.qpBase ≤ (head 31 0).handle ∧
    (head 31 0).handle < dev.qpBase + dev.qpCount ∧ ¬ (head 32 0).handle < dev.qpBase + dev.qpCount ∧ (head 16 0).keyMark = dev.keySlot ∧
    0 < (tblGet (0, 0) ({ ported.fab with credits := [(3, (0, 1))] } : Fabric).credits ((dev.channel + ((head 16 0).handle - dev.qpBase)) % 16)).2 ∧
    ported.fab.inbound = [] ∧ (∀ z ∈ ported.fab.inbound, z.2.reply = none) ∧
    (ported.ctx? dev.context).isSome = true ∧ ported.noFold .granuleRefused noQuarry 516 ∧
    ({ ported with blk := { ported.blk with state := .orphaned } } : State).blk.state = .orphaned ∧ base.fab.assigned = false ∧
    ({ ported with fab := { ported.fab with peers := [(2, .lost)] } } : State).peerSt 2 ≠ .normal := by
  unfold State.noFold; decide
theorem inTurn_plain {s : State} {n : Nat} {h : PacketHead} {r : Req} (hr : r.plain = true) : s.inTurn n h r =
    (s.gapless h = true ∧ ∀ e ∈ s.fab.inbound, e.1 ≠ n → e.2.head.handle = h.handle → e.2.reply = none → s.ahead e.2.head < s.ahead h →
      r.span.1 + r.span.2 ≤ e.2.req.span.1 ∨ e.2.req.span.1 + e.2.req.span.2 ≤ r.span.1) := if_pos hr
theorem inTurn_other {s : State} {n : Nat} {h : PacketHead} {r : Req} (hr : r.plain = false) : s.inTurn n h r = (s.ahead h = 0) :=
  if_neg (by rw [hr]; decide)
set_option synthInstance.maxSize 2000 in
/-- A put behind a packet that has not arrived waits; behind those that have, it waits for what it overlaps. -/
theorem test_hyp_inTurn : ported.inTurn 100 (head 16 0) signalOf ∧ ¬ ported.inTurn 100 (head 16 1) signalOf ∧
    ported.inTurn 100 (head 16 0) (.write 64 [1, 2] false none) ∧ ¬ ported.inTurn 100 (head 16 1) (.write 64 [1, 2] false none) ∧
    ¬ behind.inTurn 100 (head 16 2) (.write 65 [1] false none) ∧ behind.inTurn 100 (head 16 2) (.write 66 [1] false none) := by
  rw [inTurn_other rfl, inTurn_other rfl, inTurn_plain rfl, inTurn_plain rfl, inTurn_plain rfl, inTurn_plain rfl]; decide
def creditedPort : State := { ported with fab := { ported.fab with credits := [(3, (0, 1))] } }
theorem test_hyp_InboundCredit : creditedPort.devEntry? 2 = some dev ∧ dev.qpBase ≤ 16 ∧ 16 < dev.qpBase + dev.qpCount ∧
    (∀ z ∈ creditedPort.fab.inbound, z.2.reply = none) ∧ 0 < (tblGet (0, 0) creditedPort.fab.credits ((dev.channel + (16 - dev.qpBase)) % 16)).2 ∧
    base.devEntry? 2 = none := by decide
def alone : State := { ported with fab := { ported.fab with inbound := [(6, put1 0 false)] } }
set_option synthInstance.maxSize 2000 in
theorem test_hyp_PacketCommit : tblFind alone.fab.inbound 6 = some (put1 0 false) ∧ (put1 0 false).checked = true ∧ (put1 0 false).sent = false ∧
    alone.blk.state ≠ .orphaned ∧ alone.inTurn 6 (put1 0 false).head (put1 0 false).req := by rw [inTurn_plain rfl]; decide

/-- DeviceTable: the last device of the table; an entry that is wanted, malformed and well formed; a command to assign the number. -/
def filling2 (b : Mem) : State := { ported with fab := { ported.fab with cache := [], rereads := [65535] }, mem := { base.mem with bytes := b } }
theorem test_hyp_DeviceTable : ported.ownerMay owner ∧ 65535 < 2 ^ 16 ∧ ported.fab.ops = [] ∧ (filling2 []).wantsEntry 65535 = true ∧
    (filling2 []).hostHeld (0 * 2 ^ 20 + 16 * 65535) 16 false = [] ∧ (filling2 []).fab.inbound = [] ∧ (filling2 []).fab.ops = [] ∧
    (filling2 []).fab.cache.length < 4096 ∧ (filling2 []).noFold .peer noQuarry 65535 ∧ setHas (filling2 []).fab.rereads 65535 = true ∧
    ({ adming (.assignDeviceNumber 3) with ctxs := [] } : State).ctxs = [] ∧ (adming (.assignDeviceNumber 3)).ctxs ≠ [] := by
  unfold State.ownerMay State.noFold; decide
def fabOp (sent : Bool) : FabOp := ⟨2, 0, 0, .copy 1, 0, some 1, 0, 64, [1], false, 0, 0, 0, sent, none, [], 0, 0⟩
def operating (sent : Bool) : State :=
  { ported with fab := { ported.fab with ops := [(9, fabOp sent)], cache := [(2, { dev with qpCount := 1 })] } }
theorem test_hyp_DeviceTable_busy : (operating true).ownerMay owner ∧ (operating true).fab.ops ≠ [] ∧ (operating true).noFold .peer noQuarry 0 := by
  unfold State.ownerMay State.noFold; decide

/-- PeersAndCredits. -/
theorem test_hyp_PeersAndCredits : tblFind (operating true).fab.ops 9 = some (fabOp true) ∧ (fabOp true).sent = true ∧ ported.fab.inbound = [] ∧ ported.fab.ops = [] ∧
    (operating false).fab.ops = [(9, fabOp false)] ∧ (operating false).fab.assigned = true ∧
    (operating false).devEntry? 2 = some { dev with qpCount := 1 } ∧ 0 < (tblGet (0, 0) (operating false).fab.credits 3).1 + 1 ∧
    (operating false).blk.heldFrom = none ∧ ({ dev with qpCount := 1 } : DevEntry).channel = 3 ∧ (operating true).peerSt 2 = .normal ∧ tblSorted (operating true).fab.ops = true ∧ (operating true).flint.objs = [] ∧
    (operating true).noFold .peer noQuarry 2 ∧
    (let s := flinting { root with hasParent := true, parentDevice := 2 } (.flintArrive 2)
     (s.obj 2).state = 1 ∧ (s.obj 2).barrier = true ∧ (s.obj 2).hasParent = true ∧ (s.obj 2).parentDevice = 2) := by
  unfold State.noFold; decide

/-! ## Hypotheses of the statements about power, faults and the whole machine -/

def alerted : State := { base with pwr := { alert := true, alertFloor := true } }
def released (now : Nat) : State := { base with blk := { base.blk with ref := 2 ^ 32 * now }, pwr := { alertFloor := true, alertEnd := 0, deferredFset := some 7 } }
theorem test_hyp_PowerCaps : base.ownerMay owner ∧ base.strata.str.fixed = false ∧ base.structured = true ∧ base.pwr.alertFloor = false ∧ base.blk.state ≠ .sleep ∧
    alerted.ownerMay owner ∧ alerted.pwr.alertFloor = true ∧ alerted.pwr.alert = true ∧ asleep.blk.state = .sleep ∧ owner ≠ .host ∧
    ({ base with strata := {} } : State).structured = false ∧ (released 9999).now < (released 9999).pwr.alertEnd + 10000 ∧
    (released 10000).pwr.alertEnd + 10000 ≤ (released 10000).now ∧ (released 10000).pwr.alert = false := by unfold State.ownerMay; decide

theorem test_hyp_PowerCaps_cases : base.portTake = .taken ∧ base.hostQuiet = true ∧ base.isOwner .host = false ∧ base.isOwner (.sideband 5 6) = false ∧
    asleep.blk.booted = true ∧
    (let s : State := { released 10000 with blk := { (released 10000).blk with state := .sleep } }
     s.blk.state = .sleep ∧ s.pwr.alertEnd + 10000 ≤ s.now ∧ s.pwr.alertFloor = true ∧ s.pwr.alert = false) := by decide

def power (x : QPower) : State := { base with pwr := { q := [(0, x)] }, strata := { base.strata with str := { base.strata.str with boost := true } } }
def cool : QPower := { fset := 28, railLimit := 1000, grant := 1000 }
theorem test_hyp_ClocksAndThermal : (power cool).pwr.alertFloor = false ∧ ((power cool).quarry 0).present = true ∧ cool.boost = 0 ∧
    (power cool).boostHolds 0 = true ∧ 1000 * 1 ≤ cool.grant ∧ Nat.max 25 cool.boost < (power cool).ceiling 0 ∧
    (power { cool with computeC := 85 }).boostHolds 0 = false ∧ cool.grant < 1000 * 2 ∧ alerted.pwr.alertFloor = true ∧ 0 < cool.railLimit ∧
    9 * 1000 ≤ 10 * ({ cool with railAverage := 900 } : QPower).railAverage := by decide
/-- A voltage step of the ROM table below 0.95 V, and one at it. -/
theorem test_hyp_VoltageTrim : ({ freq := 4 } : QPower).milliVolts 4 + 5 ≤ 950 ∧ 950 < ({ freq := 4, trim := [(4, 100)] } : QPower).milliVolts 4 + 5 := by decide

def trimmed (now : Nat) (at' high : Option Nat) : QPower × State :=
  let x : QPower := { cool with trimmedAt := at', marginHigh := high }
  (x, { power x with blk := { base.blk with ref := 2 ^ 32 * now } })
theorem test_hyp_VoltageTrim_times : (∀ a ∈ (trimmed 10000 none none).1.trimmedAt, a + 10000 ≤ (trimmed 10000 none none).2.now) ∧
    (∀ a ∈ (trimmed 10000 (some 0) none).1.trimmedAt, a + 10000 ≤ (trimmed 10000 (some 0) none).2.now) ∧
    (∃ a ∈ (trimmed 9999 (some 0) none).1.trimmedAt, (trimmed 9999 (some 0) none).2.now < a + 10000) ∧
    (∀ a ∈ (trimmed 99999999 none (some 0)).1.marginHigh, (trimmed 99999999 none (some 0)).2.now < a + 100000000) ∧
    (∀ a ∈ (trimmed 100000000 none (some 0)).1.marginHigh, a + 100000000 ≤ (trimmed 100000000 none (some 0)).2.now) := by decide
/-- A quarry below its wanted clock, with the rail low and high; one at it; a ceiling of 2.5 GHz; a structure in force without FIXED. -/
theorem test_hyp_ClockSteps :
    (let s := power cool; cool.freq < s.wanted 0 ∧ cool.rail < 10 * cool.milliVolts (s.wanted 0)) ∧
    (let x : QPower := { cool with rail := 12000 }; let s := power x; x.freq < s.wanted 0 ∧ 10 * x.milliVolts (s.wanted 0) ≤ x.rail) ∧
    (let x : QPower := { cool with freq := 28 }; (power x).wanted 0 ≤ x.freq) ∧
    25 < (power cool).ceiling 0 ∧ (power { cool with ageCeiling := 25 }).ceiling 0 ≤ 25 ∧
    (power cool).structured = true ∧ (power cool).strata.str.fixed = false ∧ (power cool).qpower 0 = cool ∧ tblFind (power cool).pwr.q 0 = some cool := by decide

def demand (w : Nat) : DemandItem := ⟨some 0, 0, [w]⟩
theorem test_hyp_PowerGrants : base.blk.booted = true ∧ base.blk.quartz.isSome = true ∧ base.blk.state ≠ .sleep ∧
    Nat.max (1000 * ((demand 5).draws.take 8).sum) (1000 * ((demand 5).draws.take 8).sum / 8) + 1000 * 2795 ≤ 1000 * Nat.min base.pwr.capRack base.pwr.capOwner ∧
    1000 * Nat.min base.pwr.capRack base.pwr.capOwner < 1000 * ((demand 80).draws.take 8).sum / 8 + 1000 * 2795 ∧ base.pwr.infeasible = false ∧
    (demand 5).cls.val ≠ 2 ∧ base.noFold .capInfeasible noQuarry 0 ∧ (base.quarry 7).present = true ∧
    ({ base with blk := { base.blk with quartz := none } } : State).blk.quartz = none := by
  unfold State.noFold; decide

theorem test_hyp_SleepAndTime : (∀ e ∈ (queued queueOf).queues, (queued queueOf).queueIdle e.2 = true) ∧
    (∀ e ∈ (adming .sleep).tasks, e.2.queue = none ∨ e.2.over = true) ∧ base.mica.cmds = [] ∧ (∃ e ∈ (rung false).queues, (rung false).queueIdle e.2 = false) ∧
    (let s : State := { quiet with blk := { quiet.blk with sleepAsked := true } }
     s.blk.sleepAsked = true ∧ s.blk.state = .structured ∧ s.tasks = [] ∧ s.pkts = [] ∧ s.heldIn (fun _ => true) = []) ∧
    (let s : State := { quiet with blk := { quiet.blk with state := .sleep, wakeAsked := true }, host := { quiet.host with d3hot := true, pmeEn := true } }
     s.blk.state = .sleep ∧ s.blk.quartz.isSome = true ∧ s.blk.resumeOrphaned = false ∧ s.queues = [] ∧ s.adm.recorded = none ∧ s.host.linkUp = true) ∧
    base.blk.sleepAsked = false ∧ base.blk.perst = false ∧ base.blk.refSpread = 0 ∧ State.reset.blk.perst = true := by decide

/-- Lanes: the last lane of a link's port, with spares, without, at half width, with no good flit; training results that are stale. -/
def port : LaneRef := ⟨0, .xp, 0, 543⟩
def laneState (st sp fails : Nat) : State :=
  { base with
    qry := [(0, { (base.quarry 0) with ports := [(0, { state := st, spares := sp, half := decide (st = 2) })], crcFails := [(laneKey port, fails)], trained := [(laneKey port, (40, 900))], stale := [laneKey port] })] }
theorem test_hyp_Lanes : (∀ st ∈ [1, 2], (laneState st 0 3).laneUp port = true ∧ (laneState st 0 3).laneHalf port = decide (st = 2) ∧
      ∃ j p, (laneState st 0 3).portOf port = some (j, p) ∧ p.state = st) ∧
    (∀ l ∈ [⟨0, .tsv, 0, 4223⟩, ⟨0, .result, 15, 335⟩], base.laneUp l = true ∧ base.laneHalf l = false) ∧ base.laneSpares ⟨0, .tsv, 0, 4223⟩ = 2 ∧
    (laneState 1 32 3).laneSpares port = 32 ∧ (laneState 1 1 3).laneSpares port = 1 ∧ tblGet 0 ((laneState 1 0 3).quarry 0).crcFails (laneKey port) = 3 ∧
    base.strata.str.laneRetries = 3 ∧ tblFind ((laneState 1 0 3).quarry 0).trained (laneKey port) = some (40, 900) ∧
    (laneState 1 0 3).linkStale port = true ∧ (40 + 10 < 51 ∨ 51 + 10 < 40 ∨ 2 * 900 < 900) ∧ ¬ (40 + 10 < 50 ∨ 50 + 10 < 40 ∨ 2 * 900 < 1800) ∧
    (laneState 1 1 3).noFold .laneSwap 0 (laneUnit port) ∧ (laneState 1 0 3).noFold .staleNoSpare 0 (laneUnit port) := by
  refine ⟨?_, ?_⟩
  · intro st h
    rcases List.mem_cons.mp h with rfl | h
    · exact ⟨by decide, by decide, _, _, rfl, rfl⟩
    · rcases List.mem_singleton.mp h with rfl
      exact ⟨by decide, by decide, _, _, rfl, rfl⟩
  · unfold State.noFold; decide
def cut : State :=
  { base with qry := [(0, { (base.quarry 0) with ports := [(0, { state := 1 })] }), (1, { (base.quarry 1) with ports := [(0, { state := 3 })] })] }
theorem test_hyp_Detour : cut.laneUp port = true ∧ (∃ p, cut.portOf port = some (0, p) ∧ p.state = 1) ∧ cut.blk.quartz = some 0 ∧
    ∃ f : Port, tblFind (cut.quarry 1).ports 0 = some f ∧ f.state = 3 ∧ f.detour = false :=
  ⟨by decide, ⟨_, rfl, rfl⟩, by decide, _, rfl, rfl, rfl⟩

theorem test_hyp_Detour_held : (cut.detoured 1 0).blk.heldFrom = none ∧
    ∀ q, q < 2 → ∀ e ∈ ((cut.detoured 1 0).quarry q).ports, e.2.state = 3 → e.2.detour = true := by decide

/-- UnitFaults. -/
theorem test_hyp_UnitFaults : base.blk.quartz = some 0 ∧ ({ base with blk := { base.blk with quartzSpare := true } } : State).blk.quartzSpare = true ∧
    base.blk.quartzSpare = false ∧ (base.quarry 0).present = true ∧ (base.qpower 0).pllFallback = false ∧ (base.quarry 0).pllSpareLeft = true ∧
    ((laneState 1 0 0).quarry 0).pllSpareLeft = true ∧ copyState.task? 1 = some copying ∧ copying.engine = some (0, 0) ∧ setHas (base.quarry 0).engines 0 = true ∧
    (base.quarry 0).copySpare = true ∧ (base.tile 0).role ≠ .absent ∧ (base.tile 0).task = some 1 ∧ base.task? 1 = some task ∧
    base.strata.str.retireMv = 15 ∧ base.spareFor (quarryOf 0) = some 1 ∧ quiet.spareFor (quarryOf 0) = none ∧ (base.tile 1).role = .spare ∧
    (launching.tile 0).task = none ∧ launching.spareFor (quarryOf 0) = some 1 ∧
    (let s : State := { base with qry := [(0, { present := true, engines := [0, 1, 2, 3] })] }
     (s.quarry 0).pllSpareLeft = false ∧ (s.quarry 0).copySpare = false) := by decide

def failing (c : Nat) : Task := { task with faults := [(.poisonedOutput, mkDetail c none 1 1)] }
theorem test_hyp_UnitFaults_causes : (∀ f ∈ (failing 0x41).faults, f.2.cause ≠ 0x42) ∧ ∃ f ∈ (failing 0x42).faults, f.2.cause = 0x42 := by decide

/-- SelfTests. -/
def testingState : State := { base with tiles := [(0, { role := .testing })], flt := { testing := [.copyEngine 0, .pll 0, .quartz] } }
theorem test_hyp_SelfTests : base.overdue 0 = false ∧ ({ base with tiles := [] } : State).nextStep 0 = none ∧ base.nextStep 0 = some 0 ∧
    (base.tile 0).task.isSome = true ∧ ({ base with tiles := [(1, { role := .spare, healthy := true })] } : State).nextStep 0 = some 1 ∧
    (base.tile 1).role = .spare ∧ base.isSpare 1 = true ∧ base.spareUnit (.copyEngine 0) = true ∧ (testingState.tile 0).role = .testing ∧
    testingState.flt.unserved = [] ∧ testingState.noFold .tileSelftest 0 0 ∧ TestUnit.quartz ∈ testingState.flt.testing ∧
    (∀ e ∈ (adming (.selfTest 0)).queues, (adming (.selfTest 0)).queueIdle e.2 = true) ∧
    (adming (.selfTest 1)).testsOpen [] = false ∧ (∃ e ∈ (rung false).queues, (rung false).queueIdle e.2 = false) ∧
    (let s : State := { base with flt := { base.flt with enable := true, due := [1] }, host := { base.host with msixEn := true, msix := [(0, ⟨64, 1, false⟩)] } }
     s.flt.due ≠ [] ∧ (∀ a ∈ s.flt.lastMsg, a + 10000 ≤ s.now) ∧ s.host.functionMask = false ∧ (tblGet {} s.host.msix s.flt.vector).masked = false ∧
       s.host.bme = true ∧ s.host.linkUp = true) := by unfold State.noFold; decide
theorem test_hyp_SelfTests_units : (∀ p, TestUnit.quartz ≠ .tile p) ∧ (∀ p, TestUnit.copyEngine 0 ≠ .tile p) :=
  ⟨(fun _ h => by cases h), (fun _ h => by cases h)⟩

/-- The invariants hold at reset, and in the state that most tests use; the queue has a front. -/
theorem test_hyp_Invariants : State.reset.memOk ∧ State.reset.rangesOk ∧ base.memOk ∧ base.rangesOk ∧
    ({ base with pending := [.heartbeat, .flr] } : State).pending = .heartbeat :: [.flr] := by
  unfold State.memOk State.rangesOk capOk; decide

/-! ## A signed image that passes (R48 to R52, R66) -/

/-- An image of one vein without tiles and one byte of microcode, written by hand from R48 to R52; its signature has both scalars 1. -/
def image : List Byte :=
    [83, 84, 82, 65, 0, 2, 0, 0, 40, 2, 0, 0, 197, 109, 80, 235, 1, 0, 0, 0, 0, 0, 0, 0, 64, 0, 0, 0, 232, 0, 0, 0, 40, 1] ++
    List.replicate 30 0 ++
    [2, 0, 0, 0, 10, 0, 0, 0, 1] ++
    List.replicate 15 0 ++
    [4, 0, 0, 0, 176] ++
    List.replicate 179 0 ++
    [8, 0, 1, 0, 9, 0, 0, 0, 0, 0, 0, 0, 1, 0, 0, 0, 0, 0, 0, 0, 0, 0, 0, 0, 1, 0, 0, 0, 0, 0, 0, 0, 4, 204, 49, 128, 185, 136, 80, 65, 34, 213,
      169, 8, 69, 54, 47, 92, 67, 214, 215, 234, 9, 176, 15, 211, 80, 50, 236, 22, 94, 109, 190, 236, 78, 110, 149, 195, 149, 46, 29, 169, 229,
      179, 126, 204, 60, 214, 55, 156, 65, 232, 200, 87, 68, 152, 22, 102, 222, 8] ++
    [130, 52, 130, 149, 48, 85, 181, 97, 246, 252, 152, 102, 121, 76, 28, 4, 192, 234, 241, 134, 216, 126, 144, 25, 182, 25, 164, 18, 25, 45,
      47, 185, 127, 42, 160, 213, 239, 215, 98, 0, 0, 0, 0, 0, 0, 0, 76, 155, 194, 69, 207, 43, 56, 224, 17, 163, 171, 182, 43, 47, 74, 104, 217,
      57, 237, 69, 113, 113, 74, 202, 34, 67, 59, 24, 140, 111, 132, 133, 72, 230, 104, 248, 4, 160, 184, 247, 199, 226, 92, 200] ++
    [1, 201, 208, 114, 76, 155, 194, 69, 207, 43, 56, 224, 17, 163, 171, 182, 43, 47, 74, 104, 217, 57, 237, 69, 113, 113, 74, 202, 34, 67, 59,
      24, 140, 111, 132, 133, 72, 230, 104, 248, 4, 160, 184, 247, 199, 226, 92, 200, 1, 201, 208, 114] ++
    List.replicate 48 0
def imageKey : BitVec 384 := 0xf60645bb5db3a507c4bfd5dac3e87ce32a278a3cb3f4cf87d9e10484a1a25a103c049b9e3fa2c569378566d6458f9040#384

/-- The image passes every check with its key in slot 0, and with another key it is refused at check 5. -/
def passes (c : Checked) : Bool := match c with
  | .ok _ => true
  | .bad _ => false
set_option maxRecDepth 200000 in
theorem test_image_accepted : passes (checkImage [some imageKey] 0 0 0 image) = true := by decide +kernel

/-- StrataLoads: the image in device memory, fetched whole, while no sector is held by the host. -/
def stagedBody : AdminBody := .loadStrata 0 0 0 (2 ^ 26) 552
def staged : State :=
  { staging false with
    tasks := [(1, { adminTask stagedBody with phase := .running })], blk := { base.blk with keys := [some imageKey] }
    mem := { base.mem with bytes := (image.zipIdx.map (fun p => (2 ^ 26 + p.2, p.1))).filter (fun e => e.2 != 0) } }
set_option maxRecDepth 200000 in
theorem test_hyp_StrataAccepted : staged.readLatest (2 ^ 26) 552 = image ∧ staged.readPoison (2 ^ 26) 552 = false ∧ staged.hostHeld (2 ^ 26) 552 false = [] := by
  decide +kernel
theorem test_hyp_StrataHeld (p : Nat → Bool) : staged.heldIn p = [] := rfl
/-- The staged image would move a granule that is vein 0's, and the host holds a sector of it. -/
def holding : State :=
  let s := staged
  { s with
    homes := { s.homes with dir := [(0, { presence := [416], sectors := [.s, .i, .i, .i] })] }
    strata := { s.strata with
      str := { s.strata.str with veins := [(0, { vein with ranges := [⟨0, 64, false, 0⟩] })] }
      load := some ⟨1, false, 0, false, 0, s.strata.str, 0, some image⟩ } }
def holds (s : State) : Bool := match checkImage s.fuses.1 s.fuses.2 0 0 image with
  | .ok rs => decide (s.heldIn (granChanges false 0 s.strata.str (s.clampFull rs).str (fun q => bit s.upBits q) (s.upWith (s.clampFull rs).str)) ≠ [])
  | .bad _ => false
set_option maxRecDepth 200000 in
theorem test_hyp_StrataWaits : holds holding = true := by decide +kernel

/-! ## Ill-formed commands, one for each check -/

theorem test_wf_tile : (Instr.add 416 1 2 3).wf = false ∧ (Instr.add 415 1 2 3).wf = true := by decide
theorem test_wf_quarry : (Instr.pllFault 8 0).wf = false ∧ (Instr.pllFault 7 0).wf = true := by decide
theorem test_wf_queue : (Instr.entryFetch (some 4096)).wf = false ∧ (Instr.entryFetch none).wf = true := by decide
theorem test_wf_width : (Instr.regRead 0 2).wf = false ∧ (Instr.regRead 0 4).wf = true := by decide
theorem test_wf_lane : (Instr.laneCrcFail ⟨0, .tsv, 0, 4224⟩).wf = false ∧ (Instr.laneCrcFail ⟨8, .xp, 0, 0⟩).wf = false ∧
    (Instr.laneCrcFail ⟨0, .result, 16, 0⟩).wf = false ∧ (Instr.laneCrcFail ⟨0, .result, 15, 336⟩).wf = false ∧
    (Instr.laneCrcFail ⟨0, .y, 0, 544⟩).wf = false := by decide
theorem test_wf_cache : (Instr.cacheEnable (.copyEngine 0 5)).wf = false ∧ (Instr.cacheEnable (.quartzData 2)).wf = false ∧
    (Instr.cacheEnable (.sequencer 32)).wf = false ∧ (Instr.cacheEnable (.tileInstr 416)).wf = false := by decide
theorem test_wf_unit : (Instr.spareTest (.spareBank 0 0 68)).wf = false ∧ (Instr.spareTest (.pll 8)).wf = false ∧
    (Instr.spareTest .quartz).wf = true := by decide
theorem test_wf_bank : (Instr.dramRefresh 0 1024).wf = false ∧ (Instr.rowRepair 0 0 65536).wf = false := by decide
theorem test_wf_object : (Instr.childListRead 16384 noDramFinding).wf = false ∧ (Instr.childListRead 16383 noDramFinding).wf = true := by decide
theorem test_wf_memory : (Instr.memRead 0 0).wf = false ∧ (Instr.memRead 0 257).wf = false ∧ (Instr.memRead (2 ^ 40) 1).wf = false ∧
    (Instr.memRead 0 256).wf = true := by decide

/-! ## One step each, with results that the spec gives -/

/-- The state after a command. -/
def after (i : Instr) (s : State) : State :=
  match exec i s with
  | .next u => u
  | _ => s
def top : Word := 0xFFFFFFFFFFFFFFFF#64
def low : Word := 0x8000000000000000#64
/-- The result in g1 of the instruction with word `w` on g2 and g3. -/
def g1Of (w : Nat) (i : Instr) (a b : Word) : Word := ((after i (placed (withTile ((tile.setG 2 a false).setG 3 b false)) w)).tile 0).gr 1
/-- The word of a register form with gd = g1 and operands g2 and g3. -/
def alu (op : Nat) : Nat := word [(4, 1), (9, 2), (14, 3), (19, op)]

/-- R164: wraparound; shifts by the low six bits; division by zero and its overflow. -/
theorem test_add_wraps : g1Of (alu 0) (.add 0 1 2 3) top 2 = 1 := by decide
theorem test_sra_low_bits : g1Of (alu 7) (.sra 0 1 2 3) low 65 = 0xC000000000000000#64 := by decide
theorem test_slt_signed : g1Of (alu 8) (.slt 0 1 2 3) top 1 = 1 ∧ g1Of (alu 9) (.sltu 0 1 2 3) 1 top = 1 := by decide
theorem test_mulh_signs : g1Of (alu 0x11) (.mulh 0 1 2 3) top 1 = top ∧ g1Of (alu 0x12) (.mulhu 0 1 2 3) top top = 0xFFFFFFFFFFFFFFFE#64 := by decide
theorem test_div_corners : g1Of (alu 0x14) (.div 0 1 2 3) 7 0 = top ∧ g1Of (alu 0x14) (.div 0 1 2 3) low top = low := by decide
theorem test_rem_corners : g1Of (alu 0x16) (.rem 0 1 2 3) 7 0 = 7 ∧ g1Of (alu 0x16) (.rem 0 1 2 3) (-7) 2 = -1 := by decide
theorem test_addi_extends : g1Of (word [(0, 1), (4, 1), (9, 2), (19, 0x1FFF)]) (.addi 0 1 2 0x1FFF) 5 0 = 4 := by decide
/-- R165. -/
theorem test_shins : g1Of (word [(0, 2), (4, 1), (9, 2), (14, 0x3FFFF)]) (.shins 0 1 2 0x3FFFF) 1 0 = 0x7FFFF#64 := by decide
/-- R166: a backward branch; the link register. -/
theorem test_branch_back : ((after (.beq 0 2 3 0x1FFF) (placed base (word [(0, 3), (9, 2), (14, 3), (19, 0x1FFF)]))).tile 0).pc = 0xFFC := by decide
theorem test_jal_links : let u := after (.jal 0 1 2) (placed base (word [(0, 4), (4, 1), (9, 2)]))
    (u.tile 0).pc = 0x1008 ∧ (u.tile 0).gr 1 = 0x1004 := by decide

/-- R114: binary32 lanes, 1.5 + 2.25 = 3.75; a NaN result is canonical; flush-to-zero. -/
def lanes (a b : Word32) : State := withTile ((tile.setV 1 (ofLanes (fun _ => a)) false).setV 2 (ofLanes (fun _ => b)) false)
def lane0 (w : Nat) (i : Instr) (a b : Word32) : Word32 := lane (((after i (placed (lanes a b) w)).tile 0).vr 3) 0
def faddWord : Nat := wide 0 [(32, 3), (37, 1), (42, 2)]
theorem test_fadd : lane0 faddWord (.fadd 0 3 1 (.vec 2) ctl) 0x3FC00000 0x40100000 = 0x40700000 := by decide +kernel
theorem test_fadd_nan : lane0 faddWord (.fadd 0 3 1 (.vec 2) ctl) 0x7F800000 0xFF800000 = 0x7FC00000 := by decide +kernel
theorem test_ftz : lane0 (wide 0 [(24, 2), (32, 3), (37, 1), (42, 2), (57, 1)]) (.fmul 0 3 1 (.vec 2) { ctl with ftz := true }) 0x00800000 0x3F000000 = 0 := by
  decide +kernel

/-- The worked example of R90 to R93: −21, a tie that goes up to 2 and one that goes to −2; in every order N = −21. -/
theorem test_terms_worked : (((({} : AccEntry).term (-4) (.fin true 21 (-4))).term (-4) (.fin false 3 (-5))).term (-4) (.fin true 5 (-5))).n = -21 ∧
    (((({} : AccEntry).term (-4) (.fin false 3 (-5))).term (-4) (.fin true 5 (-5))).term (-4) (.fin true 21 (-4))).n = -21 := by decide
/-- The worked example of R112: scale 0x81, codes 7, 3, 8, 4. -/
theorem test_mx_worked : mxBlock fmtE2M1 2 ⟨.rne, true, false, false⟩
    ([(Machine.Num.fin false 336 (-4), 0), (.fin false 85 (-4), 0), (.fin true 11 (-4), 0), (.fin false 160 (-4), 0)] ++ List.replicate 28 (Machine.Num.zero, 0)) =
    (0x81, [7, 3, 8, 4] ++ List.replicate 28 0) := by decide
/-- The worked layout of R201 and R202: row 5,000 of an MXFP4 weight over stacks 0 to 6. -/
def layout : MicaBlock := ⟨0x1000000000, 0, 0, 0, 0, 6400, 512, 204800, 6400, 0, 0x7F, 7, 7, 0, 0, true⟩
theorem test_mica_layout : layout.weightAddr 5000 0 = 0x11001C4000 ∧ layout.weightAddr 5000 2048 = 0x11003C4000 ∧ layout.scaleAddr 5000 + 128 = 0xF42C0 := by decide

/-- The worked example of R367: the header words of a late inline copy, and word 0 of its completion. -/
def header : List Byte := leBytes 8 0x00001234000C0301 ++ leBytes 8 0x1388 ++ leBytes 8 0x124 ++ leBytes 8 0x100000123
theorem test_header_worked : Machine.field header 1 1 = 3 ∧ Machine.field header 4 4 = 0x1234 ∧ flagWait (Machine.field header 2 2) = true ∧ flagSignal (Machine.field header 2 2) = true ∧
    Machine.field header 8 5 = 5000 ∧ Machine.field header 0x10 2 % 2 ^ 14 = 292 ∧ Machine.field header 0x18 2 % 2 ^ 14 = 291 ∧ Machine.field header 0x1C 4 = 1 := by decide
theorem test_completion_worked : leNat ({ task with opcode := 3, tag := 0x1234, late := true } : Task).word0 = 0x0000123401010300 := by decide

/-- R332: an add that passes 2^32 − 1 saturates and sets OVF. -/
theorem test_flint_saturates : let u := after (.flintHomeAdd 9) (flinting counter (.flintAdd 2 1))
    (u.obj 2).value = 2 ^ 32 - 1 ∧ (u.obj 2).ovf = true := by decide
/-- R335: the last arrival flips PHASE and starts the count again. -/
theorem test_barrier_flips : let u := after (.flintHomeArrival 9) (flinting root (.flintArrive 2))
    (u.obj 2).phase = true ∧ (u.obj 2).value = 0 := by decide
/-- R252, R300: two bytes written at LOCAL 62, and no other. -/
theorem test_home_write : let u := after (.homeWrite 9 ⟨.clean, [], .clean, .clean⟩) (asked (.write 62 [1, 2] false none))
    u.mem.bytes = [(62, 1), (63, 2)] ∧ u.pkts = [] := by decide
/-- R302: a compare-and-swap that matches stores; the old value is answered. -/
theorem test_home_cas : let u := after (.homeAmo 9 ⟨.clean, [], .clean, .clean⟩) (asked (.amo 8 true 2 0 7 false))
    memRead u.mem.bytes 8 8 = [7, 0, 0, 0, 0, 0, 0, 0] ∧ (tblFind u.rsps 9).map (·.data) = some [0, 0, 0, 0, 0, 0, 0, 0] := by decide
/-- R341: a take of an empty word waits, and of a full one empties it. -/
theorem test_take_waits : (after (.feHomeTake 9 ⟨.clean, [], .clean, .clean⟩) (feState (.tile 0) (.feTake 0) false)).flint.waiters.length = 2 ∧
    (after (.feHomeTake 9 ⟨.clean, [], .clean, .clean⟩) (feState (.tile 0) (.feTake 0) true)).feFull 0 = false := by decide
/-- R365: a doorbell of the size of the ring is ignored and counted. -/
theorem test_doorbell_range : (after (.workDoorbell (4096 * 3) 8 16 ⟨false, false⟩) (queued queueOf)).blk.dbIgnored = 1 ∧
    ((after (.workDoorbell (4096 * 3) 8 15 ⟨false, false⟩) (queued queueOf)).queue? 3).map (·.tail) = some 15 := by decide
/-- The worked example of R518 to R522: epoch 8 wins over a lapsed 7, a late renewal is denied, and a second claim with 8 loses. -/
theorem test_claim_worked : let s := after (.claim (.remote 0x32 8)) { base with own := { st := .lapsed, kind := .none, epoch := 7, denied := 0 } }
    s.own.st = .held ∧ s.own.eid = 0x32 ∧ s.own.epoch = 8 ∧ (after (.ownRenew (.remote 0x31 7) 7) s).own.denied = 1 ∧
    (after (.claim (.remote 0x31 8)) s).own.epoch = 8 ∧ (after (.claim (.remote 0x31 8)) s).own.eid = 0x32 := by decide
/-- R465: caps are clamped to 800 and 3,000 W. -/
theorem test_caps_clamped : (after (.rackCapSet 100) base).pwr.capRack = 800 ∧ (after (.rackCapSet 5000) base).pwr.capRack = 3000 := by decide
/-- R472: at 105 °C the quarry comes to 0.4 GHz and its pulse gate closes. -/
theorem test_thermal : ((after (.thermalSample [(0, ⟨105, 60, 60⟩)]) base).qpower 0).thermLimit = 4 ∧
    ((after (.thermalSample [(0, ⟨104, 60, 60⟩)]) base).qpower 0).thermGate = false := by decide
/-- R442: an unassigned block answers BLOCK_NOT_READY. -/
theorem test_inbound_not_ready : (after (.inboundGet (head 16 4) 0 8) base).sent = [.response 16 4 .notReady [] []] := by decide
/-- R513: PERST# loses everything that the reset table clears. -/
theorem test_perst : (after .perstAsserted base).own.st = .vacant ∧ (after .perstAsserted base).ctxs = [] := by decide
/-- R480. -/
theorem test_heartbeat : (after .heartbeat base).blk.hbeat = true := by decide
/-- R404, R530: the one refusal. -/
theorem test_component_register : (match exec (.regWrite owner 0x800000 4 0) base with
    | .refused .cxlComponentRegister => true
    | _ => false) = true := by decide
/-- The queue: its front runs, an empty one idles; a word spells no command (the table gives no bits). -/
theorem test_step_front : (match step { base with pending := [.heartbeat, .flr] } with
    | .next u => u.blk.hbeat && decide (u.pending = [.flr])
    | _ => false) = true := by decide
/-- The words of R160 to R184, put together by hand from their field tables. -/
def reads (w0 w1 : Nat) (i : Instr) : Bool := decide (decodeInsn 0 w0 w1 = some i)
theorem test_decode_scalar : reads 0xFFF80411 0 (.addi 0 1 2 (-1)) = true ∧ reads 0xC410 0 (.add 0 1 2 3) = true ∧ reads 0xC00410 0 (.clz 0 1 2) = true ∧
    reads 0xFFFFC412 0 (.shins 0 1 2 0x3FFFF) = true ∧ reads 0xFFF8C413 0 (.bne 0 2 3 (-1)) = true ∧ reads 0x414 0 (.jal 0 1 2) = true ∧
    reads 0x200415 0 (.jalr 0 1 2 4) = true ∧ decodeInsn 0 0xC 0 = none := by decide
theorem test_decode_memory : reads 0x44C416 0 (.load 0 1 2 ⟨3, false, false, true⟩ 8 .good .clean) = true ∧
    reads 0x40C4A7 0 (.store 0 3 2 ⟨2, false, true, false⟩ 8 .good) = true ∧ reads 0x2A0C418 0 (.amoCas 0 1 2 3 ⟨true, false, true, false⟩ .clean .good) = true := by decide
theorem test_decode_units : reads 0x180009 0 (.fullfence 0 .good) = true ∧ reads 0x8188040A 0 (.csrw 0 2 0x031) = true ∧ reads 0x280000B 0 (.commit 0 5) = true ∧
    reads 0xFF98000B 0 (.trap 0 0x1FF) = true := by decide
theorem test_decode_vector : reads 0xF 0x2000823 (.fadd 0 3 1 (.vec 2) { ctl with ftz := true }) = true ∧
    reads 0x91000E0F 0xA00025 (.fclt 0 5 1 (.scal 7) { ctl with pg := 2, pen := true }) = true ∧ reads 0x2309001F 0xA0 (.vext 0 1 4 5) = true ∧
    reads 0x110040F 3 (.vst 0 3 2 ctl) = true ∧ reads 0x418001F 0xA0 (.vredAdd 0 1 5 ctl) = true ∧ reads 0x320000F 0xC41 (.pandn 0 1 2 3 ctl) = true := by decide
theorem test_decode_engines : reads 0x40820F 0xC85 (.mma 0 1 2 ⟨1, 1, 2, 3, 0, 0, 0⟩) = true ∧
    reads 0x540820F 0x3F055F (.accCvt 0 1 2 ⟨3, 7, 1, true, false, true, 32, 31⟩) = true ∧
    reads 0x60020F 0x437 (.tmove 0 1 ⟨7, false, true, 1, 2, 0, false, false⟩ .clean noDramFinding .good) = true ∧ reads 0x68020F 6 (.micaGemv 0 1 6 .clean .good) = true ∧
    decodeInsn 0 0x160020F 0x437 = none := by decide
theorem test_decode_sync : reads 0x280041F 0x16 (.fePeek 0 1 2 ⟨false, true, 5, 0, 0⟩ .clean) = true ∧ reads 0x1080CA0F 0 (.lcWait 0 5 3) = true := by decide
/-- R160, R161: a command that the words spell runs; one that they do not spell is no event; illegal words trap. -/
theorem test_spelled : ((after (.add 0 1 2 3) (coded 0xC410 0)).tile 0).pc = 0x1004 ∧ after (.sub 0 1 2 3) (coded 0xC410 0) = coded 0xC410 0 ∧
    ((after (.add 0 1 2 3) (coded 0xC 0)).task? 1).map (·.stopping) = some true := by decide
theorem test_no_words : decodeTableWord 32 0 = none ∧ State.reset.withFetchWord 32 0 = State.reset := by
  refine ⟨rfl, rfl⟩

end Sys2Proof.Tests
end

/-! PROOFS. A term rounded onto the grid of an anchor (R91), an integer added to an accumulator entry (R92), and the order independence of
a sum of terms (R99). -/

namespace Sys2Proof.Machine

/-! ## A magnitude on a grid (R91) -/

/-- A magnitude on a grid that is no coarser than its own unit is not rounded. -/
theorem roundUnits_of_le (mode : Rnd) (draw m : Nat) {e q : Int} (h : q ≤ e) :
    (roundUnits mode draw m e q).1 = m * 2 ^ (e - q).toNat := by
  rw [roundUnits, if_pos h, pow2]

/-- On a coarser grid, of step d, the quotient by d goes up past half a step, and at half a step where it is odd. -/
theorem roundUnits_rne_of_lt (draw m : Nat) {e q : Int} (h : e < q) :
    let d := 2 ^ (q - e).toNat
    (roundUnits .rne draw m e q).1 = if d < 2 * (m % d) ∨ 2 * (m % d) = d ∧ m / d % 2 = 1 then m / d + 1 else m / d := by
  rw [roundUnits, if_neg (not_le.mpr h)]
  refine if_congr ?_ rfl rfl
  simp only [Bool.or_eq_true, Bool.and_eq_true, decide_eq_true_eq]
  rfl

/-- On a coarser grid, of step d, the nearest multiple of d is taken, and the even one of two equally near. -/
theorem roundUnits_rne_nearest (draw m : Nat) {e q : Int} (h : e < q) :
    let n := (roundUnits .rne draw m e q).1
    let d := 2 ^ (q - e).toNat
    2 * (n * d) ≤ 2 * m + d ∧ 2 * m ≤ 2 * (n * d) + d ∧ (2 * (n * d) = 2 * m + d ∨ 2 * m = 2 * (n * d) + d → n % 2 = 0) := by
  intro n d
  have hrem : m % d < d := Nat.mod_lt m (Nat.two_pow_pos _)
  have hm : m / d * d + m % d = m := Nat.div_add_mod' m d
  have hn : n = if d < 2 * (m % d) ∨ 2 * (m % d) = d ∧ m / d % 2 = 1 then m / d + 1 else m / d := roundUnits_rne_of_lt draw m h
  clear_value n d
  split at hn
  next up =>
    have hup : n * d = m / d * d + d := by rw [hn, Nat.add_one_mul]
    omega
  next down =>
    have hdown : n * d = m / d * d := by rw [hn]
    omega

/-! ## An integer added to an entry (R92) -/

section add
variable (e : AccEntry) {q : Int}

/-- An integer that is out of an entry's range by itself. -/
theorem AccEntry.add_of_large (h : 2 ^ 127 ≤ q.natAbs) :
    e.add q = { e with n := if q < 0 then -(2 ^ 127) else 2 ^ 127 - 1, ovf := true } := by
  rw [AccEntry.add, if_pos (by omega)]

theorem AccEntry.add_of_inRange (hq : q.natAbs < 2 ^ 127) (hlow : -(2 ^ 127) ≤ e.n + q) (hhigh : e.n + q < 2 ^ 127) :
    e.add q = { e with n := e.n + q } := by
  rw [AccEntry.add, if_neg (by omega), if_neg (by omega), if_neg (by omega)]

theorem AccEntry.add_of_below (hq : q.natAbs < 2 ^ 127) (h : e.n + q < -(2 ^ 127)) :
    e.add q = { e with n := -(2 ^ 127), ovf := true } := by
  rw [AccEntry.add, if_neg (by omega), if_pos h]

theorem AccEntry.add_of_above (hq : q.natAbs < 2 ^ 127) (h : 2 ^ 127 ≤ e.n + q) :
    e.add q = { e with n := 2 ^ 127 - 1, ovf := true } := by
  rw [AccEntry.add, if_neg (by omega), if_neg (by omega), if_pos (by omega)]

/-- An addition clamps and sets OVF, or it is exact and keeps OVF; T stays in both. -/
theorem AccEntry.add_cases (q : Int) :
    (∃ n, e.add q = { e with n := n, ovf := true }) ∨ e.add q = { e with n := e.n + q } := by
  by_cases hq : 2 ^ 127 ≤ q.natAbs
  · exact .inl ⟨_, e.add_of_large hq⟩
  by_cases hlow : e.n + q < -(2 ^ 127)
  · exact .inl ⟨_, e.add_of_below (not_le.mp hq) hlow⟩
  by_cases hhigh : 2 ^ 127 ≤ e.n + q
  · exact .inl ⟨_, e.add_of_above (not_le.mp hq) hhigh⟩
  · exact .inr (e.add_of_inRange (not_le.mp hq) (not_lt.mp hlow) (not_le.mp hhigh))

@[simp] theorem AccEntry.add_tag (q : Int) : (e.add q).tag = e.tag := by
  obtain ⟨n, h⟩ | h := e.add_cases q <;> rw [h]

/-- OVF stays set. -/
theorem AccEntry.add_ovf_of_ovf (q : Int) (h : e.ovf = true) : (e.add q).ovf = true := by
  obtain ⟨n, hadd⟩ | hadd := e.add_cases q
  · rw [hadd]
  · rw [hadd]; exact h

/-- An addition that leaves OVF clear is exact. -/
theorem AccEntry.add_eq_of_ovf_false (h : (e.add q).ovf = false) : e.add q = { e with n := e.n + q } := by
  obtain ⟨n, hadd⟩ | hadd := e.add_cases q
  · simp [hadd] at h
  · exact hadd

end add

/-! ## A term added to an entry (R91 to R93) -/

/-- What a term adds to N: its integer on the grid of the anchor; a special term adds nothing. -/
def Num.gridInt (anchor : Int) : Num → Int
  | .fin neg m x => signed neg (roundUnits .rne 0 m x anchor).1
  | _ => 0

@[simp] theorem natAbs_signed (neg : Bool) (q : Nat) : (signed neg q).natAbs = q := by
  cases neg <;> simp [signed]

/-- A magnitude that is not zero keeps its sign. -/
theorem signed_neg_iff (neg : Bool) {q : Nat} (h : 0 < q) : signed neg q < 0 ↔ neg = true := by
  cases neg <;> simp [signed, h]

@[simp] theorem mergeTag_zero (t : BitVec 2) : mergeTag t 0#2 = t := if_pos rfl

/-- The merge of R93 does not see the order of the tags merged in. -/
theorem mergeTag_right_comm : ∀ t a b : BitVec 2, mergeTag (mergeTag t a) b = mergeTag (mergeTag t b) a := by decide

/-- A finite term's integer is added. -/
theorem AccEntry.term_fin (e : AccEntry) (anchor : Int) (neg : Bool) (m : Nat) (x : Int) :
    e.term anchor (.fin neg m x) = e.add (signed neg (roundUnits .rne 0 m x anchor).1) := rfl

theorem AccEntry.term_ovf_of_ovf (e : AccEntry) (anchor : Int) (t : Num) (h : e.ovf = true) : (e.term anchor t).ovf = true := by
  cases t with
  | fin neg m x => exact e.add_ovf_of_ovf _ h
  | inf neg => exact h
  | nan => exact h

/-- A term that leaves OVF clear adds its integer to N exactly and merges its tag into T. -/
theorem AccEntry.term_eq_of_ovf_false (e : AccEntry) (anchor : Int) (t : Num) (h : (e.term anchor t).ovf = false) :
    e.term anchor t = { e with n := e.n + t.gridInt anchor, tag := mergeTag e.tag (tagOf' t) } := by
  cases t with
  | fin neg m x => simpa [tagOf', AccEntry.term, Num.gridInt] using e.add_eq_of_ovf_false h
  | inf neg => simp [AccEntry.term, Num.gridInt]
  | nan => simp [AccEntry.term, Num.gridInt]

/-- Two terms that leave OVF clear: N grows by both integers, and both tags are merged into T. -/
theorem AccEntry.term_term_eq_of_ovf_false (e : AccEntry) (anchor : Int) (a b : Num) (h : ((e.term anchor a).term anchor b).ovf = false) :
    (e.term anchor a).term anchor b =
      { e with n := e.n + a.gridInt anchor + b.gridInt anchor, tag := mergeTag (mergeTag e.tag (tagOf' a)) (tagOf' b) } := by
  have hfirst : (e.term anchor a).ovf = false :=
    Bool.eq_false_iff.mpr fun hset => by simp [(e.term anchor a).term_ovf_of_ovf anchor b hset] at h
  rw [term_eq_of_ovf_false _ _ _ h, term_eq_of_ovf_false _ _ _ hfirst]

/-- R99: two terms in either order give one entry. -/
theorem AccEntry.term_comm (e : AccEntry) (anchor : Int) (a b : Num) (hab : ((e.term anchor a).term anchor b).ovf = false)
    (hba : ((e.term anchor b).term anchor a).ovf = false) :
    (e.term anchor a).term anchor b = (e.term anchor b).term anchor a := by
  rw [e.term_term_eq_of_ovf_false anchor a b hab, e.term_term_eq_of_ovf_false anchor b a hba, Int.add_right_comm, mergeTag_right_comm]

/-- Settles O18: the term's integer is the one that `roundUnits` gives; each clause on the entry is one case of its addition. -/
theorem termSums : Obligations.TermSums := by
  refine ⟨fun e anchor neg m x => ⟨_, roundUnits_of_le .rne 0 m, roundUnits_rne_nearest 0 m, ?_⟩, AccEntry.term_comm⟩
  rw [AccEntry.term_fin]
  generalize (roundUnits .rne 0 m x anchor).1 = q
  refine ⟨e.add_tag _, e.add_ovf_of_ovf _, fun hlarge => ?large, fun hq => ?small⟩
  case large =>
    rw [e.add_of_large (q := signed neg q) (by rwa [natAbs_signed])]
    simp only [signed_neg_iff neg (show 0 < q by omega), and_self]
  case small =>
    have hq : (signed neg q).natAbs < 2 ^ 127 := by rwa [natAbs_signed]
    refine ⟨fun ⟨hlow, hhigh⟩ => ?_, fun hbelow => ?_, fun habove => ?_⟩
    · rw [e.add_of_inRange hq hlow hhigh]; exact ⟨rfl, rfl⟩
    · rw [e.add_of_below hq hbelow]; exact ⟨rfl, rfl⟩
    · rw [e.add_of_above hq habove]; exact ⟨rfl, rfl⟩

end Sys2Proof.Machine

/-! PROOFS. Commands behind their words (R160, R161), and what a trap does: its log entry, its fault in the launch, and the stop of the grid
(R188, R190, R504). -/

namespace Sys2Proof.Machine

/-! ## Commands behind their words (R160, R161) -/

/-- Every command of a tile that is no event of the tile's own units has its effect behind the check of its words. Of the commands, those
of no tile and the events contradict a hypothesis; the arm of each other one is `spelled`. -/
theorem exec_eq_spelled (s : State) {t : Nat} {i : Instr} (ht : i.tile? = some t) (he : isTileEvent i = false) :
    ∃ r, exec i s = .next (s.spelled t i r) := by
  cases i <;> cases ht <;> cases he <;> exact ⟨_, rfl⟩

theorem spelled_other {s : State} {t : Nat} {i : Instr} (r : State) (hi : (s.tile t).canIssue = true)
    (hf : s.fetch t (wideWord (s.codeWord t (s.tile t).pc)) = .good) (hs : s.spelling t i = .other) : s.spelled t i r = s := by
  simp [State.spelled, hi, hf, hs]

/-- A command's step is its own effect where the words spell it. -/
theorem exec_of_spells {s r : State} {t : Nat} {i : Instr} (hi : (s.tile t).canIssue = true) (hexec : exec i s = .next (s.spelled t i r))
    (hs : s.spells t i) : exec i s = .next r := by
  rw [hexec, spelled_of s t i r hi hs]

/-- What holds of a command's own effect holds of its step where the words spell it. -/
theorem step_of_spells {s r : State} {t : Nat} {i : Instr} {P : State → Prop} (hi : (s.tile t).canIssue = true)
    (hexec : exec i s = .next (s.spelled t i r)) (hr : P r) (hs : s.spells t i) : ∃ u, exec i s = .next u ∧ P u :=
  ⟨r, exec_of_spells hi hexec hs, hr⟩

/-- A tile whose registers let an instruction issue lets one that names no register issue. -/
theorem busy_nil {x : Tile} {regs : List Reg} (h : x.busy regs = false) : x.busy [] = false := by
  simp only [Tile.busy, Bool.or_eq_false_iff] at h ⊢
  obtain ⟨⟨-, hsample⟩, -⟩ := h
  exact ⟨⟨by simp, hsample⟩, by simp⟩

/-! ## Parts that leave the rest of the state alone -/

@[simp] theorem State.modTask_flt (s : State) (k : Nat) (f : Task → Task) : (s.modTask k f).flt = s.flt := by
  obtain ⟨ts, h⟩ := s.modTask_frame k f; rw [h]

@[simp] theorem State.modTask_tiles (s : State) (k : Nat) (f : Task → Task) : (s.modTask k f).tiles = s.tiles := by
  obtain ⟨ts, h⟩ := s.modTask_frame k f; rw [h]

@[simp] theorem State.modTask_tile (s : State) (k : Nat) (f : Task → Task) (t : Nat) : (s.modTask k f).tile t = s.tile t := by
  simp [State.tile]

theorem State.modTask_task_self (s : State) (k : Nat) (f : Task → Task) : (s.modTask k f).task? k = (s.task? k).map f := by
  unfold State.modTask
  split
  next x h => simp [h]
  next h => simp [h]

/-- Mica commands that leave their stacks change Mica's tables alone. -/
theorem micaRemove_foldl_frame {α : Type} (l : List α) (g : α → Nat) (s : State) :
    ∃ m, l.foldl (fun s i => s.micaRemove (g i)) s = { s with mica := m } := by
  induction l generalizing s with
  | nil => exact ⟨s.mica, rfl⟩
  | cons i l ih =>
    obtain ⟨m, h⟩ := ih (s.micaRemove (g i))
    exact ⟨m, by rw [List.foldl_cons, h]; rfl⟩

/-! ## A grid stops (R190) -/

/-- A tile has ended its part of a launch. -/
def Tile.ended (x : Tile) : Prop := x.run = .halted ∨ x.run = .stopped

/-- An ended tile stays ended, with what it held. -/
def Tile.staysEnded (x y : Tile) : Prop := x.ended → y.ended ∧ y.held = x.held

/-- A stop of a tile: it has ended, and what it held is discarded if it had not ended before. -/
def Tile.isStopOf (x y : Tile) : Prop := y.ended ∧ (¬ x.ended → y.held = [])

theorem Tile.staysEnded_refl (x : Tile) : x.staysEnded x := fun h => ⟨h, rfl⟩

/-- One tile of a grid stops. -/
def State.stopOne (s : State) (t : Nat) : State :=
  if decide ((s.tile t).run = .halted) || decide ((s.tile t).run = .stopped) then s.dropMicas t else s.stopTile t

theorem stopTile_frame (s : State) (t : Nat) :
    ∃ x m f r h, s.stopTile t = { s.setTile t x with mica := m, flint := f, rsps := r, homes := h } ∧ x.run = .stopped ∧ x.held = [] := by
  unfold State.stopTile
  obtain ⟨m, h⟩ := micaRemove_foldl_frame ((s.tile t).micas.filter (fun m => m.2.2)) (·.1) s
  simp only [h]
  generalize (s.tile t).held.filterMap _ = ids
  obtain ⟨m', h'⟩ := micaRemove_foldl_frame ids (fun id => id) { s with mica := m }
  simp only [h']
  exact ⟨_, _, _, _, _, rfl, rfl, rfl⟩

theorem dropMicas_frame (s : State) (t : Nat) :
    ∃ x m, s.dropMicas t = { s.setTile t x with mica := m } ∧ x.run = (s.tile t).run ∧ x.held = (s.tile t).held := by
  unfold State.dropMicas
  obtain ⟨m, h⟩ := micaRemove_foldl_frame ((s.tile t).micas.filter (fun m => m.2.2)) (·.1) s
  simp only [h]
  exact ⟨_, _, rfl, rfl, rfl⟩

theorem stopOne_frame (s : State) (t : Nat) :
    ∃ x m f r h, s.stopOne t = { s.setTile t x with mica := m, flint := f, rsps := r, homes := h } ∧
      (s.tile t).staysEnded x ∧ (s.tile t).isStopOf x := by
  unfold State.stopOne
  split
  next hended =>
    obtain ⟨x, m, h, hrun, hheld⟩ := dropMicas_frame s t
    have hended : (s.tile t).ended := by simpa [Tile.ended] using hended
    have hx : x.ended := by rwa [Tile.ended, hrun]
    exact ⟨x, m, s.flint, s.rsps, s.homes, h, fun _ => ⟨hx, hheld⟩, hx, fun hn => absurd hended hn⟩
  next hrunning =>
    obtain ⟨x, m, f, r, hm, h, hrun, hheld⟩ := stopTile_frame s t
    have hrunning : ¬ (s.tile t).ended := by simpa [Tile.ended] using hrunning
    exact ⟨x, m, f, r, hm, h, fun he => absurd he hrunning, .inr hrun, fun _ => hheld⟩

theorem stopOne_tile (s : State) (t q : Nat) :
    (s.tile q).staysEnded ((s.stopOne t).tile q) ∧ (q = t → (s.tile q).isStopOf ((s.stopOne t).tile q)) ∧
      (q ≠ t → (s.stopOne t).tile q = s.tile q) := by
  obtain ⟨x, m, f, r, hm, h, hstays, hstop⟩ := stopOne_frame s t
  have htile : (s.stopOne t).tile q = if q = t then x else s.tile q := by rw [h]; exact s.setTile_tile t q x
  by_cases hq : q = t
  · subst hq
    rw [htile, if_pos rfl]
    exact ⟨hstays, fun _ => hstop, fun hn => absurd rfl hn⟩
  · rw [htile, if_neg hq]
    exact ⟨Tile.staysEnded_refl _, fun he => absurd he hq, fun _ => rfl⟩

@[simp] theorem stopOne_flt (s : State) (t : Nat) : (s.stopOne t).flt = s.flt := by
  obtain ⟨x, m, f, r, hm, h, -⟩ := stopOne_frame s t; rw [h]; rfl

@[simp] theorem stopOne_tasks (s : State) (t : Nat) : (s.stopOne t).tasks = s.tasks := by
  obtain ⟨x, m, f, r, hm, h, -⟩ := stopOne_frame s t; rw [h]; rfl

/-- The tiles of a list stop one after the other. -/
def State.stopList (s : State) (ts : List Nat) : State := ts.foldl State.stopOne s

@[simp] theorem stopList_flt (s : State) (ts : List Nat) : (s.stopList ts).flt = s.flt := by
  induction ts generalizing s with
  | nil => rfl
  | cons t ts ih => exact (ih _).trans (stopOne_flt s t)

@[simp] theorem stopList_tasks (s : State) (ts : List Nat) : (s.stopList ts).tasks = s.tasks := by
  induction ts generalizing s with
  | nil => rfl
  | cons t ts ih => exact (ih _).trans (stopOne_tasks s t)

theorem stopList_tile (s : State) (ts : List Nat) (q : Nat) :
    (s.tile q).staysEnded ((s.stopList ts).tile q) ∧ (q ∈ ts → (s.tile q).isStopOf ((s.stopList ts).tile q)) := by
  induction ts generalizing s with
  | nil => exact ⟨Tile.staysEnded_refl _, fun h => absurd h (List.not_mem_nil)⟩
  | cons t ts ih =>
    obtain ⟨hstays, hstop, hother⟩ := stopOne_tile s t q
    obtain ⟨hstays', hstop'⟩ := ih (s.stopOne t)
    change (s.tile q).staysEnded (((s.stopOne t).stopList ts).tile q) ∧ (q ∈ t :: ts → (s.tile q).isStopOf (((s.stopOne t).stopList ts).tile q))
    refine ⟨fun he => ?_, fun hmem => ?_⟩
    · obtain ⟨hone, hheld⟩ := hstays he
      obtain ⟨hall, hheld'⟩ := hstays' hone
      exact ⟨hall, hheld'.trans hheld⟩
    · by_cases hq : q = t
      · obtain ⟨hone, hdrop⟩ := hstop hq
        obtain ⟨hall, hheld⟩ := hstays' hone
        exact ⟨hall, fun hn => hheld.trans (hdrop hn)⟩
      · rw [← hother hq]
        exact hstop' ((List.mem_cons.mp hmem).resolve_left hq)

/-! ## A task is settled (R38, R137) -/

/-- A tile that an ended launch leaves keeps what it held, and does what it did or nothing. -/
def Tile.isLeftOf (x y : Tile) : Prop := (y.run = x.run ∨ y.run = .none) ∧ y.held = x.held

theorem Tile.isLeftOf_refl (x : Tile) : x.isLeftOf x := ⟨.inl rfl, rfl⟩

theorem Tile.isLeftOf_trans {x y z : Tile} (hxy : x.isLeftOf y) (hyz : y.isLeftOf z) : x.isLeftOf z := by
  obtain ⟨hrun, hheld⟩ := hxy
  obtain ⟨hrun', hheld'⟩ := hyz
  exact ⟨hrun'.elim (fun h => h ▸ hrun) .inr, hheld'.trans hheld⟩

/-- A task keeps what is known of its traps. -/
def Task.keepsTraps (x y : Task) : Prop := y.faults = x.faults ∧ y.trapped = x.trapped ∧ y.stopping = x.stopping

/-- What settling task `k` leaves: the fault log, what the tiles held, and the task with its traps. -/
def State.settledTo (s u : State) (k : Nat) : Prop :=
  u.flt = s.flt ∧ (∀ q, (s.tile q).isLeftOf (u.tile q)) ∧ ∀ y, s.task? k = some y → ∃ z, u.task? k = some z ∧ y.keepsTraps z

theorem settledTo_refl (s : State) (k : Nat) : s.settledTo s k :=
  ⟨rfl, fun _ => Tile.isLeftOf_refl _, fun y h => ⟨y, h, rfl, rfl, rfl⟩⟩

theorem settledTo_trans {s u v : State} {k : Nat} (hsu : s.settledTo u k) (huv : u.settledTo v k) : s.settledTo v k := by
  obtain ⟨hflt, htile, htask⟩ := hsu
  obtain ⟨hflt', htile', htask'⟩ := huv
  refine ⟨hflt'.trans hflt, fun q => Tile.isLeftOf_trans (htile q) (htile' q), fun y hy => ?_⟩
  obtain ⟨z, hz, hfaults, htrapped, hstopping⟩ := htask y hy
  obtain ⟨w, hw, hfaults', htrapped', hstopping'⟩ := htask' z hz
  exact ⟨w, hw, hfaults'.trans hfaults, htrapped'.trans htrapped, hstopping'.trans hstopping⟩

theorem modTask_settledTo (s : State) (k : Nat) {f : Task → Task} (hf : ∀ x : Task, x.keepsTraps (f x)) : s.settledTo (s.modTask k f) k := by
  refine ⟨s.modTask_flt k f, fun q => ?_, fun y hy => ⟨f y, ?_, hf y⟩⟩
  · rw [State.modTask_tile]; exact Tile.isLeftOf_refl _
  · rw [State.modTask_task_self, hy]; rfl

theorem modTile_settledTo (s : State) (t k : Nat) {f : Tile → Tile} (hf : ∀ x : Tile, x.isLeftOf (f x)) : s.settledTo (s.modTile t f) k := by
  refine ⟨rfl, fun q => ?_, fun y hy => ⟨y, hy, rfl, rfl, rfl⟩⟩
  rw [State.modTile_tile]
  split_ifs with hq
  · subst hq; exact hf _
  · exact Tile.isLeftOf_refl _

theorem modTile_foldl_settledTo (s : State) (ts : List Nat) (k : Nat) {f : Tile → Tile} (hf : ∀ x : Tile, x.isLeftOf (f x)) :
    s.settledTo (ts.foldl (fun s t => s.modTile t f) s) k := by
  induction ts generalizing s with
  | nil => exact settledTo_refl s k
  | cons t ts ih => exact settledTo_trans (modTile_settledTo s t k hf) (ih _)

theorem endLaunch_settledTo (s : State) (k : Nat) : s.settledTo (s.endLaunch k) k := by
  rw [State.endLaunch]
  split
  · refine settledTo_trans (modTile_foldl_settledTo s _ k ?_) (modTask_settledTo _ k ?_)
    · exact fun x => ⟨.inr rfl, rfl⟩
    · exact fun x => ⟨rfl, rfl, rfl⟩
  · exact settledTo_refl s k

theorem settle_settledTo (s : State) (k : Nat) : s.settledTo (s.settle k) k := by
  rw [State.settle]
  split
  · exact settledTo_refl s k
  · dsimp only
    refine settledTo_trans ?_ (modTask_settledTo _ k fun x => ?_)
    · split
      · exact endLaunch_settledTo s k
      · exact settledTo_refl s k
    · split <;> exact ⟨rfl, rfl, rfl⟩

/-! ## The stop of a grid (R190) -/

theorem mem_of_tblFind {α : Type} {m : Tbl α} {a : Nat} {v : α} (h : tblFind m a = some v) : (a, v) ∈ m := by
  induction m with
  | nil => cases h
  | cons e m ih =>
    obtain ⟨k, w⟩ := e
    rw [tblFind] at h
    split at h
    next hk => cases h; exact hk ▸ List.mem_cons_self
    next => exact List.mem_cons_of_mem _ (ih h)

theorem mem_gridTiles {s : State} {k q : Nat} (h : (s.tile q).task = some k) : q ∈ s.gridTiles k := by
  have hfind : ∃ x, tblFind s.tiles q = some x ∧ x.task = some k := by
    rw [State.tile, tblGet_eq_find] at h
    cases hx : tblFind s.tiles q with
    | none => rw [hx] at h; exact absurd h (by simp [Tile.blank])
    | some x => rw [hx] at h; exact ⟨x, rfl, h⟩
  obtain ⟨x, hx, htask⟩ := hfind
  exact List.mem_map.mpr ⟨(q, x), List.mem_filter.mpr ⟨mem_of_tblFind hx, by simpa using htask⟩, rfl⟩

/-- The tiles of a launch and its task as a stop leaves them, before the task is settled. -/
def State.gridHalted (s : State) (k : Nat) : State :=
  (s.stopList (s.gridTiles k)).modTask k (fun x => { x with stopping := true })

theorem gridStop_settledTo (s : State) (k : Nat) : (s.gridHalted k).settledTo (s.gridStop k) k := settle_settledTo _ k

theorem gridStop_flt (s : State) (k : Nat) : (s.gridStop k).flt = s.flt := by
  obtain ⟨hflt, -⟩ := gridStop_settledTo s k
  rw [hflt, State.gridHalted, State.modTask_flt, stopList_flt]

theorem gridStop_stoppedGrid (s : State) (k : Nat) : s.stoppedGrid (s.gridStop k) k := by
  intro q hq
  obtain ⟨-, hleft, -⟩ := gridStop_settledTo s k
  obtain ⟨hrun, hheld⟩ := hleft q
  rw [State.gridHalted, State.modTask_tile] at hrun hheld
  obtain ⟨-, hstop⟩ := stopList_tile s (s.gridTiles k) q
  obtain ⟨hended, hdrop⟩ := hstop (mem_gridTiles hq)
  refine ⟨?_, fun hh hs => hheld.trans (hdrop fun he => he.elim hh hs)⟩
  obtain hrun | hrun := hrun
  · rw [hrun]; exact hended.elim .inl (fun h => .inr (.inl h))
  · exact .inr (.inr hrun)

theorem gridStop_task {s : State} {k : Nat} {y : Task} (h : s.task? k = some y) :
    ∃ z, (s.gridStop k).task? k = some z ∧ z.faults = y.faults ∧ z.trapped = y.trapped ∧ z.stopping = true := by
  obtain ⟨-, -, htask⟩ := gridStop_settledTo s k
  have hlisted : (s.stopList (s.gridTiles k)).task? k = some y := by rw [State.task?, stopList_tasks]; exact h
  exact htask { y with stopping := true } (by rw [State.gridHalted, State.modTask_task_self, hlisted]; rfl)

/-! ## Traps (R188, R501, R504, R505) -/

theorem ringAdd_spec (f : Faults) (e : LogEntry) : (ringAdd f e).newest = e.seq ∧ (ringAdd f e).log.getLast? = some e := by
  rw [ringAdd]
  split <;> exact ⟨rfl, List.getLast?_concat⟩

/-- A TILE_TRAP entry folds into no other (R505). -/
theorem folds_tileTrap (e : LogEntry) (out : Outc) (now : Nat) : folds e .tileTrap out now = false := by simp [folds]

/-- A trap's entry is a new one, the newest of the log. -/
theorem log_tileTrap (s : State) (quarry vein unit context intr d0 d1 : Nat) :
    ∃ f h, s.log .tileTrap .notice quarry vein unit context intr d0 d1 = { s with flt := f, host := h } ∧ f.newest = s.flt.newest + 1 ∧
      f.log.getLast? = some ⟨s.flt.newest + 1, s.now, .tileTrap, .notice, quarry, s.entryVein vein context, unit, context, intr, 1,
        d0 % 2 ^ 64, d1 % 2 ^ 64⟩ := by
  have hnew : (foldTarget s.flt.log .tileTrap quarry unit).filter (fun e => folds e .tileTrap .notice s.now) = none := by
    simp [folds_tileTrap]
  obtain ⟨hnewest, hlast⟩ := ringAdd_spec s.flt ⟨s.flt.newest + 1, s.now, .tileTrap, .notice, quarry, s.entryVein vein context, unit,
    context, intr, 1, d0 % 2 ^ 64, d1 % 2 ^ 64⟩
  rw [State.log, hnew]
  refine ⟨_, _, rfl, ?_, ?_⟩
  · split <;> exact hnewest
  · split <;> exact hlast

/-- The newest entry is the one that a detail names, where it is of the event's class, quarry and unit. -/
theorem foldTarget_of_getLast {log : List LogEntry} {e : LogEntry} (h : log.getLast? = some e) :
    foldTarget log e.cls e.quarry e.unit = some e := by
  obtain ⟨l, rfl⟩ := List.getLast?_eq_some_iff.mp h
  simp [foldTarget]

/-- The launch takes a trap's fault (R190, R387). -/
def State.takesTrap (s : State) (k : Nat) (st : Status) (d : Detail) : State :=
  (s.taskFault k st d).modTask k (fun y => { y with trapped := y.trapped + 1 })

theorem takesTrap_flt (s : State) (k : Nat) (st : Status) (d : Detail) : (s.takesTrap k st d).flt = s.flt := by
  simp [State.takesTrap, State.taskFault]

theorem takesTrap_tile (s : State) (k : Nat) (st : Status) (d : Detail) (q : Nat) : (s.takesTrap k st d).tile q = s.tile q := by
  simp [State.takesTrap, State.taskFault]

theorem takesTrap_task {s : State} {k : Nat} {y : Task} (st : Status) (d : Detail) (h : s.task? k = some y) :
    (s.takesTrap k st d).task? k = some { y with faults := y.faults ++ [(st, d)], trapped := y.trapped + 1 } := by
  simp [State.takesTrap, State.taskFault, State.modTask_task_self, h]

theorem stoppedGrid_congr {s v u : State} {k : Nat} (htile : ∀ q, v.tile q = s.tile q) (h : v.stoppedGrid u k) : s.stoppedGrid u k := by
  intro q
  rw [← htile q]
  exact h q

/-- What a trap does (R188, R190, R504). -/
theorem trap_trapped (s : State) (t : Nat) (cause : Trap) (address : Option Nat) :
    s.trapped (s.trap t cause address) t cause address (s.tile t).pc := by
  obtain ⟨f, h, hlog, hnewest, hlast⟩ := log_tileTrap s (quarryOf t) (s.tile t).vein t (ctxNo (s.tile t).context) 0
    (cause.code + 256 * (s.logicalOf t % 512)) (s.tile t).pc
  have hseq : State.entrySeq { s with flt := f, host := h } .tileTrap (quarryOf t) t = s.flt.newest + 1 := by
    rw [State.entrySeq, foldTarget_of_getLast hlast]; rfl
  have hlogged : ∀ u : State, u.flt = f →
      s.logged u .tileTrap .notice t (cause.code + 256 * (s.logicalOf t % 512)) (s.tile t).pc := by
    rintro u rfl
    exact ⟨hnewest, _, hlast, rfl, rfl, rfl, rfl, rfl, rfl, rfl, rfl⟩
  unfold State.trap State.trapAt
  simp only [hlog, hseq]
  split
  next hnone => exact ⟨hlogged _ rfl, fun k y hk => by simp [hnone] at hk⟩
  next k hsome =>
    have hflt := takesTrap_flt { s with flt := f, host := h } k
    have htile : ∀ st d q, (State.takesTrap { s with flt := f, host := h } k st d).tile q = s.tile q := takesTrap_tile _ k
    refine ⟨hlogged _ ((gridStop_flt _ k).trans (hflt _ _)), fun k' y hk hy => ?_⟩
    obtain rfl : k = k' := by simpa [hsome] using hk
    exact ⟨stoppedGrid_congr (htile _ _) (gridStop_stoppedGrid _ k),
      gridStop_task (takesTrap_task (s := { s with flt := f, host := h }) _ _ hy)⟩

/-- Words that are no instruction trap (R160, R161). -/
theorem spelled_illegal_trapped {s : State} {t : Nat} {i : Instr} (r : State) (hi : (s.tile t).canIssue = true)
    (hf : s.fetch t (wideWord (s.codeWord t (s.tile t).pc)) = .good) (hs : s.spelling t i = .illegal) :
    s.trapped (s.spelled t i r) t .illegalInsn none (s.tile t).pc := by
  rw [spelled_illegal s t i r hi hf hs]
  exact trap_trapped s t .illegalInsn none

end Sys2Proof.Machine

/-! PROOFS. Word operations as integer arithmetic, and the integer instructions (R164, R165). -/

namespace Sys2Proof.Machine

/-! ## Word operations as integer arithmetic (R164, R165) -/

section words
variable {w : Nat}

theorem shiftLeft_eq_ofNat (a : BitVec w) (n : Nat) : a <<< n = BitVec.ofNat w (a.toNat * 2 ^ n) := by
  apply BitVec.eq_of_toNat_eq
  rw [BitVec.toNat_shiftLeft, BitVec.toNat_ofNat, Nat.shiftLeft_eq]

theorem ushiftRight_eq_ofNat (a : BitVec w) (n : Nat) : a >>> n = BitVec.ofNat w (a.toNat / 2 ^ n) := by
  rw [← Nat.shiftRight_eq_div_pow, ← BitVec.toNat_ushiftRight, BitVec.ofNat_toNat, BitVec.setWidth_eq]

theorem sshiftRight_eq_ofInt (a : BitVec w) (n : Nat) : a.sshiftRight n = BitVec.ofInt w (a.toInt / 2 ^ n) := by
  rw [BitVec.sshiftRight, Int.shiftRight_eq_div_pow]; norm_cast

end words

section order
variable {α : Type} [LinearOrder α] {value : Word → α} {ofValue : α → Word} {a b : Word} {lt : Bool}

/-- A choice by the order of two words' values is the word of the lesser value. -/
theorem ite_eq_min (hvalue : ∀ a, ofValue (value a) = a) (hlt : lt = true ↔ value a < value b) :
    (if lt then a else b) = ofValue (min (value a) (value b)) := by
  rcases lt_or_ge (value a) (value b) with h | h
  · rw [if_pos (hlt.mpr h), min_eq_left h.le, hvalue]
  · rw [if_neg (mt hlt.mp h.not_gt), min_eq_right h, hvalue]

theorem ite_eq_max (hvalue : ∀ a, ofValue (value a) = a) (hlt : lt = true ↔ value a < value b) :
    (if lt then b else a) = ofValue (max (value a) (value b)) := by
  rcases lt_or_ge (value a) (value b) with h | h
  · rw [if_pos (hlt.mpr h), max_eq_right h.le, hvalue]
  · rw [if_neg (mt hlt.mp h.not_gt), max_eq_left h, hvalue]

end order

section words
variable (a b : Word)

@[simp] theorem wrap64_toInt : wrap64 a.toInt = a := BitVec.ofInt_toInt

theorem ofNat64_toNat : BitVec.ofNat 64 a.toNat = a := by rw [BitVec.ofNat_toNat, BitVec.setWidth_eq]

theorem flag_slt : flag (a.slt b) = if a.toInt < b.toInt then 1 else 0 := by simp [flag, BitVec.slt_iff_toInt_lt]

theorem flag_ult : flag (a.ult b) = if a.toNat < b.toNat then 1 else 0 := by simp [flag, BitVec.ult_iff_toNat_lt]

theorem ite_slt_eq_min : (if a.slt b then a else b) = wrap64 (min a.toInt b.toInt) := ite_eq_min wrap64_toInt BitVec.slt_iff_toInt_lt

theorem ite_slt_eq_max : (if a.slt b then b else a) = wrap64 (max a.toInt b.toInt) := ite_eq_max wrap64_toInt BitVec.slt_iff_toInt_lt

theorem ite_ult_eq_min : (if a.ult b then a else b) = BitVec.ofNat 64 (min a.toNat b.toNat) :=
  ite_eq_min ofNat64_toNat BitVec.ult_iff_toNat_lt

theorem ite_ult_eq_max : (if a.ult b then b else a) = BitVec.ofNat 64 (max a.toNat b.toNat) :=
  ite_eq_max ofNat64_toNat BitVec.ult_iff_toNat_lt

/-- The high half of a product of 128 bits. -/
theorem mulHS_eq : mulHS a b = wrap64 (a.toInt * b.toInt / 2 ^ 64) := by
  rw [mulHS, BitVec.signExtend, BitVec.signExtend, ← BitVec.ofInt_mul, wrap64]
  generalize a.toInt * b.toInt = z
  apply BitVec.eq_of_toNat_eq
  simp only [BitVec.toNat_setWidth, BitVec.toNat_ushiftRight, BitVec.toNat_ofInt, Nat.shiftRight_eq_div_pow]
  omega

theorem mulHU_eq : mulHU a b = BitVec.ofNat 64 (a.toNat * b.toNat / 2 ^ 64) := by
  rw [mulHU, ← BitVec.ofNat_toNat 128 a, ← BitVec.ofNat_toNat 128 b, ← BitVec.ofNat_mul]
  generalize a.toNat * b.toNat = z
  apply BitVec.eq_of_toNat_eq
  simp only [BitVec.toNat_setWidth, BitVec.toNat_ushiftRight, BitVec.toNat_ofNat, Nat.shiftRight_eq_div_pow]
  omega

theorem toInt_eq_zero_iff : b.toInt = 0 ↔ b = 0 := by rw [← BitVec.toInt_inj, BitVec.ofNat_eq_ofNat, BitVec.toInt_zero]

theorem toNat_eq_zero_iff : b.toNat = 0 ↔ b = 0 := by rw [← BitVec.toNat_inj, BitVec.ofNat_eq_ofNat, BitVec.toNat_zero]

theorem divS_eq : divS a b = if b.toInt = 0 then wrap64 (-1) else wrap64 (a.toInt.tdiv b.toInt) := by
  have hquot : a.sdiv b = wrap64 (a.toInt.tdiv b.toInt) :=
    BitVec.eq_of_toInt_eq (by rw [BitVec.toInt_sdiv, wrap64, BitVec.toInt_ofInt])
  rw [divS, hquot]
  exact if_congr (toInt_eq_zero_iff b).symm (by decide) rfl

theorem divU_eq : divU a b = if b.toNat = 0 then wrap64 (-1) else BitVec.ofNat 64 (a.toNat / b.toNat) := by
  rw [divU, ← BitVec.toNat_udiv, ofNat64_toNat]
  exact if_congr (toNat_eq_zero_iff b).symm (by decide) rfl

theorem remS_eq : remS a b = if b.toInt = 0 then a else wrap64 (a.toInt.tmod b.toInt) := by
  rw [remS, ← BitVec.toInt_srem, wrap64_toInt]
  exact if_congr (toInt_eq_zero_iff b).symm rfl rfl

theorem remU_eq : remU a b = if b.toNat = 0 then a else BitVec.ofNat 64 (a.toNat % b.toNat) := by
  rw [remU, ← BitVec.toNat_umod, ofNat64_toNat]
  exact if_congr (toNat_eq_zero_iff b).symm rfl rfl

/-- A signed immediate, extended (R163). -/
theorem sext13_eq (imm : BitVec 13) : sext13 imm = wrap64 imm.toInt := rfl

@[simp] theorem sext13_toInt (imm : BitVec 13) : (sext13 imm).toInt = imm.toInt := BitVec.toInt_signExtend_of_le (by omega)

/-- R165: eighteen bits shifted in from the right. -/
theorem shiftLeft_or_setWidth (u : BitVec 18) : (a <<< 18) ||| u.setWidth 64 = BitVec.ofNat 64 (a.toNat * 2 ^ 18 + u.toNat) := by
  have hdisjoint : (a <<< 18) &&& u.setWidth 64 = 0#64 := by
    apply BitVec.eq_of_getLsbD_eq
    intro i hi
    by_cases hlow : i < 18
    · simp [hlow]
    · simp [BitVec.getLsbD_of_ge u i (by omega)]
  rw [← BitVec.add_eq_or_of_and_eq_zero _ _ hdisjoint, shiftLeft_eq_ofNat, ← BitVec.ofNat_toNat, ← BitVec.ofNat_add]

/-! ## Counts of bits (R164) -/

theorem leadZeros_le (n : Nat) : leadZeros a n ≤ n := by
  induction n with
  | zero => exact le_rfl
  | succ n ih => rw [leadZeros]; split <;> omega

theorem getLsbD_of_leadZeros (n i : Nat) (hlow : n - leadZeros a n ≤ i) (hhigh : i < n) : a.getLsbD i = false := by
  induction n with
  | zero => omega
  | succ n ih =>
    rw [leadZeros] at hlow
    split at hlow
    next => omega
    next hbit =>
      obtain rfl | hi := Nat.eq_or_lt_of_le (Nat.le_of_lt_succ hhigh)
      · simpa using hbit
      · exact ih (by omega) hi

theorem getLsbD_leadZeros (n : Nat) (h : leadZeros a n < n) : a.getLsbD (n - 1 - leadZeros a n) = true := by
  induction n with
  | zero => omega
  | succ n ih =>
    rw [leadZeros] at h ⊢
    split at h
    next hbit => simp [hbit]
    next hbit =>
      have hn : n + 1 - 1 - (1 + leadZeros a n) = n - 1 - leadZeros a n := by omega
      rw [if_neg hbit, hn]
      exact ih (by omega)

theorem trailZeros_le (n : Nat) : trailZeros a n ≤ n := by
  induction n with
  | zero => exact le_rfl
  | succ n ih => rw [trailZeros]; split <;> omega

theorem getLsbD_of_trailZeros (n i : Nat) (hn : n ≤ 64) (hlow : 64 - n ≤ i) (hhigh : i < 64 - n + trailZeros a n) :
    a.getLsbD i = false := by
  induction n with
  | zero => exact absurd hhigh (by simp [trailZeros]; omega)
  | succ n ih =>
    rw [trailZeros] at hhigh
    split at hhigh
    next => omega
    next hbit =>
      obtain hi | hi := Nat.eq_or_lt_of_le hlow
      · rw [← hi, show 64 - (n + 1) = 63 - n by omega]; simpa using hbit
      · exact ih (by omega) (by omega) (by omega)

theorem getLsbD_trailZeros (n : Nat) (hn : n ≤ 64) (h : trailZeros a n < n) : a.getLsbD (64 - n + trailZeros a n) = true := by
  induction n with
  | zero => omega
  | succ n ih =>
    rw [trailZeros] at h ⊢
    split at h
    next hbit => rw [if_pos hbit, show 64 - (n + 1) + 0 = 63 - n by omega]; exact hbit
    next hbit =>
      rw [if_neg hbit, show 64 - (n + 1) + (1 + trailZeros a n) = 64 - n + trailZeros a n by omega]
      exact ih (by omega) (by omega)

theorem countOnes_eq (n : Nat) : countOnes a n = (List.range n).countP (fun i => a.getLsbD i) := by
  induction n with
  | zero => rfl
  | succ n ih =>
    rw [countOnes, ih, List.range_succ, List.countP_append, Nat.add_comm]
    simp [b2n, List.countP_singleton]

end words

/-! ## The integer instructions (R164, R165) -/

section alu
variable {s : State} {t : Nat} {rd ra rb : Reg} {i : Instr} {v : Word}

theorem step_aluRR {op : Word → Word → Word} (h : s.issues t false [rd, ra, rb])
    (hexec : exec i s = .next (s.spelled t i (s.aluRR t rd ra rb op))) (hv : op ((s.tile t).gr ra) ((s.tile t).gr rb) = v) :
    s.spells t i →
      ∃ u, exec i s = .next u ∧ s.wroteG u t rd v ((s.tile t).gp ra || (s.tile t).gp rb) 0 ((s.tile t).pc + 4) :=
  step_of_spells h.1 hexec (aluRR_wroteG s t rd ra rb op v h hv)

theorem step_aluR {op : Word → Word} (h : s.issues t false [rd, ra])
    (hexec : exec i s = .next (s.spelled t i (s.aluR t rd ra op))) (hv : op ((s.tile t).gr ra) = v) :
    s.spells t i → ∃ u, exec i s = .next u ∧ s.wroteG u t rd v ((s.tile t).gp ra) 0 ((s.tile t).pc + 4) :=
  step_of_spells h.1 hexec (aluR_wroteG s t rd ra op v h hv)

/-- An immediate shift by less than 64. -/
theorem step_shiftI {imm : BitVec 13} {op : Word → Nat → Word} (h : s.issues t false [rd, ra]) (himm : imm.toNat < 64)
    (hexec : exec i s = .next (s.spelled t i (s.shiftI t rd ra imm op))) (hv : op ((s.tile t).gr ra) imm.toNat = v) :
    s.spells t i → ∃ u, exec i s = .next u ∧ s.wroteG u t rd v ((s.tile t).gp ra) 0 ((s.tile t).pc + 4) := by
  rw [State.shiftI, if_neg (not_le.mpr himm)] at hexec
  exact step_aluR h hexec hv

/-- An immediate shift by 64 or more is a reserved encoding (R161). -/
theorem step_shiftI_traps {imm : BitVec 13} {op : Word → Nat → Word} (h : s.issues t false [rd, ra]) (himm : 64 ≤ imm.toNat)
    (hexec : exec i s = .next (s.spelled t i (s.shiftI t rd ra imm op))) :
    s.spells t i → ∃ u, exec i s = .next u ∧ s.trapped u t .illegalInsn none (s.tile t).pc := by
  obtain ⟨hissue, hfetch, hbusy⟩ := h
  rw [State.shiftI, if_pos himm, State.issue_of_ready s t false _ _ hissue hfetch (busy_nil hbusy)] at hexec
  exact step_of_spells hissue hexec (trap_trapped s t .illegalInsn none)

end alu

/-- Settles O1: each result is the model's word operation, as integer arithmetic; the last clause is the check of the words, which stands
before every command's effect. -/
theorem integerInstructions : Obligations.IntegerInstructions := by
  refine ⟨fun s t rd ra rb h => ?binary, fun s t rd ra rb h => ?division, fun s t rd ra h => ?counts, fun s t rd ra imm u18 h => ?immediate,
    fun s t i ht he hi hf => ?words⟩
  case binary =>
    exact ⟨step_aluRR h rfl rfl, step_aluRR h rfl rfl, step_aluRR h rfl rfl, step_aluRR h rfl rfl, step_aluRR h rfl rfl,
      step_aluRR h rfl (shiftLeft_eq_ofNat _ _), step_aluRR h rfl (ushiftRight_eq_ofNat _ _), step_aluRR h rfl (sshiftRight_eq_ofInt _ _),
      step_aluRR h rfl (flag_slt _ _), step_aluRR h rfl (flag_ult _ _), step_aluRR h rfl (ite_slt_eq_min _ _),
      step_aluRR h rfl (ite_slt_eq_max _ _), step_aluRR h rfl (ite_ult_eq_min _ _), step_aluRR h rfl (ite_ult_eq_max _ _),
      step_aluRR h rfl rfl, step_aluRR h rfl (mulHS_eq _ _), step_aluRR h rfl (mulHU_eq _ _)⟩
  case division =>
    exact ⟨step_aluRR h rfl (divS_eq _ _), step_aluRR h rfl (divU_eq _ _), step_aluRR h rfl (remS_eq _ _), step_aluRR h rfl (remU_eq _ _)⟩
  case counts =>
    exact ⟨⟨_, step_aluR h rfl rfl, leadZeros_le _ 64, getLsbD_of_leadZeros _ 64, getLsbD_leadZeros _ 64⟩,
      ⟨_, step_aluR h rfl rfl, trailZeros_le _ 64,
        fun i hlow => getLsbD_of_trailZeros _ 64 i le_rfl (Nat.zero_le i) (by omega), fun hn => by
          simpa using getLsbD_trailZeros _ 64 le_rfl hn⟩,
      step_aluR h rfl (congrArg _ (countOnes_eq _ 64))⟩
  case immediate =>
    refine ⟨step_aluR h rfl rfl, step_aluR h rfl rfl, step_aluR h rfl rfl, step_aluR h rfl rfl, step_aluR h rfl ?_,
      step_aluR h rfl (flag_ult _ _), fun himm => ?_, fun himm i hi => ?_, step_aluR h rfl (shiftLeft_or_setWidth _ _)⟩
    · rw [flag_slt, sext13_toInt]
    · exact ⟨step_shiftI h himm rfl (shiftLeft_eq_ofNat _ _), step_shiftI h himm rfl (ushiftRight_eq_ofNat _ _),
        step_shiftI h himm rfl (sshiftRight_eq_ofInt _ _)⟩
    · simp only [List.mem_cons, List.not_mem_nil, or_false] at hi
      obtain rfl | rfl | rfl := hi <;> exact step_shiftI_traps h himm rfl
  case words =>
    obtain ⟨r, hexec⟩ := exec_eq_spelled s ht he
    exact ⟨fun hs => by rw [hexec, spelled_other r hi hf hs], fun hs => ⟨_, hexec, spelled_illegal_trapped r hi hf hs⟩⟩

end Sys2Proof.Machine

/-! PROOFS. What a scalar result and a transfer of control leave, on any way to them (R116, R169). -/

namespace Sys2Proof.Machine

theorem onlyTile_trans {s u v : State} {t : Nat} (hsu : s.onlyTile u t) (huv : u.onlyTile v t) : s.onlyTile v t := by
  obtain ⟨hu, htile⟩ := hsu
  obtain ⟨hv, htile'⟩ := huv
  exact ⟨by rw [hv, hu], fun q hq => (htile' q hq).trans (htile q hq)⟩

theorem onlyTile_modTile (s : State) (t : Nat) (f : Tile → Tile) : s.onlyTile (s.modTile t f) t :=
  ⟨rfl, fun q hq => by rw [State.modTile_tile, if_neg hq]⟩

theorem onlyTile_retireTo (s : State) (t pc : Nat) : s.onlyTile (s.retireTo t pc) t :=
  ⟨rfl, fun _ hq => State.retireTo_tile_ne s pc hq⟩

theorem onlyTile_used (s : State) (t : Nat) : s.onlyTile s.used t := ⟨rfl, fun _ _ => rfl⟩

theorem Tile.setG_astat (x : Tile) (r : Reg) (v : Word) (p : Bool) :
    (x.setG r v p).astat = x.astat ||| (if p && r != 0 then 0x40#7 else 0) := by
  unfold Tile.setG Tile.markPoison Tile.setStat
  by_cases h : r = 0 <;> cases p <;> simp [h]

/-- A scalar write changes scalar registers, their poison flags and ASTAT. -/
theorem Tile.setG_eq (x : Tile) (r : Reg) (v : Word) (p : Bool) :
    ∃ g gp st, x.setG r v p = { x with g := g, gPoison := gp, astat := st } := by
  unfold Tile.setG Tile.markPoison Tile.setStat
  split_ifs
  · exact ⟨x.g, x.gPoison, x.astat, rfl⟩
  · exact ⟨_, _, _, rfl⟩
  · exact ⟨_, _, _, rfl⟩

/-- A tile as an instruction finds it once ASTAT bits are set and clock gates opened. -/
def Tile.raisedTo (x y : Tile) (st : BitVec 7) : Prop :=
  ∃ g, (∀ a ∈ g, a ∈ x.gated) ∧ y = { x with gated := g, astat := x.astat ||| st }

/-- A scalar result and its retirement at any program counter, after ASTAT bits were set and gates opened, is `wroteG`. -/
theorem wroteG_retireTo {s u : State} {t : Nat} {x : Tile} {rd : Reg} {v : Word} {p : Bool} {st : BitVec 7} (pc : Nat)
    (hx : (s.tile t).raisedTo x st) (hu : s.onlyTile u t) (htile : u.tile t = x.setG rd v p) :
    s.wroteG (u.retireTo t pc) t rd v p st pc := by
  obtain ⟨g, hg, rfl⟩ := hx
  obtain ⟨gs, gp, st', heq⟩ := Tile.setG_eq { s.tile t with gated := g, astat := (s.tile t).astat ||| st } rd v p
  simp only [State.wroteG, State.retireTo_tile_self, htile]
  refine ⟨fun q => Tile.setG_gr _ rd q v p, fun q => Tile.setG_gp _ rd q v p, Tile.setG_astat _ rd v p, trivial,
    ⟨Tile.setG_v _ rd v p, Tile.setG_vPoison _ rd v p⟩, ⟨Tile.setG_p _ rd v p, Tile.setG_pPoison _ rd v p⟩, ?_,
    onlyTile_trans hu (onlyTile_retireTo u t pc)⟩
  rw [heq]
  exact ⟨rfl, hg⟩

/-- An open value taken on the way changes no register. -/
theorem wroteG_used {s u : State} {t pc : Nat} {rd : Reg} {v : Word} {p : Bool} {st : BitVec 7} (h : s.wroteG u t rd v p st pc) :
    s.wroteG u.used t rd v p st pc := by
  obtain ⟨hgr, hgp, hastat, hpc, hv, hp, hrest, honly⟩ := h
  exact ⟨hgr, hgp, hastat, hpc, hv, hp, hrest, onlyTile_trans honly (onlyTile_used u t)⟩

theorem Tile.raisedTo_refl (x : Tile) : x.raisedTo x 0 := ⟨x.gated, fun _ h => h, by simp⟩

end Sys2Proof.Machine

/-! PROOFS. Transfers of control (R166, R169). -/

namespace Sys2Proof.Machine

/-! ## Targets and jumps (R166, R169) -/

theorem not_slt_iff (a b : Word) : (!a.slt b) = true ↔ b.toInt ≤ a.toInt := by
  rw [Bool.not_eq_true', ← Bool.not_eq_true, BitVec.slt_iff_toInt_lt, not_lt]

theorem not_ult_iff (a b : Word) : (!a.ult b) = true ↔ b.toNat ≤ a.toNat := by
  rw [Bool.not_eq_true', ← Bool.not_eq_true, BitVec.ult_iff_toNat_lt, not_lt]

/-- A jump forward keeps the reservation. -/
theorem goto_forward {s : State} {t target : Nat} (h : (s.tile t).pc < target) : s.goto t target = s.retireTo t target := by
  simp [State.goto, not_le.mpr h]

/-- A jump to the same place or backward breaks it (R169). -/
theorem goto_backward {s : State} {t target : Nat} (h : target ≤ (s.tile t).pc) :
    s.goto t target = (s.clearReservation t).retireTo t target := by
  simp [State.goto, h]

theorem clearReservation_tile_g (s : State) (t : Nat) : ((s.clearReservation t).tile t).g = (s.tile t).g := by
  simp [State.clearReservation, State.tile, State.modTile, State.setTile]

/-- A jump changes the program counter and no register. -/
theorem goto_pc_gr (s : State) (t target : Nat) :
    ((s.goto t target).tile t).pc = target % 2 ^ 64 ∧ ∀ q, ((s.goto t target).tile t).gr q = (s.tile t).gr q := by
  rcases lt_or_ge (s.tile t).pc target with h | h
  · rw [goto_forward h, State.retireTo_tile_self]
    exact ⟨rfl, fun _ => rfl⟩
  · rw [goto_backward h, State.retireTo_tile_self]
    exact ⟨rfl, fun q => by simp only [Tile.gr, clearReservation_tile_g]⟩

/-- The state that the link register's write leaves. -/
def State.linked (s : State) (t : Nat) (rd : Reg) : State := s.modTile t (fun x => x.setG rd (BitVec.ofNat 64 ((s.tile t).pc + 4)) false)

theorem linked_pc (s : State) (t : Nat) (rd : Reg) : ((s.linked t rd).tile t).pc = (s.tile t).pc := by
  simp [State.linked]

/-- A jump with a link: PC + 4 in gd, and the target; forward nothing else changes, backward the reservation is gone. -/
theorem linked_goto (s : State) (t : Nat) (rd : Reg) (target : Nat) :
    let x := s.tile t
    let u := (s.linked t rd).goto t target
    (u.tile t).pc = target % 2 ^ 64 ∧ (∀ q, (u.tile t).gr q = if q = 0 then 0 else if q = rd then BitVec.ofNat 64 (x.pc + 4) else x.gr q) ∧
      (x.pc < target → s.wroteG u t rd (BitVec.ofNat 64 (x.pc + 4)) false 0 target) ∧ (target ≤ x.pc → u.reservationGone t) := by
  intro x u
  obtain ⟨hpc, hgr⟩ := goto_pc_gr (s.linked t rd) t target
  refine ⟨hpc, fun q => (hgr q).trans ?_, fun hforward => ?_, fun hbackward => ?_⟩
  · rw [State.linked, State.modTile_tile_self]
    exact Tile.setG_gr _ rd q _ false
  · change s.wroteG ((s.linked t rd).goto t target) t rd _ false 0 target
    rw [goto_forward (by rwa [linked_pc])]
    exact wroteG_retireTo target (Tile.raisedTo_refl _) (onlyTile_modTile s t _) (State.modTile_tile_self s t _)
  · change ((s.linked t rd).goto t target).reservationGone t
    rw [goto_backward (by rwa [linked_pc])]
    exact reservationGone_clear _ t target

/-- The effect of `jalr` on an issuing tile: a trap at a target that is no multiple of 4, else the jump. -/
theorem jalr_of_ready {s : State} {t : Nat} {rd ra : Reg} (off : BitVec 13) (h : s.issues t false [rd, ra]) :
    exec (.jalr t rd ra off) s = .next (s.spelled t (.jalr t rd ra off)
      (if ((s.tile t).gr ra + sext13 off).toNat % 4 ≠ 0 then s.trap t .misaligned (some ((s.tile t).gr ra + sext13 off).toNat)
      else (s.linked t rd).goto t ((s.tile t).gr ra + sext13 off).toNat)) := by
  obtain ⟨hissue, hfetch, hbusy⟩ := h
  exact congrArg (fun r => Host.Outcome.next (s.spelled t (.jalr t rd ra off) r)) (State.issue_of_ready s t false _ _ hissue hfetch hbusy)

theorem jal_of_ready {s : State} {t : Nat} {rd : Reg} (off : BitVec 23) (h : s.issues t false [rd]) :
    exec (.jal t rd off) s = .next (s.spelled t (.jal t rd off) ((s.linked t rd).goto t (relTarget (s.tile t).pc off.toInt))) := by
  obtain ⟨hissue, hfetch, hbusy⟩ := h
  exact congrArg (fun r => Host.Outcome.next (s.spelled t (.jal t rd off) r)) (State.issue_of_ready s t false _ _ hissue hfetch hbusy)

/-- Settles O2: a branch is the model's comparison, a jump the write of the link register and then of the program counter. -/
theorem controlTransfers : Obligations.ControlTransfers := by
  refine ⟨fun s t ra rb off h => ?branches, fun s t rd ra o23 o13 => ?jumps⟩
  case branches =>
    exact ⟨step_of_spells h.1 rfl (branch_goes s t ra rb off h _ _ beq_iff_eq),
      step_of_spells h.1 rfl (branch_goes s t ra rb off h _ _ bne_iff_ne),
      step_of_spells h.1 rfl (branch_goes s t ra rb off h _ _ BitVec.slt_iff_toInt_lt),
      step_of_spells h.1 rfl (branch_goes s t ra rb off h _ _ (not_slt_iff _ _)),
      step_of_spells h.1 rfl (branch_goes s t ra rb off h _ _ BitVec.ult_iff_toNat_lt),
      step_of_spells h.1 rfl (branch_goes s t ra rb off h _ _ (not_ult_iff _ _))⟩
  case jumps =>
    refine ⟨fun h => step_of_spells h.1 (jal_of_ready o23 h) (linked_goto s t rd _), fun h haligned => ?_, fun h hodd => ?_⟩
    · have hexec := jalr_of_ready o13 h
      rw [sext13_eq, if_neg (not_not.mpr haligned)] at hexec
      exact step_of_spells h.1 hexec (linked_goto s t rd _)
    · have hexec := jalr_of_ready o13 h
      rw [sext13_eq, if_pos hodd] at hexec
      exact step_of_spells h.1 hexec (trap_trapped s t .misaligned _)

end Sys2Proof.Machine

/-! PROOFS. Vector reductions (R177). -/

namespace Sys2Proof.Machine

/-! ## The tree of a reduction (R177) -/

section tree
variable {α β : Type} {f : α → α → α}

theorem length_pairUp (f : α → α → α) : ∀ l : List α, (pairUp f l).length = (l.length + 1) / 2
  | [] => by simp [pairUp]
  | [_] => by simp [pairUp]
  | a :: b :: r => by simp only [pairUp, List.length_cons, length_pairUp f r]; omega

/-- The tree over 2^n elements: what holds of one element, and of a list where it holds of the next level, holds of the tree's value. -/
theorem treeFold_induction {M : List α → α → Prop} (hone : ∀ a, M [a] a) (hpair : ∀ l v, M (pairUp f l) v → M l v) (d : α) (n : Nat)
    (l : List α) (hl : l.length = 2 ^ n) : M l (treeFold f d n l) := by
  induction n generalizing l with
  | zero =>
    obtain ⟨a, rfl⟩ := List.length_eq_one_iff.mp hl
    exact hone a
  | succ n ih => exact hpair l _ (ih _ (by rw [length_pairUp, hl]; omega))

theorem sum_pairUp {w : Nat} (l : List (BitVec w)) : (pairUp (· + ·) l).sum = l.sum := by
  induction l using pairUp.induct with
  | case1 a b r ih => simp [pairUp, ih, add_assoc]
  | case2 r hr => rw [pairUp]; exact hr

theorem treeFold_add {w : Nat} (d : BitVec w) (n : Nat) (l : List (BitVec w)) (hl : l.length = 2 ^ n) :
    treeFold (· + ·) d n l = l.sum :=
  treeFold_induction (M := fun l v => v = l.sum) (fun a => by simp) (fun l v h => h.trans (sum_pairUp l)) d n l hl

theorem mem_of_mem_pairUp (hf : ∀ a b, f a b = a ∨ f a b = b) {l : List α} {x : α} (h : x ∈ pairUp f l) : x ∈ l := by
  induction l using pairUp.induct with
  | case1 a b r ih =>
    rw [pairUp, List.mem_cons] at h
    obtain rfl | h := h
    · obtain hab | hab := hf a b <;> simp [hab]
    · simp [ih h]
  | case2 r hr => rwa [pairUp] at h; exact hr

theorem exists_le_mem_pairUp {le : α → α → Prop} (hrefl : ∀ a, le a a) (hf : ∀ a b, le a (f a b) ∧ le b (f a b))
    {l : List α} {x : α} (h : x ∈ l) : ∃ y ∈ pairUp f l, le x y := by
  induction l using pairUp.induct with
  | case1 a b r ih =>
    rw [pairUp]
    simp only [List.mem_cons] at h
    obtain rfl | rfl | h := h
    · exact ⟨_, List.mem_cons_self, (hf x b).1⟩
    · exact ⟨_, List.mem_cons_self, (hf a x).2⟩
    · obtain ⟨y, hy, hle⟩ := ih h
      exact ⟨y, List.mem_cons_of_mem _ hy, hle⟩
  | case2 r hr => rw [pairUp]; exacts [⟨x, h, hrefl x⟩, hr]

/-- A tree of choices answers one of its elements. -/
theorem treeFold_mem (hf : ∀ a b, f a b = a ∨ f a b = b) (d : α) (n : Nat) (l : List α) (hl : l.length = 2 ^ n) : treeFold f d n l ∈ l :=
  treeFold_induction (M := fun l v => v ∈ l) (fun _ => List.mem_singleton_self _) (fun _ _ h => mem_of_mem_pairUp hf h) d n l hl

/-- A tree of upper bounds answers an upper bound. -/
theorem le_treeFold {le : α → α → Prop} (hrefl : ∀ a, le a a) (htrans : ∀ a b c, le a b → le b c → le a c)
    (hf : ∀ a b, le a (f a b) ∧ le b (f a b)) (d : α) (n : Nat) (l : List α) (hl : l.length = 2 ^ n) :
    ∀ x ∈ l, le x (treeFold f d n l) := by
  refine treeFold_induction (M := fun l v => ∀ x ∈ l, le x v) (fun a x hx => ?_) (fun l v h x hx => ?_) d n l hl
  · rw [List.mem_singleton.mp hx]; exact hrefl a
  · obtain ⟨y, hy, hle⟩ := exists_le_mem_pairUp hrefl hf hx
    exact htrans x y v hle (h y hy)

theorem map_pairUp {g : α → β} {f' : β → β → β} (h : ∀ a b, g (f a b) = f' (g a) (g b)) :
    ∀ l : List α, (pairUp f l).map g = pairUp f' (l.map g)
  | [] => rfl
  | [_] => rfl
  | a :: b :: r => by simp [pairUp, h, map_pairUp h r]

/-- A map that the operation respects goes through the tree. -/
theorem map_treeFold {g : α → β} {f' : β → β → β} (h : ∀ a b, g (f a b) = f' (g a) (g b)) (d : α) (n : Nat) (l : List α) :
    g (treeFold f d n l) = treeFold f' (g d) n (l.map g) := by
  induction n generalizing l with
  | zero => cases l <;> rfl
  | succ n ih => rw [treeFold, ih, map_pairUp h, treeFold]

end tree

/-! ## Results of the active lanes -/

section lanes
variable {w : Nat} (l : List Nat) (f : Nat → BitVec w)

theorem sum_map_ite_zero (p : Nat → Bool) : (l.map (fun i => if p i then f i else 0)).sum = ((l.filter p).map f).sum := by
  induction l with
  | nil => rfl
  | cons i l ih => by_cases h : p i <;> simpa [h] using ih

theorem toNat_sum_map : (l.map f).sum.toNat = (l.map (fun i => (f i).toNat)).sum % 2 ^ w := by
  induction l with
  | nil => simp
  | cons i l ih => simp [BitVec.toNat_add, ih]

end lanes

/-- The tree of sums, zero-extended, is the wraparound sum of the lanes that `p` names. -/
theorem treeFold_add_lanes (p : Nat → Bool) (f : Nat → Word32) :
    (treeFold (· + ·) 0 6 ((List.range 64).map (fun i => if p i then f i else 0))).setWidth 64 =
      BitVec.ofNat 64 ((((List.range 64).filter p).map (fun i => (f i).toNat)).sum % 2 ^ 32) := by
  rw [treeFold_add _ _ _ (by simp), sum_map_ite_zero, ← toNat_sum_map, BitVec.ofNat_toNat]

/-- The signed maximum of two lanes. -/
def maxLane (a b : Word32) : Word32 := if a.slt b then b else a

theorem maxLane_eq (a b : Word32) : maxLane a b = a ∨ maxLane a b = b := by
  rw [maxLane]; split
  · exact .inr rfl
  · exact .inl rfl

theorem le_maxLane (a b : Word32) : a.toInt ≤ (maxLane a b).toInt ∧ b.toInt ≤ (maxLane a b).toInt := by
  rw [maxLane]
  split
  next h => exact ⟨(BitVec.slt_iff_toInt_lt.mp h).le, le_rfl⟩
  next h => exact ⟨le_rfl, by rwa [BitVec.slt_iff_toInt_lt, not_lt] at h⟩

/-- The tree of signed maxima, with the least word at inactive lanes, answers the greatest of the lanes that `p` names, if there is one. -/
theorem treeFold_max_lanes (p : Nat → Bool) (f : Nat → Word32) (hp : (List.range 64).filter p ≠ []) :
    let m := treeFold maxLane 0 6 ((List.range 64).map (fun i => if p i then f i else 0x80000000))
    (∃ i ∈ (List.range 64).filter p, m = f i) ∧ ∀ i ∈ (List.range 64).filter p, (f i).toInt ≤ m.toInt := by
  intro m
  have hlength : ((List.range 64).map (fun i => if p i then f i else 0x80000000)).length = 2 ^ 6 := by simp
  have hupper : ∀ i ∈ (List.range 64).filter p, (f i).toInt ≤ m.toInt := by
    intro i hi
    obtain ⟨hrange, hactive⟩ := List.mem_filter.mp hi
    exact le_treeFold (le := fun a b => a.toInt ≤ b.toInt) (fun _ => le_rfl) (fun _ _ _ => le_trans) le_maxLane 0 6 _ hlength _
      (List.mem_map.mpr ⟨i, hrange, if_pos hactive⟩)
  refine ⟨?_, hupper⟩
  obtain ⟨i, hi, hm⟩ := List.mem_map.mp (treeFold_mem maxLane_eq 0 6 _ hlength)
  by_cases hactive : p i
  · exact ⟨i, List.mem_filter.mpr ⟨hi, hactive⟩, hm.symm.trans (if_pos hactive)⟩
  · have hleast : m = 0x80000000 := hm.symm.trans (if_neg hactive)
    obtain ⟨j, hj⟩ := List.exists_mem_of_ne_nil _ hp
    refine ⟨j, hj, BitVec.eq_of_toInt_eq (le_antisymm ?_ (hupper j hj))⟩
    rw [hleast]
    exact BitVec.le_toInt (f j)

/-! ## Vector instructions with a scalar result -/

theorem predOk_of_plainFp {c : VecCtl} (hc : VecCtl.plainFp c) : VecCtl.predOk c = true := by
  obtain ⟨-, -, hpred⟩ := hc
  cases hpen : c.pen
  · obtain ⟨hpg, hpz⟩ := hpred hpen
    simp [VecCtl.predOk, hpg, hpz]
  · simp [VecCtl.predOk, hpen]

theorem noCvt_of_plainFp {c : VecCtl} (hc : VecCtl.plainFp c) : noCvt c = true := by
  have hpred := predOk_of_plainFp hc
  obtain ⟨hrmode, hsat, -⟩ := hc
  simp [noCvt, hrmode, hsat, hpred]

theorem noFp_of_plainInt {c : VecCtl} (hc : VecCtl.plainInt c) : noFp c = true := by
  obtain ⟨hfp, hftz⟩ := hc
  simp [noFp, noCvt_of_plainFp hfp, hftz]

/-- The state with the clock of the vector unit of tile `t` on (R124). -/
def State.vectorOn (s : State) (t : Nat) : State := s.modTile t (fun x => { x with gated := setDel x.gated 2 })

/-- A wide instruction with a scalar result on a tile whose vector unit has been switched on, and whose ASTAT may have been set. -/
theorem wide_wroteG {s : State} {t : Nat} {x : Tile} {rd : Reg} {v : Word} {p : Bool} {st : BitVec 7} {f : Tile → Tile}
    (hx : (s.tile t).raisedTo x st) (hf : f ((s.vectorOn t).tile t) = x.setG rd v p) :
    s.wroteG ((s.vectorOn t).wide t f) t rd v p st ((s.tile t).pc + 8) := by
  have htile : (((s.vectorOn t).modTile t f).tile t) = x.setG rd v p := by rw [State.modTile_tile_self, hf]
  have hpc : (((s.vectorOn t).modTile t f).tile t).pc = (s.tile t).pc := by
    obtain ⟨g, -, rfl⟩ := hx
    rw [htile, Tile.setG_pc]
  rw [State.wide, State.retire, hpc]
  exact wroteG_retireTo _ hx (onlyTile_trans (onlyTile_modTile s t _) (onlyTile_modTile _ t f)) htile

/-- A vector instruction that issues has its effect with the vector unit's clock on. -/
theorem vec_eq {s : State} {t : Nat} {regs : List Reg} {ok : Bool} (f : State → State) (h : s.issues t true regs) (hok : ok = true) :
    s.vec t ok regs f = f (s.vectorOn t) := by
  rw [hok]; exact vec_of_ready s t regs f h

theorem raisedTo_vectorOn (x : Tile) (st : BitVec 7) :
    x.raisedTo { x with gated := setDel x.gated 2, astat := x.astat ||| st } st :=
  ⟨_, fun a ha => mem_setDel _ _ a ha, rfl⟩

theorem vectorOn_tile (s : State) (t : Nat) : (s.vectorOn t).tile t = { s.tile t with gated := setDel (s.tile t).gated 2 } :=
  State.modTile_tile_self s t _

theorem raisedTo_vectorOn_tile (s : State) (t : Nat) : (s.tile t).raisedTo ((s.vectorOn t).tile t) 0 :=
  ⟨setDel (s.tile t).gated 2, fun a ha => mem_setDel _ _ a ha, by simp [vectorOn_tile]⟩

theorem Conds.bits_lt (c : Conds) : c.bits.toNat < 16 := by
  obtain ⟨inv, ovf, unf, inx⟩ := c
  revert inv ovf unf inx
  decide

/-! ## The reductions (R177) -/

section reductions
variable {s : State} {t : Nat} {rd : Reg} {va : VReg} {c : VecCtl}

/-- Poison of a reduction's result: its source's and its governing predicate's. -/
def Tile.redPoison (x : Tile) (va : VReg) (c : VecCtl) : Bool := x.vp va || (c.pen && x.pp c.pg)

/-- One step of a floating-point reduction, with the conditions of both sides. -/
def redStep (op : Word32 → Word32 → FpRes) (a b : Word32 × Conds) : Word32 × Conds :=
  ((op a.1 b.1).word, (a.2.or b.2).or (op a.1 b.1).conds)

/-- The value and the conditions of a floating-point reduction. -/
def Tile.redTree (x : Tile) (va : VReg) (c : VecCtl) (idle : Word32) (op : Word32 → Word32 → FpRes) : Word32 × Conds :=
  treeFold (redStep op) (idle, {}) 6 ((List.range 64).map (fun i => (if x.active c i then lane (x.vr va) i else idle, {})))

theorem redTree_fst (x : Tile) (va : VReg) (c : VecCtl) (idle : Word32) (op : Word32 → Word32 → FpRes) :
    (x.redTree va c idle op).1 = treeFold (fun a b => (op a b).word) idle 6
      ((List.range 64).map (fun i => if x.active c i then lane (x.vr va) i else idle)) := by
  rw [Tile.redTree, map_treeFold (g := Prod.fst) (f' := fun a b => (op a b).word) (fun _ _ => rfl), List.map_map]
  rfl

theorem vredF_eq (idle : Word32) (op : Bool → Word32 → Word32 → FpRes) (h : s.issues t true [rd]) (hc : VecCtl.plainFp c)
    (hz : c.pz = false) :
    let r := (s.tile t).redTree va c idle (op c.ftz)
    s.vredF t rd va c idle op =
      (s.vectorOn t).wide t (fun x => (x.setStat r.2.bits).setG rd (r.1.setWidth 64) (x.redPoison va c)) := by
  rw [State.vredF, vec_eq _ h (by rw [noCvt_of_plainFp hc, hz]; rfl), vectorOn_tile]
  rfl

theorem vredF_wroteG (idle : Word32) (op : Bool → Word32 → Word32 → FpRes) (h : s.issues t true [rd]) (hc : VecCtl.plainFp c)
    (hz : c.pz = false) :
    ∃ st, s.wroteG (s.vredF t rd va c idle op) t rd
      ((treeFold (fun a b => (op c.ftz a b).word) idle 6
        ((List.range 64).map (fun i => if (s.tile t).active c i then lane ((s.tile t).vr va) i else idle))).setWidth 64)
      ((s.tile t).redPoison va c) st ((s.tile t).pc + 8) ∧ st.toNat < 16 := by
  refine ⟨((s.tile t).redTree va c idle (op c.ftz)).2.bits, ?_, Conds.bits_lt _⟩
  rw [vredF_eq idle op h hc hz, ← redTree_fst]
  exact wide_wroteG (raisedTo_vectorOn _ _) (by rw [vectorOn_tile]; rfl)

/-- The effect of `vredAdd`. -/
theorem exec_vredAdd (h : s.issues t true [rd]) (hc : VecCtl.plainInt c) (hz : c.pz = false) :
    exec (.vredAdd t rd va c) s = .next (s.spelled t (.vredAdd t rd va c) ((s.vectorOn t).wide t (fun x =>
      x.setG rd ((treeFold (· + ·) 0 6 ((List.range 64).map (fun i => if x.active c i then lane (x.vr va) i else 0))).setWidth 64)
        (x.redPoison va c)))) :=
  congrArg (fun r => Host.Outcome.next (s.spelled t (.vredAdd t rd va c) r)) (vec_eq _ h (by rw [noFp_of_plainInt hc, hz]; rfl))

/-- The effect of `vredMax`: with no active lane the result is open. -/
theorem exec_vredMax (h : s.issues t true [rd]) (hc : VecCtl.plainInt c) (hz : c.pz = false) :
    exec (.vredMax t rd va c) s = .next (s.spelled t (.vredMax t rd va c)
      (if (List.range 64).any ((s.tile t).active c) then (s.vectorOn t).wide t (fun x =>
        x.setG rd ((treeFold maxLane 0 6
          ((List.range 64).map (fun i => if x.active c i then lane (x.vr va) i else 0x80000000))).setWidth 64)
          ((s.tile t).redPoison va c))
      else ((s.vectorOn t).wide t (fun x => x.setG rd (s.openWord &&& 0xFFFFFFFF) ((s.tile t).redPoison va c))).used)) := by
  refine congrArg (fun r => Host.Outcome.next (s.spelled t (.vredMax t rd va c) r))
    ((vec_eq _ h (by rw [noFp_of_plainInt hc, hz]; rfl)).trans ?_)
  rw [vectorOn_tile]
  rfl

/-- The low half of a word, zero-extended. -/
theorem and_low_half (a : Word) : a &&& 0xFFFFFFFF = (a.setWidth 32).setWidth 64 := by
  apply BitVec.eq_of_toNat_eq
  simp only [BitVec.toNat_and, BitVec.toNat_setWidth]
  exact (Nat.and_two_pow_sub_one_eq_mod a.toNat 32).trans (by omega)

end reductions

/-- Settles O7: an integer reduction is the tree's value by the laws of its operation, a floating-point one the tree's first component. -/
theorem reductions : Obligations.Reductions := by
  intro s t rd va c h hz x p ls fp
  have hfp : ∀ {i idle op}, VecCtl.plainFp c → exec i s = .next (s.spelled t i (s.vredF t rd va c idle op)) → fp i idle (op c.ftz) := by
    intro i idle op hc hexec hs
    obtain ⟨st, hwrote, hst⟩ := vredF_wroteG (va := va) idle op h hc hz
    exact ⟨_, st, exec_of_spells h.1 hexec hs, hwrote, hst⟩
  refine ⟨fun hc => ⟨?sum, ?max⟩, fun hc => ⟨hfp hc rfl, hfp hc rfl⟩⟩
  case sum =>
    refine step_of_spells h.1 (exec_vredAdd h hc hz) ?_
    rw [← treeFold_add_lanes (fun i => x.active c i) (fun i => lane (x.vr va) i)]
    exact wide_wroteG (raisedTo_vectorOn_tile s t) (by rw [vectorOn_tile]; rfl)
  case max =>
    intro hs
    have hexec := exec_of_spells h.1 (exec_vredMax h hc hz) hs
    by_cases hactive : (List.range 64).any (x.active c) = true
    · rw [if_pos hactive] at hexec
      exact ⟨_, _, hexec, wide_wroteG (raisedTo_vectorOn_tile s t) (by rw [vectorOn_tile]; rfl),
        treeFold_max_lanes (fun i => x.active c i) (fun i => lane (x.vr va) i)⟩
    · rw [if_neg hactive, and_low_half] at hexec
      have hnone : ls = [] := List.filter_eq_nil_iff.mpr (by simpa using hactive)
      exact ⟨_, _, hexec, wroteG_used (wide_wroteG (raisedTo_vectorOn_tile s t) rfl), fun hsome => absurd hnone hsome⟩

end Sys2Proof.Machine
